-- ==== Sys2Proof/Word.lean ====
section
/-! DEFINITION. The word types of the block: bytes, the register widths of the spec, and the four
index types that name a context, a logical tile, a link and a gang. Fields of registers and records
are bit vectors of the width the spec gives them; counts, indices and addresses in flight are `Nat`. -/
namespace Sys2Proof

abbrev Byte := BitVec 8
abbrev U16 := BitVec 16
abbrev U32 := BitVec 32
abbrev U64 := BitVec 64
/-- The bits of an FP32 value. -/
abbrev F32 := BitVec 32

/-- A hardware context, 0 to 63 (R11). -/
abbrev CtxId := Fin 64
/-- A logical tile of a context, 0 to 127 (R12, Table 1.1). -/
abbrev TileId := Fin 128
/-- A die: 0 near, 1 off. -/
abbrev DieId := Fin 2
/-- A Dunind link (R233). -/
abbrev LinkId := Fin 32
/-- A Dunind gang (R233). -/
abbrev GangId := Fin 8

end Sys2Proof
end

