-- ==== Sys2Proof/Syntax.lean ====
section
/-! DEFINITION. The commands of the block: one constructor of `Instr` per row of spec/opcode_table.json,
in the table's order. Operands are what the event or access carries from outside; what a step needs
and the device already holds is read from the state. Operand types that are not words come first. -/
namespace Sys2Proof

/-- What the error checks of the hardware report while a slot of an engine runs (R105, R141, R217,
R226): an input from outside the model.
DESIGN CHOICE, log entry 9. -/
inductive Upset where
  | clean
  /-- A correctable single-bit error in the store of a logical tile of the context (R226). -/
  | tileStoreCorrected (tile : Nat)
  /-- An uncorrectable error in the store of a logical tile of the context (R226). -/
  | tileStoreUncorrectable (tile : Nat)
  /-- A corrected plane error (R105). -/
  | planeCorrected
  /-- A corrected accumulator error (Table 4.7). -/
  | accumCorrected
  /-- A correctable error in an HBM line: up to 3 symbols of its codeword (R217, R218). -/
  | hbmCorrected (line : Nat)
  /-- Uncorrectable stationary-plane error: a partition fault (R105). -/
  | planeEcc
  /-- Mod-3 residue mismatch: a partition fault (R105). -/
  | residue
  /-- Parity error on a streamed vector: a partition fault (R105). -/
  | streamParity
  /-- Uncorrectable accumulator-bank, lane or held-value error: a tile fault (R141). -/
  | tileUncorrectable
  /-- Uncorrectable staging-store error: a device fault. -/
  | stagingUncorrectable
  /-- An uncorrectable error in an HBM line (R217, R219). -/
  | hbmUncorrectable (line : Nat)
  deriving DecidableEq, Repr

/-- What a scrub read finds in a line's codeword (R217, R220): no error; up to 3 symbol errors, which are corrected; 4
symbol errors, a line of another address, or a pattern that the stack's own ECC reports as uncorrectable.
DESIGN CHOICE, log entry 9. -/
inductive LineCheck where
  | clean | corrected | uncorrectable
  deriving DecidableEq, Repr

/-- What the FEC decoder reports for a flit (R235, R238). -/
inductive Fec where
  /-- Decoded, with this many symbols corrected. -/
  | decoded (corrected : Nat)
  /-- The flit falls in uncorrectable codewords, of which `fresh` are reported with no flit before it. -/
  | uncorrectable (fresh : Nat)
  deriving DecidableEq, Repr

/-- Where a memory-mapped or configuration access of the host falls (Tables 14.2, 14.3): BAR0, the doorbell pages of
BAR2, BAR4, or the configuration space. -/
inductive HostPage where
  | bar0 | doorbells | bar4 | config
  deriving DecidableEq, Repr

/-- Where an access of the host lands: a page, and the byte in it. -/
structure HostAddr where
  page : HostPage
  off : BitVec 24
  deriving DecidableEq, Repr

/-- A FWPUSH with the length it writes to SEC_OP (R397): `between` are the host's stores between the two reads of the
source, `interrupted` the words written when a reset is to stop the push.
DESIGN CHOICE, log entry 106. -/
structure FwPush where
  len : BitVec 25
  between : List Host.Cell := []
  interrupted : Option Nat := none
  deriving DecidableEq, Repr

/-- A feature of Table 14.1 that a capability bit may announce. -/
inductive CxlFeature where
  | cache | mem | hdmDb | hdmH | hdmD | flit256 | flit256LatOpt | flit68 | portRouting | mld | dynamicCapacity | multiHead
  | ide | doe | poison | cxlReset | flr | persistentFlush
  deriving DecidableEq, Repr

/-- Size of a host access to BAR0, BAR2 or BAR4 (R341, R348). -/
inductive Access where
  | word32 | word64 | other
  deriving DecidableEq, Repr

/-- Transport of a bridle frame (Table 14.9). -/
inductive Transport where
  | ethernet | udp4
  deriving DecidableEq, Repr

/-- The parts of a received bridle frame that R355 and R356 test.
PRESUMED, log entry 111. -/
structure Frame where
  tag : Option (BitVec 12)
  transport : Transport
  domain : Byte
  /-- logMessageInterval of the PTP header, read of a Sync message alone (R356). -/
  logInterval : Int := 0
  deriving DecidableEq, Repr

/-- A PTP port identity. -/
structure PortId where
  clock : U64
  port : U16
  deriving DecidableEq, Repr

/-- The content of a PTP Announce message (IEEE 1588-2019) that the best master selection reads.
PRESUMED, log entry 111. -/
structure Announce where
  source : PortId
  priority1 : Byte
  clockClass : Byte
  clockAccuracy : Byte
  variance : U16
  priority2 : Byte
  grandmaster : U64
  stepsRemoved : U16
  logInterval : Int
  deriving DecidableEq, Repr

/-- A timestamp: nanoseconds and a 16-bit fraction (R357). -/
structure Stamp where
  ns : U64
  frac : U16
  deriving DecidableEq, Repr

/-- Which power-on source acts (Table 16.1). `porst` carries the length of the low level in ticks. -/
inductive PowerCause where
  | porst (lowTicks : Nat)
  | pwrgdLow
  | vaonLost
  deriving DecidableEq, Repr

/-- Targets of RST_BLK (Table 16.5).
DESIGN CHOICE, log entry 112. -/
inductive BlkTarget where
  | context (c : CtxId) | sync | grx | upd | tel
  /-- A TARGET field outside Table 16.5. -/
  | invalid (code : BitVec 4)
  deriving DecidableEq, Repr

/-- The registers of UPD_CFG_WRITE (R316).
DESIGN CHOICE, log entry 112. -/
inductive UpdCfg where
  | normCfg | rootCfg | tabs
  deriving DecidableEq, Repr

/-- CXL IDE key-management messages (R336). -/
inductive IdeMsg where
  | keyProg (stream : Byte) (key : BitVec 256)
  | keySetGo (stream : Byte)
  | keySetStop (stream : Byte)
  deriving DecidableEq, Repr

/-- The commands of the block. -/
inductive Instr where
  -- doorbells (R348)
  | sqTail (c : CtxId) (v : U32) (hostWrites : List Host.Cell)
  | cqHead (c : CtxId) (v : U32)
  | eqHead (c : CtxId) (v : U32)
  | tqHead (c : CtxId) (v : U32)
  -- dispatcher (R54-R66)
  | load (c : CtxId)
  | loadChain (c : CtxId)
  | start (c : CtxId)
  | abort (c : CtxId)
  | fence (c : CtxId)
  | pageLoadEnd (c : CtxId) (pos : U32)
  | startQueueBegin (c : CtxId) (t : TileId)
  -- control core and engines of a tile
  | wordIssue (c : CtxId) (t : TileId)
  | loadCopy (c : CtxId) (t : TileId) (u : Upset)
  | multicast (c : CtxId) (t : TileId) (u : Upset)
  | gather (c : CtxId) (t : TileId) (u : Upset)
  | storeCopy (c : CtxId) (t : TileId) (u : Upset)
  | scatter (c : CtxId) (t : TileId) (u : Upset)
  | scatterAdd (c : CtxId) (t : TileId) (u : Upset)
  | accumulate (c : CtxId) (t : TileId) (u : Upset)
  | mma (c : CtxId) (t : TileId) (u : Upset)
  | inline (c : CtxId) (t : TileId) (u : Upset)
  | chain (c : CtxId) (t : TileId) (u : Upset)
  | apply (c : CtxId) (t : TileId) (u : Upset)
  | put (c : CtxId) (t : TileId)
  | get (c : CtxId) (t : TileId)
  | acc (c : CtxId) (t : TileId)
  | fadd (c : CtxId) (t : TileId)
  | swap (c : CtxId) (t : TileId)
  | cas (c : CtxId) (t : TileId)
  | signal (c : CtxId) (t : TileId)
  | waitSignal (c : CtxId) (t : TileId) (w : Nat)
  | barrier (c : CtxId) (t : TileId) (w : Nat)
  | slotComplete (c : CtxId) (t : TileId) (w : Nat) (slot : Fin 8)
  | completionRecordWrite (c : CtxId)
  | partitionSelfTest (c : CtxId) (t : TileId) (pass : BitVec 4)
  -- hitch fabric registers
  | mapWrite (entry : U64)
  | hostSignal (n : U32)
  | set (n : U32)
  | poison
  -- memory
  | memAllotWrite (c : CtxId) (v : U64)
  | memStgWrite (c : CtxId) (d : DieId) (v : U64)
  | patrolScrub (line : Nat) (found : LineCheck)
  | rowRepair (ch : Fin 256) (bank row : Nat) (spareLeft : Bool)
  | channelRetirement (ch : Fin 256)
  | hostWindowRead (a : Nat) (cached : Bool)
  | hostWindowWrite (a : Nat) (data : List Byte)
  | backInvalidateTimeout (line : Nat)
  | hdmCommit (base size : Nat) (backInvalidate : Bool)
  -- Dunind links
  | dataFlit (l : LinkId) (flit : List Byte) (fec : Fec)
  | idleFlit (l : LinkId) (flit : List Byte) (fec : Fec)
  | nakFlit (l : LinkId) (flit : List Byte) (fec : Fec)
  | timeFlit (l : LinkId) (flit : List Byte) (fec : Fec)
  | timeFlitSend (g : GangId)
  | nakResendTimeout (l : LinkId)
  | laneFail (l : LinkId)
  | lossOfSignal (l : LinkId)
  | detectRetry (l : LinkId) (signal : Bool)
  | trainingStateExit (l : LinkId)
  | trainingTimeout (l : LinkId)
  -- remote operations at the target and the initiator
  | putRequest
  | getRequest
  | accRequest
  | faddRequest
  | swapRequest
  | casRequest
  | signalRequest
  | ack
  | getData
  | atomRes
  | opTimeout (op : Nat)
  | handover
  | handoverTimeout (l : LinkId)
  | gangTimeSilence (g : GangId)
  | fabGangCfgWrite (g : GangId) (v : U64)
  | fabWinWrite (c : CtxId) (w : Fin 16) (word : Fin 2) (v : U64)
  | ewNotice
  | hold
  | holdAck
  | remount
  -- gradient exchange
  | enable (c : CtxId) (b : Fin 1024) (efkeep : Bool)
  | disable (c : CtxId) (b : Fin 1024)
  | rescaleReset (c : CtxId) (b : Fin 1024)
  | bucketStart (c : CtxId) (b : Fin 1024)
  | admissionRetry (c : CtxId) (b : Fin 1024) (owner : BitVec 24)
  | ownerArrival (c : CtxId) (b : Fin 1024)
  | shareDeadline (c : CtxId) (b : Fin 1024)
  | ringSlotArrival (c : CtxId) (b : Fin 1024)
  | ringDeadline (c : CtxId) (b : Fin 1024)
  | slotCredit (c : CtxId) (b : Fin 1024)
  | notice (c : CtxId) (b : Fin 1024)
  | resend (c : CtxId) (b : Fin 1024)
  | prepass (c : CtxId) (b : Fin 1024)
  | scale (c : CtxId) (b : Fin 1024)
  | phat (c : CtxId) (b : Fin 1024)
  -- parameter update
  | updListWrite (c : CtxId) (word : Fin 2) (v : U64)
  | updateStepStart (c : CtxId)
  | normShareArrival (c : CtxId)
  | kappaRecord (c : CtxId) (d : DieId)
  | distributionPut (c : CtxId) (d : DieId)
  | rootJob (c : CtxId)
  | rootJobEnd (c : CtxId) (k : Fin 8)
  | telemetryRecordWrite (c : CtxId) (d : DieId)
  | freeze (c : CtxId) (entry : Fin 65536)
  | thaw (c : CtxId) (entry : Fin 65536)
  -- Farrier
  | resume (c : CtxId)
  | repair
  | ewRaise
  | ewRelease
  | withdraw
  | ewarnN (ticks : Nat)
  -- host interface
  | hifCtxCfgWrite (c : CtxId) (v : U64)
  | hifHostaccWrite (c : CtxId) (range : Fin 8) (word : Fin 2) (v : U64)
  | hifRingWrite (c : CtxId) (r : Fin 4) (word : Fin 2) (v : U64)
  | preempt (c : CtxId)
  | ctxResume (c : CtxId)
  | contextSaveEnd (c : CtxId)
  | contextRestoreEnd (c : CtxId)
  | interruptTimer (c : CtxId) (r : Fin 4)
  | cxlLinkDown
  | cxlLinkUp (width : Nat) (rate : Nat) (flit256 : Bool)
  -- bridle port and timebase
  | announceMessage (f : Frame) (a : Announce)
  | syncMessage (f : Frame) (src : PortId) (seq : U16) (twoStep : Bool) (origin : Stamp) (corr : Int)
  | followUpMessage (f : Frame) (src : PortId) (seq : U16) (origin : Stamp) (corr : Int)
  | delayRespMessage (f : Frame) (src : PortId) (seq : U16) (received : Stamp) (corr : Int)
      (logMinInterval : Int)
  | delayReqSend
  | pdelayReqSend
  | pdelayReqMessage (f : Frame) (src : PortId) (seq : U16)
  | pdelayRespMessage (f : Frame) (src : PortId) (seq : U16) (received sent : Stamp)
  | arpRequest (tag : Option (BitVec 12)) (target sender : U32) (senderMac : BitVec 48)
  | announceReceiptTimeout
  | servoUpdate (intervalNs : Nat)
  | timeSet (v : U64)
  | timeNowRead
  | ppsEdge (highNs : Nat)
  | ppsLoss
  | sfuLoad (ctl : U64)
  -- power
  | pwrRailWrite (v : U64)
  | rampStep
  | rampTimeout
  | stand (d : BitVec 7)
  | rest (d : BitVec 7)
  | run (d : BitVec 7)
  | domainTransitionEnd (d : Fin 80) (sparePass : BitVec 2)
  | paceUpdate (near off : U16) (beats : U64)
  | regulatorPoll (power icore : U16) (vcore : BitVec 12)
  | sensorRead (readings : List U16)
  -- reset and boot
  | powerOn (cause : PowerCause)
  | groomWatchdog (core : Fin 4)
  | heartbeatCheck (beats : BitVec 4)
  | cxlConventionalReset
  | warm
  | reboot
  | alwaysOnRelease
  | optionLoading
  | groomCoresRelease
  | firmwareVerification
  | hbmRelease
  | hbmInitDone (failed : List (Fin 256))
  | dunindRelease
  | cxlRelease
  | tilesRelease (sparePass : Byte)
  | quiesce (t : BlkTarget)
  | reset (t : BlkTarget)
  | optpush (len : BitVec 25)
  | fwpush (push : FwPush)
  | rollfwd
  | assign (len : BitVec 25)
  -- attestation
  | getVersion
  | getCapabilities
  | negotiateAlgorithms (ed25519 sha512 secp384r1 aes256gcm : Bool)
  | getMeasurements (index : Byte) (nonce : BitVec 256) (sign : Bool)
  | keyExchange (exchangeData : List Byte)
  | finish (macValid : Bool)
  | endSession
  -- register and link accesses
  | registerWrite (addr : HostAddr) (size : Access) (v : U64)
  | registerRead (addr : HostAddr) (size : Access)
  | sidebandAccess (index : Byte) (write : Option (List Byte))
  | d3hotTransition (enter : Bool)
  | cdatTableAccess (entry : U16)
  | ideKeyManagement (m : IdeMsg)
  | hostSnoop (line : Nat)
  | backInvalidateResponse (line : Nat)
  | ewarnNDeassertion
  | regulatorConfirm
  | farrierRepairEnd
  | updCfgWrite (reg : UpdCfg) (c : CtxId) (word : Fin 2) (v : U64)
  | bridleFrameDrop
  | msixVectorUnmask (v : Fin 2048)
  deriving DecidableEq, Repr

end Sys2Proof
end

