-- ==== Sys2Proof/Decode.lean ====
section
/-! DEFINITION. Reading a command from the bits of the opcode table. The table of this block gives no row
any bits, so no word spells a command. -/
namespace Sys2Proof

/-- DESIGN CHOICE, log entry 2. -/
def decodeTableWord (_nbits _w : Nat) : Option Instr := none

end Sys2Proof
end

