-- ==== Sys2Proof/Config.lean ====
section
/-! DEFINITION. The values the spec leaves open, as constants without a body: nothing in Lean can
evaluate them, so a claim about the model holds whatever they are. Each is named in the assumption
log entry that its docstring gives. -/
namespace Sys2Proof.Config

/-- DESIGN CHOICE, log entry 5. A fresh 64-bit value for the n-th open value that a run meets; `n` is
`State.freeCtr`. -/
opaque freeValue : Nat → BitVec 64

/-- DESIGN CHOICE, log entry 20. An open value inside a program's work, by the place in the program that meets it: step,
tile, the word's ordinal, slot, row and register. The same program meets the same values whatever its pace (R27). -/
opaque openAt : List Nat → BitVec 64

/-- DESIGN CHOICE, log entry 6. What library function `fnum` computes for the FP32 input `x` (R150), within the
bound of Table 6.5: the spec bounds the error and does not state the bits. `libComputed` takes it where it lies
within the bound. -/
opaque libResult : Nat → BitVec 32 → BitVec 32

/-- DESIGN CHOICE, log entry 6. Cosine and sine of the exact product p × θ that ROPE forms (R166), for
the position `p` and the FP32 frequency `theta`, within the bound of R166: `ropeOf` takes them where they lie
within it. -/
opaque ropeCos : Nat → BitVec 32 → BitVec 32
opaque ropeSin : Nat → BitVec 32 → BitVec 32

/-- DESIGN CHOICE, log entry 23. Bank and row in which a channel's controller places the byte at a channel
offset (R214, R221). -/
opaque rowOf : Nat → Nat → Nat × Nat

/-- DESIGN CHOICE, log entry 120. Words of the configuration space beyond the fields that the spec states, by offset:
they read identically on every device (R340). -/
opaque configWord : Nat → BitVec 32

/-- DESIGN CHOICE, log entry 120. Offset and bit of the capability bit of a feature (R336). -/
opaque capPlace : CxlFeature → Nat × Nat

/-- DESIGN CHOICE, log entry 120. Offset of the MSI-X capability in the configuration space (Table 14.2). -/
opaque msixCap : Nat

/-- DESIGN CHOICE, log entry 120. Words of the CXL component registers of BAR4 by offset, with the state of the decoder they
show: committed, base and size. -/
opaque componentWord : Nat → Bool → Nat → Nat → BitVec 32

/-- DESIGN CHOICE, log entry 7. Bytes 0 to 31 of the attestation public key that the boot ROM draws at
the n-th boot (R396). -/
opaque attestationKey : Nat → BitVec 256

/-- DESIGN CHOICE, log entry 7. SHA-512 of the boot ROM (Table 16.12, block 1). -/
opaque romHash : List Byte

/-- DESIGN CHOICE, log entry 7. The vendor's Ed25519 public key in the ROM. -/
opaque vendorKey : BitVec 256

/-- DESIGN CHOICE, log entry 7. The signature the ROM makes with the per-boot key over a message (R402). -/
opaque romSign : BitVec 256 → List Byte → List Byte

end Sys2Proof.Config
end

