-- ==== Sys2Proof/Machine/State.lean ====
section
/-! DEFINITION. The state of the block, as plain data: every register, store, queue, counter, mode
and pin the spec gives the Cordo, and the queue of waiting commands. INVENTORY.md lists each with its
rule and reset value. Things the spec numbers (contexts, tiles, hitches, links, bytes) are tables from
a number to a value; a number without an entry has the reset value of its kind. -/
namespace Sys2Proof.Machine
open Sys2Proof

/-- A table from numbers to values, keys rising (`Tab.wf` in Ops.lean). -/
abbrev Tab (α : Type) := List (Nat × α)

/-- Bytes by address; an address without an entry reads 0, and no entry holds 0. -/
abbrev Mem := List Host.Cell

/-! ## Outcomes -/

/-- Why the machine stops. -/
inductive Fault where
  /-- Raised by HOST_WINDOW_READ and HOST_WINDOW_WRITE for an address beyond the 512 GiB window (R228): no
  such address exists. Safe: nothing is claimed of it. -/
  | noSuchAddress (a : Nat)
  deriving DecidableEq, Repr

/-- Why a command has no meaning. -/
inductive Refusal where
  /-- A command whose meaning is not written. Raised by Dispatch only. Safe. -/
  | notModelled (mnemonic : String)
  /-- A command that `Instr.wf` refuses (a flit that is not 256 bytes and the like): it is no command of
  the block. Raised by the meanings that carry such operands. Safe. -/
  | illFormed (what : String)
  deriving DecidableEq, Repr

/-- Status codes of Table 2.17 (R68). -/
inductive Status where
  | done | aborted | nothingToAbort | faultDiscarded | ownerLost | preempted
  | invalidWord | range | align | overlap | busy | stalePage | notIdle
  | stepMismatch | frozen | rescale | late | scaleExhausted
  | linkLost | remounted | internal
  deriving DecidableEq, Repr

/-! ## Numbers and tensors -/

/-- A value before rounding: an exact dyadic m × 2^e, an infinity, or an FP32 NaN by its bits. -/
inductive Num where
  | fin (neg : Bool) (m : Nat) (e : Int)
  | inf (neg : Bool)
  | nan (bits : F32)
  deriving DecidableEq, Repr

/-- The space part of a device address (Table 1.1). -/
inductive Space where
  | hbm | tile (t : Nat) | staging (die : Nat) | host
  | remote (coord : BitVec 24) (window : Nat)
  deriving DecidableEq, Repr

/-- A device address: space and byte offset (R15). -/
structure Addr where
  space : Space
  off : Nat
  deriving DecidableEq, Repr

/-- A decoded tensor descriptor (Table 7.1). `ext` and `str` list the memory dimensions from 0;
`str` and `sstr` are byte strides, the entry of dimension 0 being 0. -/
structure Desc where
  base : Addr
  tid : U32
  fmt : Nat
  view : Bool
  ovlp : Bool
  izero : Bool
  swz : Nat
  dist : Bool
  blkLog2 : Nat
  idxWrap : Bool
  fill : Nat
  ext : List Nat
  str : List Int
  soff : Int
  sstr : List Int
  deriving DecidableEq, Repr

/-- A decoded CONV byte (Table 3.7); `none` in a move is CONV 0x00. -/
structure Conv where
  fmt : Nat
  sr : Bool
  scl : Bool
  deriving DecidableEq, Repr

/-! ## Functions of the special function unit (R143-R146) -/

structure MicroStep where
  kind : Nat
  mode : Nat
  dst : Nat
  srcA : Nat
  srcB : Nat
  tbl : Nat
  base : Nat
  deriving DecidableEq, Repr

/-- A function image: header fields and steps (Tables 6.1 and 6.3). -/
structure FnImage where
  scmFn : Nat
  act : List Nat
  steps : List MicroStep
  deriving DecidableEq, Repr

/-- A user function slot 0x80-0xFF: current copy, shadow copy, and a count of commits. -/
structure UserFn where
  cur : Option FnImage := none
  shadow : Option FnImage := none
  ver : Nat := 0
  deriving DecidableEq, Repr

/-- A user table: entries, generation, shadow copy (R152-R155). -/
structure UserTbl where
  cur : List U32 := []
  gen : U16 := 0
  shadow : Option (List U32) := none
  deriving DecidableEq, Repr

/-- The function a slot or stage is bound to: a library number, or a user function's own copy with
the tables its steps name (R155). -/
inductive FnRef where
  | lib (fnum : Nat)
  | user (fnum ver : Nat) (img : FnImage) (tbls : List (Nat × U16 × List U32))
  deriving DecidableEq, Repr

/-! ## Slots of issued words -/

/-- A virtual hitch as translated at issue (R198): physical key (die × 16384 + number), credits that
this context's entry takes or adds. -/
structure HRef where
  vid : U16
  key : Nat
  amount : Nat
  deriving DecidableEq, Repr

/-- A lane type (R115). -/
inductive LTy where
  | f | i | p
  deriving DecidableEq, Repr

/-- Operand B of a vector stage, captured at issue (Table 5.2, R118). -/
inductive Opnd where
  | none
  | scalarF (v : F32)
  | scalarI (v : U64)
  | side (d : Desc)
  | held (k : Nat)
  | imm (v : Int)
  | x0
  | row (d : Desc)
  deriving DecidableEq, Repr

/-- A stage of a chain with its operands captured. `aux` is the carry, count or mask tensor. -/
structure Stage where
  op : Nat
  b : Opnd
  creg : Nat
  hw : Bool
  hreg : Nat
  pk : Bool
  pm : Bool
  rev : Bool
  ci : Bool
  opnd : Nat
  aux : Option Desc
  fn : Option FnRef
  /-- ROPE: table 15 and its generation. -/
  theta : List U32
  thetaGen : U16
  /-- Lane types of x before the stage and of operand B (R115). -/
  tx : LTy
  tb : LTy
  deriving DecidableEq, Repr

/-- Input of a vector slot: a descriptor, or a region of an accumulator bank (R120). -/
inductive VecIn where
  | desc (d : Desc)
  | bank (bank aoff m n : Nat)
  deriving DecidableEq, Repr

/-- What a slot does, with the descriptors and scalars captured at issue (R46, R170). `chain` is the page
of a chain slot's record (R63). -/
inductive SlotOp where
  | move (store : Bool) (op : Nat) (conv : Option Conv) (src dst : Desc) (idx : Option Desc)
  | mma (fmtS fmtT : Nat) (bank : Nat) (acc keep axis : Bool) (s : Desc) (t : Option Desc)
      (m n k aoff part : Nat)
  | vec (inline : Bool) (stages : List Stage) (fmtIn fmtOut : Nat) (sr scm : Bool) (srtid : U32)
      (inp : VecIn) (out : Desc) (tyOut : LTy)
      (chain : Option Nat)
  | fn (scm : Bool) (f : FnRef) (inp out : Desc)
  | rem (op : Nat) (coord : BitVec 24) (win : Nat) (off : Nat) (rse : Bool) (rhitch : U16)
      (loc : Option Desc) (resreg : Nat) (operand compare : U64)
  deriving DecidableEq, Repr

/-- Progress of a slot of an issued word. -/
inductive SlotState where
  /-- In its engine queue. -/
  | queued
  /-- Started and not yet performed (remote operations only). -/
  | started
  /-- Performed, its writes acknowledged; flags and SIG not yet posted (R49). -/
  | performed
  /-- Completed, failed or discarded; nothing more happens. -/
  | ended
  deriving DecidableEq, Repr

/-- How the wait of a slot or word stands. -/
inductive WaitState where
  | unasked | asleep | granted
  deriving DecidableEq, Repr

structure ISlot where
  num : Nat
  op : SlotOp
  wait : Option HRef
  sig : Option HRef
  waiting : WaitState := .unasked
  st : SlotState := .queued
  /-- Working values of an MMA that has not committed: bank word key and value (R108, R109). -/
  work : List (Nat × U32) := []
  flags : BitVec 9 := 0
  fail : Option Status := none
  /-- Old value returned to RESREG at completion (R253). -/
  res : Option (Nat × U64) := none
  deriving DecidableEq, Repr

/-- The hitch slot of an issued word. -/
structure HSlot where
  barrier : Bool
  group : Option HRef
  sig1 : Option HRef
  sig2 : Option HRef
  /-- Identifiers named by WAIT and WAIT2 (R197). -/
  waits : List Nat := []
  /-- The tile's third entry: its core issues nothing further until it has been made (R207). -/
  stalled : Bool := false
  /-- BARRIER: the entry has been made (R207). -/
  entered : Bool := false
  /-- The signals have been raised, or will never be. -/
  fin : Bool := false
  deriving DecidableEq, Repr

/-- An issued word that has not retired. -/
structure IWord where
  seq : Nat
  pos : U32
  step : U64
  tag : U16
  /-- Words its program had issued before it. -/
  ord : Nat := 0
  slots : List ISlot
  hitch : Option HSlot
  deriving DecidableEq, Repr

/-- The failure that a completion record reports (R412, R67). -/
structure Failure where
  status : Status
  tile : Nat
  tag : Option U16
  slot : Option Nat
  deriving DecidableEq, Repr

/-! ## A tile -/

/-- A hardware loop (R51-R53). `start` is the byte offset of the LSTART word. -/
structure Loop where
  start : Nat
  count : U32
  iter : U32
  deriving DecidableEq, Repr

/-- The running program of a tile. -/
structure Prog where
  pos : U32
  step : U64
  /-- Byte offset in the descriptor store of the next word. -/
  off : Nat
  /-- The pages of the block with the generation each had at the start (R64). -/
  gens : List (Nat × U16)
  loops : List Loop := []
  /-- Words issued so far. -/
  ord : Nat := 0
  /-- The next word is an LSTART word reached by its back-branch (R53). -/
  returning : Bool := false
  wait1 : WaitState := .unasked
  wait2 : WaitState := .unasked
  /-- Credits that the next word's hitch-slot waits have taken (R201). -/
  held : List HRef := []
  /-- The count of the loop that the next word opens, latched when the core came to it (R53). -/
  count : Option U32 := none
  /-- The next word waits on no hitch and was being issued when its page began to close (R63). -/
  current : Bool := false
  /-- No further word is issued: LAST passed, failed, aborted or stale. -/
  stopped : Bool := false
  deriving DecidableEq, Repr

/-- An entry of a start queue (R58). -/
structure StartReq where
  pos : U32
  page : Nat
  soff : Nat
  gens : List (Nat × U16)
  step : U64
  arg0 : U64
  arg1 : U64
  deriving DecidableEq, Repr

inductive PageState where
  | empty | loading | loaded | closing
  deriving DecidableEq, Repr

/-- A page of the descriptor store: state, kind, generation (Table 2.19), and what the dispatcher
recorded of the block's words in it at load time (R53, R59): the byte offsets in the store at which words
start, and for each LSTART word the offset after its matching LEND, `none` when that is the LAST word. -/
structure Page where
  st : PageState := .empty
  chain : Bool := false
  gen : U16 := 0
  starts : List Nat := []
  skips : List (Nat × Option Nat) := []
  deriving DecidableEq, Repr

/-- A plane record (R100). -/
structure PlaneRec where
  valid : Bool := false
  fmt : Nat := 0
  ext0 : Nat := 0
  ext1 : Nat := 0
  deriving DecidableEq, Repr

/-- A bank record (R120); `age` orders records from the oldest. -/
structure BankRec where
  valid : Bool := false
  aoff : Nat := 0
  m : Nat := 1
  n : Nat := 1
  age : Nat := 0
  deriving DecidableEq, Repr

/-- Service of a quadrant (Table 4.5); a fenced one whose self-test runs is `Dev.quadCode`'s matter. -/
inductive QuadState where
  | inService | fenced | retired
  deriving DecidableEq, Repr

/-- What the matrix array of a physical tile has been through since reset (R106, R107, R111). -/
structure Health where
  quads : Tab QuadState := []
  /-- A partition fault waits for its self-test (R107). -/
  selfTest : Bool := false
  passCnt : U16 := 0
  faultCnt : U16 := 0
  /-- An upset of the tile store that no read has found yet: `true` where it is uncorrectable (R226). -/
  storeErr : Option Bool := none
  deriving DecidableEq, Repr

/-- Service of a physical tile (R13, R321, R322). -/
inductive TileRole where
  | active | spare | retired
  deriving DecidableEq, Repr

/-- The state of one tile that belongs to the logical tile it backs. -/
structure Tile where
  store : Mem := []
  dstore : Mem := []
  pages : Tab Page := []
  regs : Tab U64 := []
  prog : Option Prog := none
  startq : List StartReq := []
  words : List IWord := []
  nextSeq : Nat := 0
  planes : Tab PlaneRec := []
  /-- The stationary block held for each PART, by stored row (R101). -/
  blocks : Tab (List (List Num)) := []
  banks : Tab U32 := []
  bankRecs : Tab BankRec := []
  bankAge : Nat := 0
  eccPlane : U32 := 0
  eccAccum : U32 := 0
  tsCorr : U32 := 0
  emptyRows : U32 := 0
  satElem : U32 := 0
  varClamp : U32 := 0
  posRange : U32 := 0
  idxRange : U32 := 0
  conflict : U32 := 0
  fns : Tab UserFn := []
  tbls : Tab UserTbl := []
  deriving DecidableEq, Repr

/-- A physical tile: its service, the position a spare took over (R194), the service of its quadrants, and the
tile state. -/
structure PTile where
  role : TileRole := .active
  position : Nat := 0
  health : Health := {}
  tile : Tile := {}
  deriving DecidableEq, Repr

/-! ## Launches and rings -/

/-- A launch record (Table 2.13). -/
structure LaunchRec where
  ltag : U16
  zero1 : BitVec 5
  chkgen : Bool
  force : Bool
  go : Bool
  type : Byte
  egen : U16
  soff : Nat
  pcnt : Nat
  page : Nat
  tmask : BitVec 128
  src : U64
  len : Nat
  zero2 : BitVec 48
  step : U64
  arg0 : U64
  arg1 : U64
  deriving DecidableEq, Repr

inductive LaunchPhase where
  /-- A LOAD or LOAD_CHAIN whose data is on its way. -/
  | loading
  /-- A START, or the start part of a LOAD, that waits for a page an earlier record loads (R59). -/
  | waitPage
  /-- Its programs run or wait in start queues. -/
  | running
  /-- A FENCE that waits for every earlier record (Table 2.14). -/
  | fence
  /-- An ABORT that waits for its targets to end. -/
  | aborting
  /-- Ended; its completion record waits to be written. -/
  | ready
  deriving DecidableEq, Repr

/-- A launch record read and not yet retired. -/
structure Launch where
  pos : U32
  record : LaunchRec
  phase : LaunchPhase
  /-- Tiles whose program has not ended. -/
  left : List Nat := []
  failure : Option Failure := none
  /-- An ABORT has latched against this launch (R65). -/
  abort : Bool := false
  /-- ABORT: positions of its targets; `hit` when one completed with ABORTED. -/
  targets : List U32 := []
  hit : Bool := false
  deriving DecidableEq, Repr

/-- A ring (Table 14.16) with its indices (Table 14.17), doorbell word and interrupt count. -/
structure Ring where
  base : BitVec 40 := 0
  sizeLog2 : BitVec 5 := 0
  en : Bool := false
  drop : Bool := false
  ien : Bool := false
  vec : BitVec 5 := 0
  icount : BitVec 10 := 1
  itimer : U16 := 0
  dev : U32 := 0
  host : U32 := 0
  door : U32 := 0
  k : Nat := 0
  deriving DecidableEq, Repr

/-- A completion record waiting to be written (R67). -/
structure Cpl where
  pos : U32
  ltag : U16
  step : U64
  status : Status
  tile : Nat
  tag : Option U16
  slot : Option Nat
  /-- RETIRED of a FAULT_DISCARDED record, fixed at the fault (R318). -/
  retiredAt : Option U64
  deriving DecidableEq, Repr

/-- An event record waiting to be written (Table 14.7). -/
structure Ev where
  type : Nat
  seq : U32
  time : U64
  p0 : U64
  p1 : U64
  deriving DecidableEq, Repr

/-- A host-access range (Table 14.24). -/
structure HostAcc where
  base : BitVec 40 := 0
  pw : Bool := false
  pr : Bool := false
  en : Bool := false
  size : BitVec 40 := 0
  deriving DecidableEq, Repr

/-- A remote window (Table 10.18). -/
structure Win where
  base : BitVec 27 := 0
  space : BitVec 2 := 0
  patom : Bool := false
  pacc : Bool := false
  pput : Bool := false
  pget : Bool := false
  en : Bool := false
  size : BitVec 22 := 0
  deriving DecidableEq, Repr

/-- A staging-store range (Table 9.9). -/
structure StgRange where
  size : BitVec 14 := 0
  base : BitVec 13 := 0
  en : Bool := false
  deriving DecidableEq, Repr

/-- A hitch map entry (Table 8.1). -/
structure HEntry where
  thresh1 : Byte := 0
  width1 : Byte := 0
  barrier : Bool := false
  exported : Bool := false
  own : Bool := false
  die : Bool := false
  phys : BitVec 14 := 0
  /-- 0 while the hitch is in its physical hitch; 1 + context while it is saved with its context (R208). -/
  saved : Nat := 0
  deriving DecidableEq, Repr

inductive Residence where
  | resident | saving | preempted | restoring
  deriving DecidableEq, Repr

/-! ## Gradient exchange (chapter 11) -/

/-- A bucket descriptor (Table 11.1), copied at ENABLE. -/
structure BktDesc where
  tag : U16
  mode : Nat
  ring : Bool
  rdim : Nat
  mean : Bool
  head : Nat
  effmt : Nat
  srq : Bool
  chLog2 : Nat
  param : Nat
  colLog2 : Nat
  ncm1 : Nat
  xhitch : U16
  first : Nat
  n : Nat
  starth : U16
  cdoneh : U16
  odoneh : U16
  step : U32
  deadline : Nat
  efoff : Nat
  xwin : Nat
  xoff : Nat
  g : Desc
  o : Desc
  deriving DecidableEq, Repr

inductive BktState where
  | disabled | waiting | exchanging | closing | failed
  deriving DecidableEq, Repr

/-- A scale entry (R271). -/
structure ScaleEnt where
  f : Int := 0
  step : U32 := 0
  valid : Bool := false
  deriving DecidableEq, Repr

/-- A contributor's progress on one chunk. -/
inductive ChunkC where
  /-- Not prepared. -/
  | idle
  /-- Prepared; sent or waiting for the scale, the ring or the NOTICE. -/
  | open
  /-- Closed for this device (R289). -/
  | closed
  deriving DecidableEq, Repr

/-- What a contributor keeps of a chunk: its progress, the scales of its last passes, the pass it sends, and
the owner records it has handled: type, step, attempt, and whether P̂ had arrived. -/
structure CChunk where
  st : ChunkC := .idle
  f : Int := 0
  fq : Int := 0
  attempt : Nat := 0
  /-- Hops that must contribute in the pass the first hop starts next. -/
  mask : U64 := 0
  t0 : U64 := 0
  /-- This hop has added its contribution to a pass. -/
  sent : Bool := false
  /-- Some element of this device's contribution was not finite. -/
  nonfin : Bool := false
  /-- P̂ has arrived: the chunk is in its Q pass. -/
  phat : Bool := false
  seen : List (Nat × U32 × Nat × Bool) := []
  deriving DecidableEq, Repr

/-- An owner's progress on one chunk (R283-R286). -/
structure OChunk where
  closed : Bool := false
  /-- Status it closed with. -/
  code : Status := .done
  /-- Scale in force, once a pre-pass has given it. -/
  fv : Option Int := none
  attempt : Nat := 0
  resends : Nat := 0
  ovf : Bool := false
  ovbits : Nat := 0
  maxb : Nat := 0
  nonfin : Bool := false
  /-- A record of the pass carried another F. -/
  mism : Bool := false
  /-- Tickets whose data of the present pass is in. -/
  got : List Nat := []
  /-- Tickets asked for their EMAX, or answered with the scale. -/
  asked : List Nat := []
  emaxs : List (Nat × Option Int) := []
  /-- LOWRANK: what the P pass left: F, MAXB, included count and hops. -/
  fp : Int := 0
  maxbP : Nat := 0
  n : Nat := 0
  incl : U64 := 0
  deriving DecidableEq, Repr

/-- A contribution record an owner has handled: ticket, contributor, VOID. -/
structure Contrib where
  ticket : Nat
  coord : BitVec 24
  void : Bool
  deriving DecidableEq, Repr

/-- A share this device contributes to, by owner (R278). -/
structure Share where
  coord : BitVec 24
  ticket : Option Nat := none
  /-- The admission fetch-add is outstanding; the time of the first. -/
  asking : Bool := false
  firstAt : U64 := 0
  /-- The share is closed for this device without having been admitted. -/
  isOver : Bool := false
  deriving DecidableEq, Repr

/-- A bucket of a context (R263-R292). -/
structure Bucket where
  st : BktState := .disabled
  desc : Option BktDesc := none
  efValid : Bool := false
  step : U32 := 0
  scales : Tab ScaleEnt := []
  scalesQ : Tab ScaleEnt := []
  cchunks : Tab CChunk := []
  /-- Owned chunks, by step and number: a pass of the next step may reach its owner early (R282). -/
  ochunks : Tab OChunk := []
  /-- Passes of a step other than this hop's that went by: chunk and step (R282). -/
  missed : List (Nat × U32) := []
  /-- A ring slot of the current step has reached this hop. -/
  came : Bool := false
  /-- Record places of the exchange area that held something at ENABLE, with their first eight bytes: none of those
  records is received (R292). -/
  stale : List (Nat × Nat) := []
  shares : List Share := []
  contribs : List Contrib := []
  shareClosed : Option Nat := none
  t0 : Option U64 := none
  /-- When this device's contribution to the step was ready. -/
  readyAt : Option U64 := none
  nextOut : Nat := 0
  nextIn : Nat := 0
  /-- Ring slots ready to go on: they wait for a credit (R281). Header bytes then data bytes. -/
  outq : List (List Byte × List Byte) := []
  /-- Ring slots that wait for this hop's contribution (R282). -/
  inq : List (List Byte × List Byte) := []
  cdone : Bool := false
  odone : Bool := false
  deriving DecidableEq, Repr

/-! ## Parameter update (chapter 12) -/

/-- A hyperparameter record (Table 12.3). -/
structure Hyper where
  lr : F32 := 0
  b1 : F32 := 0
  b2 : F32 := 0
  eps : F32 := 0
  wd : F32 := 0
  b2s : F32 := 0
  epsr : F32 := 0
  rootInt : Nat := 0
  rootLag : Nat := 0
  statInt : Nat := 0
  rootIter : Nat := 0
  graft : Bool := false
  deriving DecidableEq, Repr

/-- Sums of one layer on one die for telemetry (Table 12.7). -/
structure LayerSum where
  gsq : Nat := 0
  wsq : Nat := 0
  usq : Nat := 0
  nblk : Nat := 0
  nupd : Nat := 0
  nfrozen : Nat := 0
  nmism : Nat := 0
  npend : Nat := 0
  nfelem : Nat := 0
  nexh : Nat := 0
  satNorm : Bool := false
  deriving DecidableEq, Repr

/-- Where an update engine stands in a step (R300). -/
inductive UpdPhase where
  | idle
  | waitKappa
  /-- Pass 2 has come to this entry, which waits for its root job (R305). -/
  | pass2 (entry : Nat)
  /-- Pass 2 has stopped before this entry, at a pre-emption (R313). -/
  | stopped (entry : Nat)
  /-- Pass 2 of every entry has ended; the distribution has not. -/
  | tail
  /-- Telemetry records left to write: layers, then the STEP record. -/
  | telemetry (layers : List Nat)
  | finished
  deriving DecidableEq, Repr

/-- One die's engine in a context's step. -/
structure UpdDie where
  phase : UpdPhase := .idle
  /-- Distribution puts left: list entry, distribution index, COUNTER before the update (R311). -/
  dist : List (Nat × Nat × U32) := []
  /-- Pass-1 outcomes by list entry (R301). -/
  found : Tab Status := []
  layers : Tab LayerSum := []
  rootReq : Nat := 0
  rootFail : Nat := 0
  deriving DecidableEq, Repr

/-- A root job (R305-R307): list entry, the root tile index it runs on, and once ended whether it
succeeded. -/
structure RootJob where
  entry : Nat
  /-- The hyperparameters of the step that requested it. -/
  h : Hyper
  tile : Option Nat := none
  ended : Option Bool := none
  deriving DecidableEq, Repr

inductive UpdState where
  | disabled | waiting | pass1 | waitKappa | pass2 | failed
  deriving DecidableEq, Repr

/-- The update list of a context: its registers (Tables 12.12-12.15) and its step. -/
structure Upd where
  listW0 : U64 := 0
  listW1 : U64 := 0
  normW0 : U64 := 0xFFC00000
  normW1 : U64 := 0
  rootW0 : U64 := 0
  rootW1 : U64 := 0
  tabsW0 : U64 := 0
  tabsW1 : U64 := 0
  st : UpdState := .disabled
  step : U32 := 0
  hyper : List Hyper := []
  near : UpdDie := {}
  off : UpdDie := {}
  kappa : F32 := 0
  norm : F32 := 0
  gsq : Nat := 0
  kflags : Nat := 0
  /-- Start credits already taken for the step (R300). -/
  started : Nat := 0
  jobs : List RootJob := []
  /-- Outstanding distribution puts. -/
  puts : Nat := 0
  /-- Coordinator: κ record held until every HOLD is acknowledged (R326). -/
  heldKappa : Option (List Byte) := none
  holdAcks : List (BitVec 24) := []
  evFrozen : U32 := 0
  evRootFail : U16 := 0
  evStepMis : U16 := 0
  deriving DecidableEq, Repr

/-- Telemetry tallies of gradient exchange for a step, one die (Table 12.8 bytes 48-71). -/
structure GrxTally where
  late : Nat := 0
  rescale : Nat := 0
  exhaust : Nat := 0
  stepMis : Nat := 0
  prepass : Nat := 0
  frozen : Nat := 0
  deriving DecidableEq, Repr

/-- Read-clear counters of GRX_EVENTS (Table 11.13). -/
structure GrxEvents where
  late : U32 := 0
  rescale : U16 := 0
  exhaust : U16 := 0
  frozen : U32 := 0
  stepMis : U16 := 0
  prepass : U16 := 0
  deriving DecidableEq, Repr

/-! ## A context -/

structure Ctx where
  -- HIF (chapter 14)
  ntile : Byte := 0
  /-- Logical to physical tiles; an absent tile below NTILE is unbacked (R13, R323). -/
  backs : Tab Nat := []
  rings : Tab Ring := []
  hostAcc : Tab HostAcc := []
  evtLost : U16 := 0
  telLost : U16 := 0
  headErr : U16 := 0
  lost : Bool := false
  evtSeq : U32 := 0
  /-- Event records held while the host link is down (R339). -/
  evq : List Ev := []
  resid : Residence := .resident
  /-- Intervals of timebase in which the context was saved (R291), and the start of the present one. -/
  savedSpans : List (Nat × Nat) := []
  savedAt : Option Nat := none
  /-- Tile images of a pre-empted context (R14). -/
  saved : Tab Tile := []
  /-- Bytes that the save wrote to the save area (R216). -/
  area : List Byte := []
  msixMask : BitVec 32 := 0xFFFFFFFF
  msixPend : BitVec 32 := 0
  -- dispatcher (chapter 2)
  dbErrors : U32 := 0
  launches : List Launch := []
  cpls : List Cpl := []
  /-- Records below this index, counted from ring enable, have all retired (R57). -/
  retired : Nat := 0
  retiredAbove : List Nat := []
  -- numbers
  exc : BitVec 9 := 0
  -- memory
  allotSize : BitVec 12 := 0
  allotBase : BitVec 11 := 0
  allotEn : Bool := false
  stg : Tab StgRange := []
  dtabBase : BitVec 27 := 0
  dtabEn : Bool := false
  -- hitches
  hmap : Tab HEntry := []
  satCnt : U32 := 0
  ignored : U32 := 0
  -- fabric
  wins : Tab Win := []
  refused : U32 := 0
  lostOp : U16 := 0
  ovfAcc : U16 := 0
  -- gradient exchange
  btabBase : BitVec 27 := 0
  btabEn : Bool := false
  grxEv : GrxEvents := {}
  /-- By step and bucket. -/
  tally : Tab GrxTally := []
  bkts : Tab Bucket := []
  -- update
  upd : Upd := {}
  -- Farrier and resets
  holdStep : U32 := 0
  ewArm : Bool := false
  ewHeld : Bool := false
  ewReady : Bool := false
  faultHold : Bool := false
  quiesced : Bool := false
  deriving DecidableEq, Repr

/-! ## Hitch fabric (chapter 8) -/

inductive HState where
  | unmapped | active | discarded | poisoned
  deriving DecidableEq, Repr

/-- Who sleeps on a hitch: a control core on WAIT or WAIT2, an engine queue head, a bucket or list
start, or a distribution put. -/
inductive Sleeper where
  | word (c t : Nat) (second : Bool)
  | slot (c t seq num : Nat)
  /-- An engine's wait on virtual hitch `vid`: bucket `id`, or 1024 + die for the update list. -/
  | engine (c id vid : Nat)
  deriving DecidableEq, Repr

structure Waiter where
  who : Sleeper
  amount : Nat
  deriving DecidableEq, Repr

/-- An entry of a barrier group (R207). -/
structure BarEntry where
  c : Nat
  t : Nat
  seq : Nat
  /-- Counts toward the next generation instead of the current one. -/
  ahead : Bool
  deriving DecidableEq, Repr

structure Hitch where
  st : HState := .unmapped
  owner : Nat := 0
  barrier : Bool := false
  parts : Nat := 1
  count : U32 := 0
  gen : U16 := 0
  waiters : List Waiter := []
  entries : List BarEntry := []
  /-- Contexts whose discarded slots made it DISCARDED (R211). -/
  disc : List Nat := []
  deriving DecidableEq, Repr

structure Sync where
  selCtx : BitVec 6 := 0
  selVid : U16 := 0
  pend : Bool := false
  status : Byte := 0
  /-- Low half of SYNC_MAP_ENTRY written by a 32-bit write (R406). -/
  entryLo : Option U32 := none
  hitches : Tab Hitch := []
  /-- Engine waits that have taken their credits and that their engine has not taken up (R199). -/
  grants : List Sleeper := []
  deriving DecidableEq, Repr

/-! ## Memory (chapter 9) -/

structure Chan where
  retired : Bool := false
  /-- When the channel's last row repair began, in ns (R221). -/
  repairAt : Option Nat := none
  /-- Banks whose spare rows are exhausted (R221). -/
  spent : List Nat := []
  corr : U32 := 0
  uncorr : Byte := 0
  ppr : U16 := 0
  /-- Corrected errors by bank, row and time in ns, and rows with an uncorrectable error (R221). -/
  rows : List (Nat × Nat × Nat) := []
  rowUnc : List (Nat × Nat) := []
  /-- Rows moved to a repair row. -/
  repaired : List (Nat × Nat) := []
  deriving DecidableEq, Repr

structure MemBlk where
  status : Byte := 0
  pend : Bool := false
  winRej : U32 := 0
  nch : BitVec 9 := 0
  short : Bool := false
  ready : Bool := false
  selCtx : BitVec 6 := 0
  selTile : BitVec 7 := 0
  selCh : Byte := 0
  scrubPeriod : U16 := 0x18
  scrubEn : Bool := true
  chans : Tab Chan := []
  pool : Mem := []
  poison : List Nat := []
  /-- Lines whose stored codeword has met an upset that no read has found yet: `true` where it is uncorrectable (R217). -/
  latent : Tab Bool := []
  /-- Lines the host caches, oldest first (R229). -/
  snoop : List Nat := []
  /-- Lines with a back-invalidate snoop unanswered. -/
  biWait : List Nat := []
  staging : Tab Mem := []
  deriving DecidableEq, Repr

/-! ## Dunind fabric (chapter 10) -/

inductive LinkState where
  | down | detect | equalise | align | waitId | identify | active | retrain | miswired
  deriving DecidableEq, Repr

/-- The identity record of a link's peer (Table 10.20). -/
structure Ident where
  teamId : U64
  coord : BitVec 24
  epoch : U16
  gang : Nat
  role : Nat
  dim : Nat
  standby : Nat
  kind : Nat
  deriving DecidableEq, Repr

/-- A packet (Table 10.7): header words and data. -/
structure Packet where
  h0 : U64
  h1 : U64
  h2 : U64
  h3 : U64
  data : List Byte
  deriving DecidableEq, Repr

/-- A packet on its way through this router (R246 to R248): its number here, the link and virtual channel it came in
by, and whether it is known to have used an express hop. -/
structure Routed where
  id : Nat
  pkt : Packet
  link : Option Nat
  vc : Nat
  express : Bool
  deriving DecidableEq, Repr

/-- A DATA flit in a retry buffer: sequence number, virtual channel, payload bytes, and the packets whose units it
holds (R237). -/
structure Flight where
  seq : BitVec 12
  vc : Nat
  data : List Byte
  pkts : List Routed
  deriving DecidableEq, Repr

structure Link where
  st : LinkState := .down
  width : Nat := 0
  spare : Bool := false
  lanes : Nat := 4
  retrainCnt : U16 := 0
  replay : U16 := 0
  fecCorr : U32 := 0
  fecUnc : U16 := 0
  crcErr : U16 := 0
  /-- Timebase values of recent retrains and uncorrectable codewords (R239). -/
  retrainAt : List U64 := []
  uncAt : List U64 := []
  txSeq : BitVec 12 := 0
  /-- Unacknowledged DATA flits, oldest first. -/
  buffer : List Flight := []
  /-- Sequence number of the last replay, and its replays in a row. -/
  replaySeq : BitVec 12 := 0
  replays : Nat := 0
  rxSeq : BitVec 12 := 0
  nakPending : Bool := false
  credits : Tab Nat := []
  /-- Payload bytes received on each virtual channel and not yet a whole packet. -/
  rx : Tab (List Byte) := []
  /-- Units of each received flit that have not left the receive buffer, by virtual channel (R247). -/
  rxHeld : Tab (List Nat) := []
  /-- Credits to be returned, by virtual channel, and whether an acknowledgement is. -/
  crDue : Tab Nat := []
  ackDue : Bool := false
  /-- Packets of this link that are not wholly in flits: virtual channel, packet, bytes not yet in a flit. -/
  txq : List (Nat × Routed × List Byte) := []
  /-- The virtual channel that each class served last: responses, requests (R247). -/
  turns : Nat × Nat := (7, 3)
  /-- Flits sent while ACTIVE, oldest first. -/
  wire : List (List Byte) := []
  /-- The link has been ACTIVE since it was last DOWN. -/
  wasUp : Bool := false
  peer : Option Ident := none
  /-- Frames the link is to send besides data: NAK requests. -/
  sendNak : Nat := 0
  /-- The link is DOWN and its buffer waits for a handover record (R241). -/
  downHold : Bool := false
  deriving DecidableEq, Repr

/-- A gang's time candidate (R259, R260). -/
structure TimeCand where
  valid : Bool := false
  qual : Nat := 3
  hops : Nat := 255
  src : BitVec 24 := 0
  offset : Int := 0
  delay : Int := 0
  deriving DecidableEq, Repr

structure Gang where
  asym : U16 := 0
  dim : BitVec 2 := 0
  role : BitVec 3 := 0
  en : Bool := false
  spareUsed : Bool := false
  cand : TimeCand := {}
  /-- t1 and t2 of the last TIME flit received: its transmit and local receive time (R259). -/
  lastRx : Option (Stamp × Stamp) := none
  /-- TIME flits sent: how many, and the payload bytes of the last. -/
  timeSent : Nat := 0
  lastTx : List Byte := []
  deriving DecidableEq, Repr

/-- Who started a remote operation. -/
inductive OpOwner where
  | slot (c t seq num : Nat)
  | bucket (c b : Nat)
  | upd (c die : Nat)
  deriving DecidableEq, Repr

/-- Why an engine started an operation, so that its completion is handled (chapters 11 and 12). -/
inductive OpWhy where
  | slot
  | data
  /-- A contribution record, written only after the data it describes (R277). -/
  | record
  /-- Admission fetch-add to this owner coordinate (R278). -/
  | admission (coord : BitVec 24)
  | share
  | kappa
  | dist
  deriving DecidableEq, Repr

/-- A packet of an operation: transaction identifier once sent, whether it has been answered, whether with DONE, and
whether its data has been stored. -/
structure OutPkt where
  txid : U16 := 0
  pkt : Packet
  sent : Bool := false
  acked : Bool := false
  ok : Bool := false
  got : Bool := false
  deriving DecidableEq, Repr

/-- A remote operation at the initiator (R250-R257). -/
structure ROp where
  id : Nat
  owner : OpOwner
  why : OpWhy
  c : Nat
  kind : Nat
  dst : BitVec 24
  win : Nat
  off : Nat
  len : Nat
  pkts : List OutPkt
  status : Status := .done
  ovf : Bool := false
  /-- GET: destination. -/
  loc : Option Desc := none
  /-- The old value that an atomic's response has returned. -/
  old : Option U64 := none
  deriving DecidableEq, Repr

structure Fab where
  teamValid : Bool := false
  coord : BitVec 24 := 0
  ext1 : BitVec 24 := 0
  teamId : U64 := 0
  linkSel : BitVec 5 := 0
  status : Byte := 0
  pend : Bool := false
  opTimeout : U32 := 0x2710
  drop : U32 := 0
  timeHops : Byte := 0xFF
  timeCoord : BitVec 24 := 0
  timeSource : BitVec 4 := 0xF
  timeQual : BitVec 2 := 3
  gangs : Tab Gang := []
  links : Tab Link := []
  /-- Packets that have reached this device and are not handled, oldest first. -/
  inbox : List Packet := []
  /-- Packets routed to a gang on a virtual channel, oldest first. -/
  outbox : List (Nat × Nat × Routed) := []
  nextPkt : Nat := 0
  ops : List ROp := []
  nextOp : Nat := 0
  nextTx : U16 := 0
  nextLink : Tab Nat := []
  deriving DecidableEq, Repr

/-! ## Farrier (chapter 13) -/

structure Farr where
  ctlCtx : BitVec 6 := 0
  status : Byte := 0
  pend : Bool := false
  faults : U32 := 0
  ewRepeat : U16 := 0
  cause : Byte := 0
  ewLatch : Bool := false
  ewSource : Nat := 0
  /-- EWARN_N has been seen deasserted since the last latch (R328). -/
  ewArmed : Bool := true
  /-- EWARN_N is asserted. -/
  ewPin : Bool := false
  repair : Bool := false
  noPwr : Bool := false
  hbmShort : Bool := false
  linkShort : Bool := false
  tileShort : Bool := false
  /-- Logical tiles that wait for a substitution: context, tile, the physical tile retired. -/
  wanting : List (Nat × Nat × Nat) := []
  epoch : U16 := 0
  standby : Byte := 0
  notices : U16 := 0
  kind : BitVec 2 := 0
  /-- Epochs held for coordinates (R330). -/
  epochs : Tab U16 := []
  site : List Byte := []
  deriving DecidableEq, Repr

/-! ## Host interface (chapter 14) -/

/-- An entry of the CDAT (R342). -/
inductive CdatEntry where
  | dsmas (base length : Nat)
  | readLatencyNs (v : Nat)
  | writeLatencyNs (v : Nat)
  | readBandwidthGBs (v : Nat)
  | writeBandwidthGBs (v : Nat)
  deriving DecidableEq, Repr

/-- What the DOE mailbox answers to a request (R336, R402); the framing of the messages is that of their
standards. -/
inductive DoeAnswer where
  | cdat (e : CdatEntry)
  | version | capabilities | algorithms
  | measurements (blocks : List (Nat × List Byte)) (signature : Option (List Byte))
  | keyExchange (exchange signature : List Byte)
  | finished | ended
  | ideAck
  | error
  deriving DecidableEq, Repr

structure Hif where
  downCnt : U16 := 0
  width : BitVec 4 := 0
  rate : BitVec 4 := 0
  flit68 : Bool := false
  io : Bool := false
  cache : Bool := false
  mem : Bool := false
  biEn : Bool := false
  ide : Bool := false
  up : Bool := false
  status : Byte := 0
  pend : Bool := false
  hdmCommitted : Bool := false
  hdmBase : Nat := 0
  hdmSize : Nat := 0
  d3hot : Bool := false
  /-- MSI-X Enable and Function Mask (Table 14.2), and address and data of the MSI-X table's entries by vector. -/
  msixEn : Bool := false
  msixFnMask : Bool := false
  msixTable : Tab (U64 × U32) := []
  /-- Words of the type 0 header that the host writes, by offset: the command word and the BARs. -/
  cfgWords : Tab U32 := []
  ideKeys : Tab (BitVec 256) := []
  hostMem : Mem := []
  /-- High halves latched by 32-bit reads of wide registers, by BAR0 address (R406). -/
  latched : Tab U32 := []
  /-- Last value read from BAR0. -/
  readData : U64 := 0
  /-- Last line read through the window, and its poison mark (R228). -/
  winData : List Byte := []
  winPoison : Bool := false
  /-- MSI-X messages sent: vector numbers, oldest first. -/
  msgs : List Nat := []
  /-- Messages held while the link is down (R339). -/
  heldMsgs : List Nat := []
  /-- The last answer of the DOE mailbox. -/
  doe : Option DoeAnswer := none
  /-- Host snoops answered as a miss. -/
  snoopMiss : Nat := 0
  deriving DecidableEq, Repr

/-! ## Bridle port and timebase (chapter 14) -/

inductive Servo where
  | freerun | acquire | locked | holdover
  deriving DecidableEq, Repr

inductive PortState where
  | disabled | listening | uncalibrated | slave | faulty
  deriving DecidableEq, Repr

/-- What a frame of the bridle port says. -/
inductive BridleTx where
  | delayReq (seq : U16)
  | pdelayReq (seq : U16)
  | pdelayResp (toSt : PortId) (seq : U16) (received : Stamp)
  | pdelayRespFollowUp (toSt : PortId) (seq : U16) (sent : Stamp)
  | arpReply (toSt : U32) (mac : BitVec 48)
  deriving DecidableEq, Repr

/-- A frame the bridle port has sent: its tag, transport code, domain, source MAC address, destination (a MAC or an IPv4
address), UDP port (0 without UDP) and content (R355, Table 14.9). -/
structure BridleFrame where
  tag : Option (BitVec 12)
  transport : BitVec 2
  domain : Byte
  src : BitVec 48
  dst : Nat
  port : Nat
  body : BridleTx
  deriving DecidableEq, Repr

structure TimeBlk where
  ns : U64 := 0
  frac : U16 := 0
  /-- Accumulated frequency adjustment below 2⁻¹⁶ ns, in units of 2⁻¹⁶ / 10⁹ ns (R418). -/
  acc : Int := 0
  fracLatch : U16 := 0
  setLo : Option U32 := none
  opStatus : Byte := 0
  offset : U32 := 0
  port : PortState := .disabled
  pps : BitVec 2 := 0
  servo : Servo := .freerun
  freq : U32 := 0
  stepOk : Bool := true
  ki : Byte := 4
  kp : Byte := 1
  vlan : Bool := false
  vid : BitVec 12 := 0
  mac : BitVec 48 := 0
  ptpEn : Bool := false
  delayP2p : Bool := false
  transport : BitVec 2 := 1
  domain : Byte := 0
  ipv4 : U32 := 0
  egress : U32 := 0
  ingress : U32 := 0
  ppsMode : BitVec 2 := 0
  ppsTs : U64 := 0
  dropFrm : U32 := 0
  steps : U16 := 0
  ppsBad : U16 := 0
  -- servo state (R359, R260)
  /-- The integral term I, in ppb. -/
  integral : Rat := 0
  /-- Consecutive updates with an offset above 10 µs, and within ±100 ns. -/
  outRun : Nat := 0
  inRun : Nat := 0
  everLocked : Bool := false
  /-- The forward step of the present ACQUIRE has been made. -/
  stepped : Bool := false
  /-- Updates in LOCKED, newest first, over the last 1,000 s of lock: interval in ns and I. -/
  lockHist : List (Nat × Rat) := []
  /-- The second has been labelled since reset (R361). -/
  labelled : Bool := false
  -- bridle port (R355-R357); offsets and delays in 2⁻¹⁶ ns
  /-- Masters heard: last Announce, its time, and whether the master is qualified. -/
  foreign : List (Announce × U64 × Bool) := []
  best : Option Announce := none
  /-- Two-step Sync that waits for its Follow_Up: source, sequence, receive time, correction. -/
  syncRx : Option (PortId × U16 × Stamp × Int) := none
  /-- t2 − t1 of the last Sync, corrected; the path delay; master minus timebase. -/
  ms : Option Int := none
  pathDelay : Option Int := none
  bridleOff : Int := 0
  reqSeq : U16 := 0
  reqTx : Option (U16 × Stamp) := none
  pReqSeq : U16 := 0
  pReqTx : Option (U16 × Stamp) := none
  logMinDelayReq : Int := 0
  sent : List BridleFrame := []
  /-- logSyncInterval of the last Sync accepted. -/
  logSync : Int := 0
  /-- The device's own source is the 1PPS input, not the bridle port (R361). -/
  fromPps : Bool := false
  -- 1PPS (R361)
  ppsLast : Option U64 := none
  /-- The second the last valid edge marks, minus the timebase then. -/
  ppsOff : Int := 0
  deriving DecidableEq, Repr

/-! ## Power (chapter 15) -/

inductive DomState where
  | stand | rest | running
  deriving DecidableEq, Repr

structure Dom where
  st : DomState := .running
  /-- The state a transition in progress leads to. -/
  toSt : Option DomState := none
  trans : U16 := 0
  deriving DecidableEq, Repr

structure Pwr where
  actual : BitVec 12 := 0x2EE
  target : BitVec 12 := 0x2EE
  ramp : Bool := false
  /-- The step proposed to the regulator and not yet confirmed. -/
  proposed : Option (BitVec 12) := none
  domSel : BitVec 7 := 0
  status : Byte := 0
  pend : Bool := false
  pmin : U16 := 0xFFFF
  pace0 : U16 := 0
  pace1 : U16 := 0
  beats : U64 := 0
  power : U16 := 0
  icore : U16 := 0
  vcore : BitVec 12 := 0
  isOver : Bool := false
  plimit : U16 := 0x960
  tjMax : U16 := 0
  sensor : Byte := 0
  thresh : U16 := 0x320
  alarm : Bool := false
  doms : Tab Dom := []
  /-- A stack has returned from Stand and the pool is not yet filled again (Table 15.3). -/
  hbmLost : Bool := false
  /-- Sensors whose last reading was 115 °C or more (R380). -/
  hot : List Nat := []
  tripN : Bool := false
  deriving DecidableEq, Repr

/-! ## Reset, boot and security (chapter 16) -/

/-- Applied options (R394). -/
structure Opts where
  opKey : Option (BitVec 256) := none
  ide : Bool := false
  pmbus : List Nat := [0x40, 0x41, 0x42, 0x43, 0x44, 0x45, 0x46, 0x47, 0x48]
  skipped : U16 := 0
  dflt : Bool := false
  copyB : Bool := false
  records : List Byte := []
  deriving DecidableEq, Repr

inductive Spdm where
  | none | version | capabilities | negotiated | session | established
  deriving DecidableEq, Repr

structure Rst where
  -- RST block
  cause : Byte := 0
  core : BitVec 4 := 0
  blkCtx : BitVec 6 := 0
  blkTarget : BitVec 4 := 0
  blkStatus : Byte := 0
  blkPend : Bool := false
  -- boot
  /-- Last release step completed in order (R362 BOOT). -/
  boot : Nat := 0
  /-- The release step that comes next; 9 when no release is under way. -/
  nextStep : Nat := 1
  /-- Step 7 is passed over in the present release. -/
  warmRelease : Bool := false
  /-- Source of the reset whose release has not begun, and the core of a groom watchdog (R387). -/
  why : Option (Byte × BitVec 4) := some (1, 0)
  fwRunning : Bool := false
  misses : Tab Nat := []
  boots : Nat := 0
  -- SEC block
  counter : U32 := 0
  fwOk : Bool := false
  runSvn : U32 := 0
  runImage : List Byte := []
  opts : Opts := {}
  src : BitVec 52 := 0
  len : BitVec 25 := 0
  secStatus : Byte := 0
  secPend : Bool := false
  attKey : BitVec 256 := 0
  spdm : Spdm := .none
  /-- The vendor key in the ROM, which nothing writes (R396, log entry 7). -/
  vendorKey : BitVec 256 := Config.vendorKey
  -- MRAM (Table 16.6)
  optA : Mem := []
  optB : Mem := []
  fwStore : Mem := []
  repairLog : List (Nat × Nat × Nat) := []
  rollback : U32 := 0
  deriving DecidableEq, Repr

/-! ## Selectors and the other blocks' registers -/

structure Sel where
  dispCtx : BitVec 6 := 0
  dispTile : BitVec 7 := 0
  dispPage : BitVec 4 := 0
  mtxCtx : BitVec 6 := 0
  mtxTile : BitVec 7 := 0
  vecCtx : BitVec 6 := 0
  vecRec : BitVec 4 := 0
  vecTile : BitVec 7 := 0
  sfuCtx : BitVec 6 := 0
  sfuTbl : BitVec 4 := 0
  sfuTile : BitVec 7 := 0
  layCtx : BitVec 6 := 0
  layTile : BitVec 7 := 0
  grxCtx : BitVec 6 := 0
  grxEfKeep : Bool := false
  grxBucket : BitVec 10 := 0
  updCtx : BitVec 6 := 0
  updEntry : U16 := 0
  deriving DecidableEq, Repr

/-- MTX_FAULT_LOG (Table 4.6). -/
structure FaultLog where
  tag : U16 := 0
  c : BitVec 6 := 0
  tile : BitVec 7 := 0
  qmask : BitVec 4 := 0
  part : BitVec 3 := 0
  cause : BitVec 4 := 0
  valid : Bool := false
  deriving DecidableEq, Repr

/-- A load request of the function unit: what SFU_LOAD_SRC, SFU_LOAD_TMASK and SFU_LOAD_CTL hold (Tables 6.10 to
6.12). -/
structure SfuReq where
  src : U64 := 0
  tmask0 : U64 := 0
  tmask1 : U64 := 0
  c : BitVec 6 := 0
  kind : Bool := false
  index : Byte := 0
  count : BitVec 11 := 0
  deriving DecidableEq, Repr

/-- Load registers of the function unit (Tables 6.10-6.13), and the request of the load under way or last run: the
registers can be written while a load runs (R168, log entry 97). -/
structure SfuLoad where
  regs : SfuReq := {}
  run : SfuReq := {}
  state : BitVec 2 := 0
  status : Byte := 0
  deriving DecidableEq, Repr

/-- Which parts of the device the release order has brought up (R390, R398).
DESIGN CHOICE, log entry 16. -/
structure Up where
  tiles : Bool := false
  fab : Bool := false
  hbm : Bool := false
  cxl : Bool := false
  recovery : Bool := false
  /-- Device-wide blocks (RST_BLK targets 2 to 5) that are quiesced. -/
  quiesced : List Nat := []
  deriving DecidableEq, Repr

/-- The sideband registers that the board controller writes, and its last read (Table 14.12).
DESIGN CHOICE, log entry 16. -/
structure Side where
  alert : Byte := 0
  alertEn : Byte := 0
  read : List Byte := []
  deriving DecidableEq, Repr

/-- The state of the device but for its reset, boot and security block. -/
structure Dev where
  /-- The model's own counter behind the free values (log entry 5). -/
  freeCtr : Nat := 0
  ctxs : Tab Ctx := []
  tiles : Tab PTile := []
  sync : Sync := {}
  mem : MemBlk := {}
  fab : Fab := {}
  farr : Farr := {}
  hif : Hif := {}
  time : TimeBlk := {}
  pwr : Pwr := {}
  up : Up := {}
  side : Side := {}
  sel : Sel := {}
  mtxLog : FaultLog := {}
  sfu : SfuLoad := {}
  grxStatus : Byte := 0
  grxPend : Bool := false
  updStatus : Byte := 0
  updPend : Bool := false
  deriving DecidableEq, Repr

/-- What a save holds of a context (R14, R208): its tiles, the hitches it owns without EXPORT, and its hitch map. -/
abbrev SavedImage := Tab Tile × Tab Hitch × Tab HEntry

end Sys2Proof.Machine

namespace Sys2Proof.Config
open Sys2Proof.Machine

/-- DESIGN CHOICE, log entry 12. Bytes in which a save writes an image to the save area (R216), whose format the spec
does not give. -/
opaque imageBytes : SavedImage → List Byte

/-- DESIGN CHOICE, log entry 12. The image that a restore reads from a save area whose bytes are not those the save
wrote. -/
opaque imageOf : List Byte → SavedImage

end Sys2Proof.Config

namespace Sys2Proof.Machine
open Sys2Proof

/-- The state of the block. -/
structure State where
  /-- Commands that wait, first in first out. -/
  pending : List Instr := []
  rst : Rst := {}
  dev : Dev := {}
  deriving DecidableEq, Repr

/-- The block right after a power-on reset, before step 1 of the release order (R387, R390): every
register at the reset value of its field table, every store empty, nothing released; the values that
the spec does not state are those of log entries 3, 4, 8, 10, 11, 16, 17, 18 and 21. -/
def State.reset : State := {}

end Sys2Proof.Machine
end

