-- ==== Sys2Proof/Machine/Bits.lean ====
section
/-! DEFINITION. Bit fields, sign extension, byte order (R8), saturating counters and the table and
memory primitives that every other file uses. -/
namespace Sys2Proof.Machine
open Sys2Proof

/-! ## Bits and bytes -/

/-- Field [hi:lo] of a number (R8). -/
def fld (x hi lo : Nat) : Nat := x / 2 ^ lo % 2 ^ (hi + 1 - lo)

/-- Bit `i` of a number. -/
def bit (x i : Nat) : Bool := x / 2 ^ i % 2 == 1

/-- `x`, taken modulo 2^w, read as two's complement. -/
def sext (w x : Nat) : Int :=
  let y := x % 2 ^ w
  if y < 2 ^ (w - 1) then (y : Int) else (y : Int) - (2 ^ w : Nat)

/-- Two's complement of an integer on `w` bits. -/
def toBits (w : Nat) (i : Int) : Nat := (i % ((2 ^ w : Nat) : Int)).toNat

/-- The number a list of bytes spells, little-endian (R8). -/
def leNat : List Byte → Nat
  | [] => 0
  | b :: bs => b.toNat + 256 * leNat bs

/-- `n` bytes of a number, little-endian. -/
def leBytes : Nat → Nat → List Byte
  | 0, _ => []
  | n + 1, x => BitVec.ofNat 8 x :: leBytes n (x / 256)

/-- The number at byte `at` of width `n` bytes in a list; bytes beyond the end read 0. -/
def leAt (bs : List Byte) (pos n : Nat) : Nat := leNat ((bs.drop pos).take n)

/-- `n` zero bytes. -/
def zeros (n : Nat) : List Byte := List.replicate n 0

/-- Bytes padded with zeros, or cut, to length `n`. -/
def padTo (n : Nat) (bs : List Byte) : List Byte := (bs ++ zeros (n - bs.length)).take n

/-- The next multiple of `k` at or after `x`. -/
def alignUp (k x : Nat) : Nat := (x + k - 1) / k * k

def ceilDiv (a b : Nat) : Nat := (a + b - 1) / b

/-- A counter that stays at its maximum (R407). -/
def satAdd {w : Nat} (x : BitVec w) (n : Nat) : BitVec w :=
  if x.toNat + n < 2 ^ w then BitVec.ofNat w (x.toNat + n) else BitVec.allOnes w

def b2n (b : Bool) : Nat := if b then 1 else 0

/-- `v` placed at bit `lo`. -/
def at' (v lo : Nat) : Nat := v * 2 ^ lo

/-- Floor of log₂ of a nonzero number. -/
def log2 (n : Nat) : Nat := Nat.log2 n

/-- Positions of the set bits of a mask of `w` bits, rising. -/
def maskBits (w m : Nat) : List Nat := (List.range w).filter (bit m)

/-! ## Tables -/

/-- The value at key `k`, or `d` where the table has none. -/
def Tab.get {α : Type} (d : α) : Tab α → Nat → α
  | [], _ => d
  | (k', v) :: r, k => if k = k' then v else Tab.get d r k

def Tab.find {α : Type} : Tab α → Nat → Option α
  | [], _ => none
  | (k', v) :: r, k => if k = k' then some v else Tab.find r k

/-- The table with `v` at key `k`; keys stay rising. -/
def Tab.set {α : Type} : Tab α → Nat → α → Tab α
  | [], k, v => [(k, v)]
  | (k', v') :: r, k, v =>
    if k < k' then (k, v) :: (k', v') :: r
    else if k = k' then (k, v) :: r
    else (k', v') :: Tab.set r k v

/-- The table without key `k`. -/
def Tab.del {α : Type} (t : Tab α) (k : Nat) : Tab α := List.filter (fun e => e.1 != k) t

def Tab.mapV {α : Type} (f : α → α) (t : Tab α) : Tab α := List.map (fun e => (e.1, f e.2)) t

/-- Keys strictly rising. -/
def Tab.wf {α : Type} : Tab α → Bool
  | [] => true
  | [_] => true
  | (k, _) :: (k', v') :: r => decide (k < k') && Tab.wf ((k', v') :: r)

/-! ## Memory -/

/-- What an address without an entry reads as: 0 (log entries 3 and 4). -/
def Mem.unlisted : Byte := 0

/-- The byte at an address.
DESIGN CHOICE, log entry 4. -/
def Mem.read : Mem → Nat → Byte
  | [], _ => Mem.unlisted
  | (k, v) :: r, a => if a = k then v else Mem.read r a

/-- The memory with `b` at `a`, in canonical form: an entry equal to the unlisted value is removed. -/
def Mem.write : Mem → Nat → Byte → Mem
  | [], a, b => if b = Mem.unlisted then [] else [(a, b)]
  | (k, v) :: r, a, b =>
    if a < k then (if b = Mem.unlisted then (k, v) :: r else (a, b) :: (k, v) :: r)
    else if a = k then (if b = Mem.unlisted then r else (a, b) :: r)
    else (k, v) :: Mem.write r a b

/-- The canonical form: addresses strictly rising, no entry equal to the unlisted value. -/
def Mem.wf : Mem → Bool
  | [] => true
  | [(_, v)] => decide (v ≠ Mem.unlisted)
  | (k, v) :: (k', v') :: r =>
    decide (v ≠ Mem.unlisted) && decide (k < k') && Mem.wf ((k', v') :: r)

/-- `n` bytes from an address on. -/
def Mem.readN (m : Mem) (a : Nat) : Nat → List Byte
  | 0 => []
  | n + 1 => Mem.read m a :: Mem.readN m (a + 1) n

/-- Bytes written from an address on. -/
def Mem.writeN (m : Mem) (a : Nat) : List Byte → Mem
  | [] => m
  | b :: bs => Mem.writeN (Mem.write m a b) (a + 1) bs

/-- Bytes written cell by cell, later cells last. -/
def Mem.writeCells (m : Mem) : List Host.Cell → Mem
  | [] => m
  | (a, b) :: r => Mem.writeCells (Mem.write m a b) r

end Sys2Proof.Machine
end

