-- ==== Sys2Proof/Machine/Fec.lean ====
section
/-! DEFINITION. The forward error correction of a Dunind link (R235): the field, the code RS(272,256), the block of four
codewords that carries five flits, its interleaving, and what a decoder makes of symbol errors. -/
namespace Sys2Proof.Machine
open Sys2Proof

/-! ## GF(2¹⁰) with x¹⁰ + x³ + 1 -/

/-- A field element, as a polynomial below x¹⁰, times α. -/
def gfTimesAlpha (a : Nat) : Nat := let b := 2 * a; if b < 1024 then b else b ^^^ 0x409

/-- The product of two field elements. -/
def gfMul (a b : Nat) : Nat :=
  ((List.range 10).foldl (fun (p : Nat × Nat) i => (if bit b i then p.1 ^^^ p.2 else p.1, gfTimesAlpha p.2)) (0, a)).1

/-- α to a power. -/
def gfPow : Nat → Nat
  | 0 => 1
  | n + 1 => gfTimesAlpha (gfPow n)

/-! ## RS(272,256) -/

/-- A polynomial, highest power first, times x − r. -/
def polyTimesRoot (p : List Nat) (r : Nat) : List Nat := List.zipWith (· ^^^ ·) (p ++ [0]) (0 :: p.map (gfMul r))

/-- The generator, with roots α⁰ to α¹⁵. -/
def rsGenerator : List Nat := ((List.range 16).map gfPow).foldl polyTimesRoot [1]

/-- One more data symbol in the remainder of the data by the generator. -/
def rsStep (rem : List Nat) (d : Nat) : List Nat :=
  List.zipWith (fun x c => x ^^^ gfMul (d ^^^ rem.headD 0) c) (rem.tail ++ [0]) rsGenerator.tail

/-- The codeword of data symbols: the data, then 16 check symbols. -/
def rsEncode (data : List Nat) : List Nat := data ++ data.foldl rsStep (List.replicate 16 0)

/-- The value of a word, highest power first, at a field element. -/
def polyAt (w : List Nat) (x : Nat) : Nat := w.foldl (fun v c => gfMul v x ^^^ c) 0

/-- A word is a codeword: every root of the generator is one of its roots. -/
def rsCodeword (w : List Nat) : Bool := (List.range 16).all (fun i => polyAt w (gfPow i) == 0)

/-- Symbol errors that a codeword corrects, and codewords of a block. -/
def rsLimit : Nat := 8
def fecWords : Nat := 4

/-! ## Blocks -/

/-- The 10-bit symbols of bytes, lowest bits first. -/
def symbolsOf (bs : List Byte) : List Nat :=
  let x := leNat bs
  (List.range (8 * bs.length / 10)).map (fun i => x / 2 ^ (10 * i) % 1024)

/-- The four codewords of a block of five flits, in order. Its data symbols go to the codewords in turn.
PRESUMED, log entry 121. -/
def fecBlock (flits : List (List Byte)) : List (List Nat) :=
  let d := symbolsOf flits.flatten
  (List.range fecWords).map (fun j => rsEncode ((List.range 256).map (fun i => d.getD (fecWords * i + j) 0)))

/-- The symbols of a block as they are sent: the codewords interleaved symbol by symbol. -/
def interleave (block : List (List Nat)) : List Nat :=
  (List.range 272).flatMap (fun i => block.map (fun w => w.getD i 0))

/-- Blocks from one alignment marker to the next. -/
def markerEvery : Nat := 16384

/-- Places in which two words differ. -/
def symbolErrors (a b : List Nat) : Nat := ((a.zip b).filter (fun p => p.1 != p.2)).length

/-- What a decoder makes of a received block: the symbols corrected, or the number of codewords with more errors than it
corrects. -/
def fecDecode (sent got : List (List Nat)) : Nat ⊕ Nat :=
  let es := (sent.zip got).map (fun p => symbolErrors p.1 p.2)
  let bad := (es.filter (fun n => decide (rsLimit < n))).length
  if bad = 0 then .inl es.sum else .inr bad

end Sys2Proof.Machine
end

