-- ==== Sys2Proof/Machine/Flags.lean ====
section
/-! DEFINITION. The exception flags (R83, Table 3.5): their places in TEL_EXC_FLAGS, and how a completed slot posts
them to its context. How an operation computes its flags stands
with the operation, in Float.lean, Convert.lean, Functions.lean and Lanes.lean. -/
namespace Sys2Proof.Machine
open Sys2Proof

/-! ## Flags (Table 3.5) -/

abbrev Flags := BitVec 9
def fInvalid : Flags := 1
def fOverflow : Flags := 2
def fUnderflow : Flags := 4
def fInexact : Flags := 8
def fVarClamp : Flags := 16
def fEmptyRed : Flags := 32
def fIntSat : Flags := 64
def fIdxRange : Flags := 128
def fRescale : Flags := 256

/-! ## Contexts, which hold the posted flags -/

def Dev.ctx (s : Dev) (c : Nat) : Ctx := Tab.get {} s.ctxs c
def Dev.setCtx (s : Dev) (c : Nat) (x : Ctx) : Dev := { s with ctxs := Tab.set s.ctxs c x }
def Dev.modCtx (s : Dev) (c : Nat) (f : Ctx → Ctx) : Dev := s.setCtx c (f (s.ctx c))

/-- Sticky exception flags posted to the context (R83).
DEDUCED, log entry 80. -/
def Dev.postFlags (s : Dev) (c : Nat) (f : Flags) : Dev :=
  if f = 0 then s else s.modCtx c (fun x => { x with exc := x.exc ||| f })

end Sys2Proof.Machine
end

