-- ==== Sys2Proof/Machine/Float.lean ====
section
/-! DEFINITION. Exact dyadic arithmetic and its rounding (R77, R78, R81, R82), and the FP32 operations
of the engines built on them. A result is a pair of a value and the flags of Table 3.5 it sets. -/
namespace Sys2Proof.Machine
open Sys2Proof

/-- The canonical quiet NaN, and the quiet NaN with payload 0x7E (R82). -/
def qNaN : F32 := 0x7FC00000
def emptyNaN : F32 := 0x7FC0007E

/-! ## Exact dyadics -/

/-- The exact value m × 2^e. -/
structure Dy where
  m : Int
  e : Int
  deriving DecidableEq, Repr

def Dy.zero : Dy := ⟨0, 0⟩

/-- The mantissas of two dyadics over their lower exponent. -/
def Dy.alignTo (a : Dy) (e : Int) : Int := a.m * (2 ^ (a.e - e).toNat : Nat)

def Dy.add (a b : Dy) : Dy :=
  if a.m = 0 then b else if b.m = 0 then a else
  let e := min a.e b.e
  ⟨a.alignTo e + b.alignTo e, e⟩

def Dy.mul (a b : Dy) : Dy := ⟨a.m * b.m, a.e + b.e⟩
def Dy.neg (a : Dy) : Dy := ⟨-a.m, a.e⟩
def Dy.scale (a : Dy) (k : Int) : Dy := ⟨a.m, a.e + k⟩
def Dy.ofInt (i : Int) : Dy := ⟨i, 0⟩

def Dy.lt (a b : Dy) : Bool :=
  let e := min a.e b.e
  decide (a.alignTo e < b.alignTo e)
def Dy.abs (a : Dy) : Dy := ⟨a.m.natAbs, a.e⟩

/-- Floor of log₂ of the magnitude of a nonzero dyadic. -/
def Dy.log2 (a : Dy) : Int := (Nat.log2 a.m.natAbs : Int) + a.e

/-! ## Rounding a magnitude -/

/-- The rounding rule in force (R77): to nearest even, or stochastic with the 24 random bits of the
element's key (R78). -/
inductive Rnd where
  | rne
  | sr (r : Nat)
  deriving DecidableEq, Repr

/-- `m × 2^e`, plus a positive remainder below its last place when `sticky`, rounded to a multiple of
2^qe: the multiple, and whether the value changed. -/
def roundTo (m : Nat) (e : Int) (sticky : Bool) (qe : Int) (rnd : Rnd) : Nat × Bool :=
  let d := qe - e
  if d ≤ 0 then (m * 2 ^ (-d).toNat, sticky)
  else
    let k := d.toNat
    let q := m / 2 ^ k
    let r := m % 2 ^ k
    let inexact := r != 0 || sticky
    let up := match rnd with
      | .rne =>
        let h := 2 ^ (k - 1)
        decide (h < r) || (r == h && (sticky || q % 2 == 1))
      | .sr x => decide (x < r * 2 ^ 24 / 2 ^ k)
    (if up then q + 1 else q, inexact)

/-- A binary floating-point format: fraction bits, exponent bits, exponent bias. -/
structure FpFmt where
  frac : Nat
  ebits : Nat
  bias : Nat
  deriving DecidableEq, Repr

def fp32 : FpFmt := ⟨23, 8, 127⟩
def bf16 : FpFmt := ⟨7, 8, 127⟩
def fp16 : FpFmt := ⟨10, 5, 15⟩
def e2m1 : FpFmt := ⟨1, 2, 1⟩
def e2m3 : FpFmt := ⟨3, 2, 1⟩
def e3m2 : FpFmt := ⟨2, 3, 3⟩
def e4m3 : FpFmt := ⟨3, 4, 7⟩
def e5m2 : FpFmt := ⟨2, 5, 15⟩

/-- Exponent of the smallest normal value. -/
def FpFmt.emin (f : FpFmt) : Int := 1 - (f.bias : Int)

/-- Exponent of the spacing at a value of exponent `x`, subnormals counted (R78). -/
def FpFmt.ulpExp (f : FpFmt) (x : Int) : Int := max x f.emin - (f.frac : Int)

/-- The bits of q × 2^qe, q at most 2^(frac+1), at the format's own spacing; exponent field unbounded. -/
def FpFmt.encode (f : FpFmt) (q : Nat) (qe : Int) : Nat :=
  if q < 2 ^ f.frac then q
  else
    let x := (Nat.log2 q : Int) + qe
    let sh := (Nat.log2 q) - f.frac
    let frac := q / 2 ^ sh % 2 ^ f.frac
    (x + (f.bias : Int)).toNat * 2 ^ f.frac + frac

/-- Rounds a nonzero magnitude to an IEEE-like format (Table 3.4, first column): the bits without sign,
and the flags. -/
def FpFmt.roundIEEE (f : FpFmt) (m : Nat) (e : Int) (sticky : Bool) (rnd : Rnd) : Nat × Flags :=
  let x := (Nat.log2 m : Int) + e
  let qe := f.ulpExp x
  let (q, inexact) := roundTo m e sticky qe rnd
  let tiny := decide (x < f.emin)
  let infBits := (2 ^ f.ebits - 1) * 2 ^ f.frac
  if q = 0 then (0, if inexact then fUnderflow ||| fInexact else 0)
  else if (Nat.log2 q : Int) + qe > (f.bias : Int) then (infBits, fOverflow ||| fInexact)
  else (f.encode q qe, if inexact then (if tiny then fUnderflow ||| fInexact else fInexact) else 0)

/-! ## FP32 values -/

def F32.sign (x : F32) : Bool := x.getMsbD 0
def F32.expF (x : F32) : Nat := fld x.toNat 30 23
def F32.fracF (x : F32) : Nat := fld x.toNat 22 0
def isNaN (x : F32) : Bool := F32.expF x == 255 && F32.fracF x != 0
def isSNaN (x : F32) : Bool := isNaN x && !bit x.toNat 22
def isInf (x : F32) : Bool := F32.expF x == 255 && F32.fracF x == 0
def isFinite (x : F32) : Bool := F32.expF x != 255
def isZero (x : F32) : Bool := x.toNat % 2 ^ 31 == 0
/-- The NaN with bit 22 set (R82). -/
def quiet (x : F32) : F32 := x ||| 0x00400000
/-- DEDUCED, log entry 51. -/
def negF (x : F32) : F32 := x ^^^ 0x80000000
/-- The negative of an operand inside a formula: a NaN is carried through as it is (R124).
DEDUCED, log entry 51. -/
def minusF (x : F32) : F32 := if isNaN x then x else negF x
def absF (x : F32) : F32 := x &&& 0x7FFFFFFF
def infF (neg : Bool) : F32 := if neg then 0xFF800000 else 0x7F800000
def zeroF (neg : Bool) : F32 := if neg then 0x80000000 else 0
def oneF : F32 := 0x3F800000

/-- The value of an FP32 pattern. -/
def F32.num (x : F32) : Num :=
  let s := F32.sign x
  let e := F32.expF x
  let f := F32.fracF x
  if e = 255 then (if f = 0 then .inf s else .nan x)
  else if e = 0 then .fin s f (-149)
  else .fin s (2 ^ 23 + f) ((e : Int) - 150)

/-- The exact value of a finite FP32 pattern (0 for others). -/
def F32.dy (x : F32) : Dy :=
  match F32.num x with
  | .fin s m e => ⟨if s then -(m : Int) else m, e⟩
  | _ => Dy.zero

def withSign (neg : Bool) (bits : Nat) : F32 :=
  BitVec.ofNat 32 (bits + if neg then 2 ^ 31 else 0)

/-- A signed magnitude with a sticky remainder, rounded to FP32. -/
def roundF32s (neg : Bool) (m : Nat) (e : Int) (sticky : Bool) (rnd : Rnd := .rne) : F32 × Flags :=
  if m = 0 then
    (zeroF neg, if sticky then fUnderflow ||| fInexact else 0)
  else
    let (b, fl) := fp32.roundIEEE m e sticky rnd
    (withSign neg b, fl)

/-- An exact dyadic rounded once to FP32, or to BF16 in a packed lane (R127), held in FP32 bits; an exact
zero takes sign `zneg`. -/
def roundDyL (pk : Bool) (d : Dy) (zneg : Bool) : F32 × Flags :=
  if d.m = 0 then (zeroF zneg, 0)
  else if pk then
    let (b, fl) := bf16.roundIEEE d.m.natAbs d.e false .rne
    (withSign (decide (d.m < 0)) (b * 2 ^ 16), fl)
  else roundF32s (decide (d.m < 0)) d.m.natAbs d.e false

/-- An exact dyadic rounded to FP32. -/
def roundDy (d : Dy) (zneg : Bool := false) : F32 × Flags := roundDyL false d zneg

/-- An integer rounded to FP32. -/
def f32OfInt (i : Int) : F32 × Flags := roundDy (Dy.ofInt i)

/-- The NaN of lowest position among operands, quietened (R124), with INVALID for any signalling one. -/
def nanOf (xs : List F32) : Option (F32 × Flags) :=
  match xs.find? isNaN with
  | none => none
  | some x => some (quiet x, if xs.any isSNaN then fInvalid else 0)

/-- Sum of two lane values with one rounding to nearest even. -/
def addL (pk : Bool) (a b : F32) : F32 × Flags :=
  match nanOf [a, b] with
  | some r => r
  | none =>
    match isInf a, isInf b with
    | true, true => if F32.sign a == F32.sign b then (a, 0) else (qNaN, fInvalid)
    | true, false => (a, 0)
    | false, true => (b, 0)
    | false, false => roundDyL pk ((F32.dy a).add (F32.dy b)) (F32.sign a && F32.sign b)

def addF (a b : F32) : F32 × Flags := addL false a b

def subL (pk : Bool) (a b : F32) : F32 × Flags :=
  match nanOf [a, b] with
  | some r => r
  | none => addL pk a (negF b)

def subF (a b : F32) : F32 × Flags := subL false a b

def mulL (pk : Bool) (a b : F32) : F32 × Flags :=
  match nanOf [a, b] with
  | some r => r
  | none =>
    let s := F32.sign a != F32.sign b
    if isInf a || isInf b then (if isZero a || isZero b then (qNaN, fInvalid) else (infF s, 0))
    else roundDyL pk ((F32.dy a).mul (F32.dy b)) s

def mulF (a b : F32) : F32 × Flags := mulL false a b

/-- a × b + c with one rounding; 0 × inf is INVALID even with a NaN addend (Table 5.4). -/
def fmaL (pk : Bool) (a b c : F32) : F32 × Flags :=
  let zi := (isInf a && isZero b) || (isZero a && isInf b)
  match nanOf [a, b, c] with
  | some (r, f) => (r, if zi then f ||| fInvalid else f)
  | none =>
    let s := F32.sign a != F32.sign b
    if zi then (qNaN, fInvalid)
    else if isInf a || isInf b then
      (if isInf c && F32.sign c != s then (qNaN, fInvalid) else (infF s, 0))
    else if isInf c then (c, 0)
    else
      let p := (F32.dy a).mul (F32.dy b)
      roundDyL pk (p.add (F32.dy c)) (if p.m = 0 && (F32.dy c).m = 0 then s && F32.sign c else false)

def fmaF (a b c : F32) : F32 × Flags := fmaL false a b c

/-- Quotient of two nonzero magnitudes ma × 2^ea and mb × 2^eb with at least 40 significant bits:
mantissa, exponent, and whether a remainder is left. -/
def divMag (ma : Nat) (ea : Int) (mb : Nat) (eb : Int) : Nat × Int × Bool :=
  let k := Nat.log2 mb + 64
  let n := ma * 2 ^ k
  (n / mb, ea - eb - (k : Int), n % mb != 0)

/-- Correctly rounded division (R165): 0/0 and inf/inf are INVALID, x/0 is an infinity without flag. -/
def divF (a b : F32) : F32 × Flags :=
  match nanOf [a, b] with
  | some r => r
  | none =>
    let s := F32.sign a != F32.sign b
    if (isInf a && isInf b) || (isZero a && isZero b) then (qNaN, fInvalid)
    else if isInf a || isZero b then (infF s, 0)
    else if isInf b || isZero a then (zeroF s, 0)
    else
      let (q, e, r) := divMag (F32.dy a).m.natAbs (F32.dy a).e (F32.dy b).m.natAbs (F32.dy b).e
      roundF32s s q e r

/-- Integer square root by bisection on the bits, from bit `k` down. -/
def isqrtFrom (n : Nat) : Nat → Nat → Nat
  | 0, acc => acc
  | k + 1, acc =>
    let t := acc + 2 ^ k
    isqrtFrom n k (if t * t ≤ n then t else acc)

def isqrt (n : Nat) : Nat := isqrtFrom n (Nat.log2 n / 2 + 1) 0

/-- Square root of a nonzero magnitude: mantissa, exponent, remainder left. -/
def sqrtMag (m : Nat) (e : Int) : Nat × Int × Bool :=
  let k : Nat := 80 + (if (e - 80) % 2 = 0 then 0 else 1)
  let n := m * 2 ^ k
  let r := isqrt n
  (r, (e - (k : Int)) / 2, r * r != n)

/-- Correctly rounded square root; a negative nonzero operand is INVALID. -/
def sqrtF (a : F32) : F32 × Flags :=
  match nanOf [a] with
  | some r => r
  | none =>
    if isZero a then (a, 0)
    else if F32.sign a then (qNaN, fInvalid)
    else if isInf a then (a, 0)
    else
      let (q, e, r) := sqrtMag (F32.dy a).m.natAbs (F32.dy a).e
      roundF32s false q e r

/-- Comparison of two FP32 values that are not NaN, -0 equal to +0. -/
def ltF (a b : F32) : Bool :=
  let key (x : F32) : Int :=
    let m : Int := (x.toNat % 2 ^ 31 : Nat)
    if F32.sign x then -m else m
  decide (key a < key b)
def eqF (a b : F32) : Bool := (isZero a && isZero b) || a == b
def leF (a b : F32) : Bool := ltF a b || eqF a b

/-- Total order on non-NaN values with +0 above -0 (Table 5.4 MAX and MIN). -/
def gtZ (a b : F32) : Bool :=
  if isZero a && isZero b then !F32.sign a && F32.sign b else ltF b a

def maxF (a b : F32) : F32 × Flags :=
  match nanOf [a, b] with
  | some r => r
  | none => (if gtZ b a then b else a, 0)

def minF (a b : F32) : F32 × Flags :=
  match nanOf [a, b] with
  | some r => r
  | none => (if gtZ a b then b else a, 0)

/-- An exact sum of FP32 values with the outcome of one group of R93, R133 and R163: a NaN operand
gives the first NaN quietened; both infinities give INVALID; no rounding otherwise. -/
inductive ESum where
  | exact (d : Dy) (allNegZero : Bool)
  | special (v : F32)
  deriving DecidableEq, Repr

def exactSum (xs : List F32) : ESum × Flags :=
  match nanOf xs with
  | some (r, f) => (.special r, f)
  | none =>
    let pi := xs.any (fun x => isInf x && !F32.sign x)
    let ni := xs.any (fun x => isInf x && F32.sign x)
    if pi && ni then (.special qNaN, fInvalid)
    else if pi then (.special (infF false), 0)
    else if ni then (.special (infF true), 0)
    else (.exact (xs.foldl (fun d x => d.add (F32.dy x)) Dy.zero)
            (!xs.isEmpty && xs.all (fun x => isZero x && F32.sign x)), 0)

/-- An exact group sum rounded once to FP32. -/
def roundSum (g : ESum) : F32 × Flags :=
  match g with
  | .special v => (v, 0)
  | .exact d nz => roundDy d nz

/-- An exact group sum added to a running FP32 value with one rounding; the running NaN wins (R95). -/
def addSum (acc : F32) (g : ESum) : F32 × Flags :=
  if isNaN acc then (quiet acc, if isSNaN acc then fInvalid else 0)
  else
    match g with
    | .special v =>
      if isNaN v then (v, 0)
      else if isInf acc && F32.sign acc != F32.sign v then (qNaN, fInvalid)
      else (v, 0)
    | .exact d nz =>
      if isInf acc then (acc, 0)
      else roundDy ((F32.dy acc).add d) (F32.sign acc && isZero acc && (nz && d.m = 0))

/-- Rounds a dyadic to an integer under the rule in force (R78 on the integer grid). -/
def dyToInt (d : Dy) (rnd : Rnd) : Int × Bool :=
  let (q, x) := roundTo d.m.natAbs d.e false 0 rnd
  (if d.m < 0 then -(q : Int) else q, x)

/-! ## The stochastic-rounding generator (R79) -/

def rotl32 (x : U32) (k : Nat) : U32 := x.rotateLeft k

def srRound (s : U32 × U32 × U32 × U32) (r : Nat) : U32 × U32 × U32 × U32 :=
  let (a, b, c, d) := s
  let k : U32 := BitVec.ofNat 32 ((r + 1) * 0x9E3779B9)
  let a := a + b + k
  let d := rotl32 (d ^^^ a) 16
  let c := c + d
  let b := rotl32 (b ^^^ c) 12
  let a := a + b
  let d := rotl32 (d ^^^ a) 8
  let c := c + d
  let b := rotl32 (b ^^^ c) 7
  (a, b, c, d)

/-- The generator output for a key of Table 3.3. -/
def srBits (step tid : U32) (idx dom : Nat) : U32 :=
  let init : U32 × U32 × U32 × U32 :=
    (step, tid, BitVec.ofNat 32 idx, BitVec.ofNat 32 (fld idx 47 32 + dom * 2 ^ 16))
  let (a, _, c, _) := (List.range 6).foldl srRound init
  a ^^^ c

/-- The rounding rule of an element: stochastic with bits [31:8] of the generator (R78), or nearest. -/
def rndOf (sr : Bool) (step tid : U32) (idx dom : Nat) : Rnd :=
  if sr then .sr ((srBits step tid idx dom).toNat / 256) else .rne

/-! ## Values with the flags that computing them raised (R84) -/

abbrev FF := F32 × Flags
def FF.of (x : F32) : FF := (x, 0)
def FF.op1 (f : F32 → FF) (a : FF) : FF := let r := f a.1; (r.1, a.2 ||| r.2)
def FF.op2 (f : F32 → F32 → FF) (a b : FF) : FF := let r := f a.1 b.1; (r.1, a.2 ||| b.2 ||| r.2)
def FF.fma (a b c : FF) : FF := let r := fmaF a.1 b.1 c.1; (r.1, a.2 ||| b.2 ||| c.2 ||| r.2)
def valsOf (xs : List FF) : List F32 := xs.map Prod.fst
def flagsOf (xs : List FF) : Flags := xs.foldl (fun f x => f ||| x.2) 0

/-! ## Matrices of FP32, row-major (R274, R304) -/

/-- A product element: fma_rne in ascending inner index from +0. -/
def dotF (xs : List (F32 × F32)) : FF :=
  xs.foldl (fun a e => let r := fmaF e.1 e.2 a.1; (r.1, a.2 ||| r.2)) (0, 0)

/-- The product of an a × b and a b × n matrix. -/
def matMul (a b n : Nat) (x y : List F32) : List FF :=
  (List.range a).flatMap (fun i => (List.range n).map (fun j =>
    dotF ((List.range b).map (fun k => (x.getD (i * b + k) 0, y.getD (k * n + j) 0)))))

/-- The transpose of an a × b matrix. -/
def transp (a b : Nat) (x : List F32) : List F32 :=
  (List.range b).flatMap (fun j => (List.range a).map (fun i => x.getD (i * b + j) 0))

end Sys2Proof.Machine
end

