-- ==== Sys2Proof/Machine/UpdEntry.lean ====
section
/-! DEFINITION. Entries of the update list (Table 12.1) and the state area of a block (Table 12.2). -/
namespace Sys2Proof.Machine
open Sys2Proof

/-- An update list entry, and where it lies in the allotment. -/
structure UEnt where
  idx : Nat
  at0 : Nat
  w1 : Nat
  counter : U32
  skip : U32
  hset : Nat
  frozen : Bool
  pl : Bool
  pr : Bool
  rvalid : Bool
  rjob : Bool
  rsel : Bool
  blkLog2 : Nat
  ulog2 : Nat
  layer : Nat
  status : Nat
  valid : Bool
  tid : U32
  rstep : U32
  bidx : Nat
  goff : Nat
  poff : Nat
  soff : Nat
  dfirst : Nat
  dcount : Nat
  bucket : Nat
  chunk0 : Nat
  deriving DecidableEq, Repr

/-- The entry that 64 bytes spell. -/
def parseUEnt (idx at0 : Nat) (bs : List Byte) : UEnt :=
  let w (i : Nat) : Nat := leAt bs (8 * i) 8
  { idx := idx, at0 := at0, w1 := w 1, counter := BitVec.ofNat 32 (fld (w 0) 63 32), skip := BitVec.ofNat 32 (w 0)
    hset := fld (w 1) 63 60, frozen := bit (w 1) 59, pl := bit (w 1) 58, pr := bit (w 1) 57, rvalid := bit (w 1) 56
    rjob := bit (w 1) 55, rsel := bit (w 1) 54, blkLog2 := fld (w 1) 53 49, ulog2 := fld (w 1) 48 44
    layer := fld (w 1) 43 32, status := fld (w 1) 31 24, valid := bit (w 1) 0
    tid := BitVec.ofNat 32 (fld (w 2) 63 32), rstep := BitVec.ofNat 32 (w 2), bidx := fld (w 3) 63 48
    goff := fld (w 3) 38 0, poff := fld (w 4) 38 0, soff := fld (w 5) 38 0
    dfirst := fld (w 6) 63 52, dcount := fld (w 6) 51 40, bucket := fld (w 6) 39 30, chunk0 := fld (w 6) 29 14 }

/-- Words 0 to 2, which hold every field that the engine writes. -/
def UEnt.words (e : UEnt) : List Byte :=
  leBytes 8 (at' e.counter.toNat 32 + e.skip.toNat)
    ++ leBytes 8 (at' e.hset 60 + at' (b2n e.frozen) 59 + at' (b2n e.pl) 58 + at' (b2n e.pr) 57 + at' (b2n e.rvalid) 56
        + at' (b2n e.rjob) 55 + at' (b2n e.rsel) 54 + fld e.w1 53 32 * 2 ^ 32 + at' e.status 24 + fld e.w1 23 0)
    ++ leBytes 8 (at' e.tid.toNat 32 + e.rstep.toNat)

/-- Elements of the block, and the sides of its matrix view. -/
def UEnt.size (e : UEnt) : Nat := 2 ^ e.blkLog2
def UEnt.u (e : UEnt) : Nat := 2 ^ e.ulog2
def UEnt.w (e : UEnt) : Nat := 2 ^ (e.blkLog2 - e.ulog2)

/-! ## The state area (Table 12.2) -/

def UEnt.mOff (e : UEnt) : Nat := e.soff
def UEnt.vOff (e : UEnt) : Nat := alignUp 64 (e.mOff + (e.size + e.size / 16))
/-- The first byte after m and v. -/
def UEnt.sides (e : UEnt) : Nat := alignUp 64 (e.vOff + (e.size + e.size / 16))
/-- Part i of the left side: L, LSNAP, LINV0, LINV1. -/
def UEnt.left (e : UEnt) (i : Nat) : Nat := e.sides + i * alignUp 64 (4 * e.u * e.u)
def UEnt.rightBase (e : UEnt) : Nat := if e.pl then e.left 4 else e.sides
/-- Part i of the right side. -/
def UEnt.right (e : UEnt) (i : Nat) : Nat := e.rightBase + i * alignUp 64 (4 * e.w * e.w)
/-- The size of the state area. -/
def UEnt.areaSize (e : UEnt) : Nat := (if e.pr then e.right 4 else e.rightBase) - e.soff

end Sys2Proof.Machine
end

