-- ==== Sys2Proof/Machine/Ops.lean ====
section
/-! DEFINITION. The named operations over the state: contexts and tiles, stores and memories, rings and
records (R347-R354), failures of launches (R57, R412), idleness (R343) and the device fault (R318). -/
namespace Sys2Proof.Machine
open Sys2Proof

/-- Codes of Table 2.17 (R68). -/
def Status.code : Status → Nat
  | .done => 0x00 | .aborted => 0x01 | .nothingToAbort => 0x02 | .faultDiscarded => 0x03
  | .ownerLost => 0x04 | .preempted => 0x05 | .invalidWord => 0x10 | .range => 0x11
  | .align => 0x12 | .overlap => 0x13 | .busy => 0x14 | .stalePage => 0x15 | .notIdle => 0x16
  | .stepMismatch => 0x20 | .frozen => 0x21 | .rescale => 0x22 | .late => 0x23
  | .scaleExhausted => 0x24 | .linkLost => 0x30 | .remounted => 0x31 | .internal => 0x3F

/-- A status as the 8-bit STATUS field of an operation status register. -/
def Status.byte (x : Status) : Byte := BitVec.ofNat 8 x.code

/-- The order in which failures are compared (R412, R174). -/
def Status.rank : Status → Nat
  | .invalidWord => 0 | .align => 1 | .range => 2 | .overlap => 3 | _ => 4

/-- The first of a list of checks in the order of R412; `none` when every check passed.
DEDUCED, log entry 36. -/
def firstStatus (xs : List (Option Status)) : Option Status :=
  (xs.filterMap id).foldl (fun b x =>
    match b with
    | none => some x
    | some y => if x.rank < y.rank then some x else b) none

/-- `some st` when the condition holds: one check. -/
def failIf (b : Bool) (st : Status) : Option Status := if b then some st else none

/-- A command whose effect is one change of the device. -/
def State.onDev (s : State) (f : Dev → Dev) : Host.Outcome State Fault Refusal :=
  .next { s with dev := f s.dev }

/-- A fresh open value (log entry 5). -/
def Dev.fresh (s : Dev) : U64 × Dev :=
  (Config.freeValue s.freeCtr, { s with freeCtr := s.freeCtr + 1 })

/-! ## Contexts -/

/-- Every context number. -/
def allCtx : List Nat := List.range 64

/-- The context's tiles and hitches are in the saved image (R14, R346).
DESIGN CHOICE, log entry 12. -/
def Ctx.away (x : Ctx) : Bool := x.resid == .preempted || x.resid == .restoring

/-! ## Tiles -/

/-- DEDUCED, log entry 28. -/
def physTiles : Nat := 136
/-- The die of a physical tile: near for 0 to 67 (R194).
DEDUCED, log entry 28. -/
def dieOfPhys (p : Nat) : Nat := if p < 68 then 0 else 1
def defaultRole (p : Nat) : TileRole :=
  if (64 ≤ p ∧ p < 68) ∨ (132 ≤ p ∧ p < 136) then .spare else .active

def Dev.ptile (s : Dev) (p : Nat) : PTile :=
  Tab.get { role := defaultRole p, position := p } s.tiles p
def Dev.setPtile (s : Dev) (p : Nat) (x : PTile) : Dev := { s with tiles := Tab.set s.tiles p x }

/-- The physical tile that backs a logical tile of a resident context (R13). -/
def Dev.phys (s : Dev) (c t : Nat) : Option Nat :=
  if (s.ctx c).away then none else Tab.find (s.ctx c).backs t

/-- The state of logical tile `t`, resident or saved; `none` for an unbacked tile (R323). -/
def Dev.tile? (s : Dev) (c t : Nat) : Option Tile :=
  let x := s.ctx c
  if x.away then (if t < x.ntile.toNat then some (Tab.get {} x.saved t) else none)
  else (Tab.find x.backs t).map (fun p => (s.ptile p).tile)

def Dev.tile (s : Dev) (c t : Nat) : Tile := (s.tile? c t).getD {}

/-- An unbacked tile holds nothing: a write to it changes nothing. -/
def Dev.setTile (s : Dev) (c t : Nat) (v : Tile) : Dev :=
  let x := s.ctx c
  if x.away then
    if t < x.ntile.toNat then s.setCtx c { x with saved := Tab.set x.saved t v } else s
  else
    match Tab.find x.backs t with
    | none => s
    | some p => s.setPtile p { s.ptile p with tile := v }

def Dev.modTile (s : Dev) (c t : Nat) (f : Tile → Tile) : Dev := s.setTile c t (f (s.tile c t))

/-- The service of the array that backs a logical tile; an unbacked tile has none to report. -/
def Dev.health (s : Dev) (c t : Nat) : Health :=
  match s.phys c t with
  | some p => (s.ptile p).health
  | none => {}

def Dev.modHealth (s : Dev) (c t : Nat) (f : Health → Health) : Dev :=
  match s.phys c t with
  | some p => s.setPtile p { s.ptile p with health := f (s.ptile p).health }
  | none => s

/-- The logical tiles of a context's tile set. -/
def Dev.tilesOf (s : Dev) (c : Nat) : List Nat := List.range (s.ctx c).ntile.toNat

/-- DESIGN CHOICE, log entry 10. -/
def Tile.reg (t : Tile) (r : Nat) : U64 := Tab.get 0 t.regs r
def Tile.setReg (t : Tile) (r : Nat) (v : U64) : Tile := { t with regs := Tab.set t.regs r v }
def Tile.page (t : Tile) (p : Nat) : Page := Tab.get {} t.pages p
def Tile.setPage (t : Tile) (p : Nat) (v : Page) : Tile := { t with pages := Tab.set t.pages p v }

def Tile.modWord (t : Tile) (seq : Nat) (f : IWord → IWord) : Tile :=
  { t with words := t.words.map (fun w => if w.seq = seq then f w else w) }
def IWord.modSlot (w : IWord) (num : Nat) (f : ISlot → ISlot) : IWord :=
  { w with slots := w.slots.map (fun x => if x.num = num then f x else x) }
def Tile.modSlot (t : Tile) (seq num : Nat) (f : ISlot → ISlot) : Tile :=
  t.modWord seq (fun w => w.modSlot num f)
/-- The place of a slot in its program, for values that the spec leaves open (log entry 20). -/
def IWord.key (w : IWord) (t num : Nat) : List Nat := [w.step.toNat, t, w.ord, num]
def Tile.word? (t : Tile) (seq : Nat) : Option IWord := t.words.find? (fun w => w.seq = seq)
def IWord.slot? (w : IWord) (num : Nat) : Option ISlot := w.slots.find? (fun x => x.num = num)
def Tile.slot? (t : Tile) (seq num : Nat) : Option ISlot :=
  match t.word? seq with
  | none => none
  | some w => w.slot? num

/-- A slot occupies its engine queue: until it starts, and for the remote queue until it completes
(R414). -/
def ISlot.occupies (x : ISlot) : Bool :=
  match x.st with
  | .queued => true
  | .started => true
  | .performed => x.num == 6
  | .ended => false

/-- The entries of engine queue `num`, in the order in which the words were issued (R47). -/
def Tile.queue (t : Tile) (num : Nat) : List (Nat × ISlot) :=
  t.words.flatMap (fun w => (w.slots.filter (fun x => x.num = num && x.occupies)).map (fun x => (w.seq, x)))

/-- The first entry of a queue that has not started. -/
def Tile.headOf (t : Tile) (num : Nat) : Option (Nat × ISlot) :=
  (t.queue num).find? (fun e => e.2.st == .queued)

/-- Depth of an engine queue (Table 2.2), by presence order. -/
def queueDepth (num : Nat) : Nat := if num = 2 then 8 else if num = 6 then 32 else 16

/-! ## Stores and memories -/

/-- The save area of a tile set (R216). -/
def saveArea (ntile : Nat) : Nat := ntile * 3670016 + 1048576

/-- The usable size of the context's allotment (R216). -/
def Ctx.usable (x : Ctx) : Nat :=
  if x.allotEn then x.allotSize.toNat * 2 ^ 28 - saveArea x.ntile.toNat else 0

/-- Pool address of an HBM-space offset (R215). -/
def Ctx.pool (x : Ctx) (off : Nat) : Nat := x.allotBase.toNat * 2 ^ 28 + off

/-- Pool capacity in bytes (R213). -/
def MemBlk.capacity (m : MemBlk) : Nat := m.nch.toNat * 2 ^ 31

def MemBlk.stagingMem (m : MemBlk) (d : Nat) : Mem := Tab.get [] m.staging d

/-- One byte of a space, as context `c` addresses it. -/
def Dev.readByte (s : Dev) (c : Nat) (sp : Space) (off : Nat) : Byte :=
  match sp with
  | .hbm => Mem.read s.mem.pool ((s.ctx c).pool off)
  | .tile t => Mem.read (s.tile c t).store off
  | .staging d => Mem.read (s.mem.stagingMem d) off
  | .host => Mem.read s.hif.hostMem off
  | .remote _ _ => 0

def Dev.readBytes (s : Dev) (c : Nat) (a : Addr) (n : Nat) : List Byte :=
  (List.range n).map (fun i => s.readByte c a.space (a.off + i))

/-- A line leaves the poisoned set when a write covers all of its 64 bytes (R219). -/
def clearPoison (poison : List Nat) (cells : List Host.Cell) : List Nat :=
  if poison.isEmpty then [] else
    poison.filter (fun l => !((List.range 64).all (fun i => cells.any (fun e => e.1 == 64 * l + i))))

/-- Bytes written into the pool by one operation, at pool addresses. -/
def MemBlk.poolWrite (m : MemBlk) (cells : List Host.Cell) : MemBlk :=
  { m with
    pool := Mem.writeCells m.pool cells, poison := clearPoison m.poison cells
    latent := if m.latent.isEmpty then [] else
      m.latent.filter (fun e => !(clearPoison [e.1] cells).isEmpty) }

/-- The bytes one operation writes into one space, at offsets of that space. -/
def Dev.writeCells (s : Dev) (c : Nat) (sp : Space) (cells : List Host.Cell) : Dev :=
  match sp with
  | .hbm =>
    let x := s.ctx c
    { s with mem := s.mem.poolWrite (cells.map (fun e => (x.pool e.1, e.2))) }
  | .tile t => s.modTile c t (fun x => { x with store := Mem.writeCells x.store cells })
  | .staging d =>
    { s with mem := { s.mem with
        staging := Tab.set s.mem.staging d (Mem.writeCells (s.mem.stagingMem d) cells) } }
  | .host => { s with hif := { s.hif with hostMem := Mem.writeCells s.hif.hostMem cells } }
  | .remote _ _ => s

/-- Consecutive bytes as cells. -/
def cellsAt (off : Nat) (bs : List Byte) : List Host.Cell :=
  (List.range bs.length).zip bs |>.map (fun e => (off + e.1, e.2))

def Dev.writeBytes (s : Dev) (c : Nat) (a : Addr) (bs : List Byte) : Dev :=
  s.writeCells c a.space (cellsAt a.off bs)

/-- The pool lines that bytes of the HBM space fall in. -/
def poolLines (x : Ctx) (offs : List Nat) : List Nat :=
  offs.foldl (fun ls o => let l := x.pool o / 64; if ls.head? = some l then ls else l :: ls) []

/-- Lines among those given that the snoop filter records, or whose snoop is unanswered (R229). -/
def MemBlk.cached (m : MemBlk) (lines : List Nat) : List Nat :=
  if m.snoop.isEmpty && m.biWait.isEmpty then [] else (m.snoop ++ m.biWait).filter (fun l => lines.contains l)

def MemBlk.poisoned (m : MemBlk) (lines : List Nat) : Bool :=
  !m.poison.isEmpty && m.poison.any (fun l => lines.contains l)

/-- Back-invalidate snoops sent for lines the host holds; the access waits for the answers (R229).
DESIGN CHOICE, log entry 21. -/
def MemBlk.invalidate (m : MemBlk) (lines : List Nat) : MemBlk :=
  { m with biWait := m.biWait ++ lines.filter (fun l => !m.biWait.contains l) }

/-- The range of the context on a die's staging store (R227), as byte base and size. -/
def Ctx.stgRange (x : Ctx) (d : Nat) : Option (Nat × Nat) :=
  let r := Tab.get {} x.stg d
  if r.en then some (r.base.toNat * 4096, r.size.toNat * 4096) else none

/-- Bytes [a, a+n) of a staging store lie in the context's range. -/
def Ctx.stgHolds (x : Ctx) (d a n : Nat) : Bool :=
  match x.stgRange d with
  | none => false
  | some (b, z) => b ≤ a && a + n ≤ b + z

/-- Host bytes [a, a+n) lie in one enabled range with the permission wanted (R345). -/
def Ctx.hostHolds (x : Ctx) (a n : Nat) (write : Bool) : Bool :=
  x.hostAcc.any (fun e =>
    let r := e.2
    r.en && (if write then r.pw else r.pr) && r.base.toNat * 4096 ≤ a &&
      a + n ≤ (r.base.toNat + r.size.toNat) * 4096)

/-! ## Interrupts and ring records -/

/-- Host memory can be reached: link up, not in the 68-byte fallback (R338, R339).
DEDUCED, log entry 30. -/
def Hif.hostUp (h : Hif) : Bool := h.up && !h.flit68

/-- Memory-mapped accesses of the host reach the device's registers and doorbells (R340, R390, R398). -/
def Dev.barOpen (s : Dev) : Bool := s.up.cxl && s.hif.up && !s.hif.d3hot && !s.up.recovery

/-- A register access of the host: without effect while BAR0 does not decode (R340, R390, R398).
DEDUCED, log entry 90. -/
def State.onBar (s : State) (f : Dev → Dev) : Host.Outcome State Fault Refusal :=
  s.onDev (fun d => if d.barOpen then f d else d)

/-- Status of a register operation: the first refusal in the order of R415, DONE when there is none.
DEDUCED, log entry 36. -/
def firstRefusal (xs : List (Bool × Status)) : Status :=
  match xs.find? (fun e => e.1) with
  | some e => e.2
  | none => .done

/-- A power domain runs at the gait of the rail (R370, R373). -/
def Dev.domRunning (s : Dev) (d : Nat) : Bool :=
  let x := Tab.get {} s.pwr.doms d
  x.st == .running && x.toSt.isNone

/-- Every HBM stack domain is running (R372). -/
def Dev.hbmRunning (s : Dev) : Bool := (List.range 8).all (fun i => s.domRunning (68 + i))

/-- MSI-X messages are sent: the capability is enabled and the function not masked (Table 14.2). -/
def Hif.msixOpen (h : Hif) : Bool := h.msixEn && !h.msixFnMask

/-- One MSI-X message of context `c` (R353): pending while the vector or the function is masked, held while the link is
down; none while MSI-X is disabled.
PRESUMED, log entry 120. -/
def Dev.message (s : Dev) (c : Nat) (vec : Nat) : Dev :=
  let x := s.ctx c
  if !s.hif.msixEn then s
  else if s.hif.msixFnMask || bit x.msixMask.toNat vec then
    s.setCtx c { x with msixPend := x.msixPend ||| BitVec.ofNat 32 (2 ^ vec) }
  else if s.hif.up then { s with hif := { s.hif with msgs := s.hif.msgs ++ [32 * c + vec] } }
  else { s with hif := { s.hif with heldMsgs := s.hif.heldMsgs ++ [32 * c + vec] } }

def Dev.ring (s : Dev) (c r : Nat) : Ring := Tab.get {} (s.ctx c).rings r
def Dev.setRing (s : Dev) (c r : Nat) (v : Ring) : Dev :=
  s.modCtx c (fun x => { x with rings := Tab.set x.rings r v })

def Ring.size (r : Ring) : Nat := 2 ^ r.sizeLog2.toNat
/-- A device-written ring has room (R350). -/
def Ring.room (r : Ring) : Bool := decide ((r.dev - r.host).toNat < r.size)
/-- PHASE of the record at the write index (R350). -/
def Ring.phase (r : Ring) : Nat := 1 - r.dev.toNat / r.size % 2

/-- One more record counts toward the ring's message; `now` sends it at once (R353). -/
def Dev.countRecord (s : Dev) (c r : Nat) (now : Bool) : Dev :=
  let g := s.ring c r
  if !g.ien then s
  else if now || g.icount.toNat ≤ g.k + 1 then
    (s.setRing c r { g with k := 0 }).message c g.vec.toNat
  else s.setRing c r { g with k := g.k + 1 }

/-- A record of `bytes` written at the ring's write index, which advances (R350). -/
def Dev.ringWrite (s : Dev) (c r : Nat) (bytes : List Byte) (now : Bool) : Dev :=
  let g := s.ring c r
  let a := g.base.toNat * 4096 + g.dev.toNat % g.size * bytes.length
  let s := { s with hif := { s.hif with hostMem := Mem.writeN s.hif.hostMem a bytes } }
  (s.setRing c r { g with dev := g.dev + 1 }).countRecord c r now

/-- Bytes of an event record (Table 14.7). -/
def Ev.bytes (e : Ev) (phase : Nat) (lost : Bool) : List Byte :=
  leBytes 4 (at' e.type 24 + at' phase 23 + at' (b2n lost) 22) ++ leBytes 4 e.seq.toNat
    ++ leBytes 8 e.time.toNat ++ leBytes 8 e.p0.toNat ++ leBytes 8 e.p1.toNat ++ zeros 32

/-- One waiting event record written, or dropped: uncounted on a disabled ring (R347), counted on a full one (R351). -/
def Dev.writeEvent (s : Dev) (c : Nat) (e : Ev) : Dev :=
  let x := s.ctx c
  let g := s.ring c 2
  if !g.en then s
  else if g.room then
    (s.setCtx c { x with lost := false }).ringWrite c 2 (e.bytes g.phase x.lost) (e.type == 1)
  else s.setCtx c { x with lost := true, evtLost := satAdd x.evtLost 1 }

/-- Every event record of a context that waits for the link is written in order. -/
def Dev.flushEvents (s : Dev) (c : Nat) : Dev :=
  let q := (s.ctx c).evq
  q.foldl (fun s e => s.writeEvent c e) (s.modCtx c (fun x => { x with evq := [] }))

/-- An event of a context (R352); a disabled ring drops it uncounted (R347). -/
def Dev.event (s : Dev) (c type : Nat) (p0 p1 : U64) : Dev :=
  if !(s.ring c 2).en then s
  else
    let s := s.modCtx c (fun x =>
      { x with evq := x.evq ++ [⟨type, x.evtSeq, s.time.ns, p0, p1⟩], evtSeq := x.evtSeq + 1 })
    if s.hif.hostUp then s.flushEvents c else s

/-- An event that goes to every context whose event ring is enabled. -/
def Dev.eventAll (s : Dev) (type : Nat) (p0 p1 : U64) : Dev :=
  allCtx.foldl (fun s c => s.event c type p0 p1) s

/-- The last retired position of the submission ring (R57); before any record has retired the spec
states none, and it is a free value (log entry 13). -/
def Dev.retiredPos (s : Dev) (c : Nat) : U64 × Dev :=
  let n := (s.ctx c).retired
  if n = 0 then s.fresh else (BitVec.ofNat 64 ((n - 1) % 2 ^ 32), s)

/-! ## Launches -/

def Dev.modLaunch (s : Dev) (c : Nat) (pos : U32) (f : Launch → Launch) : Dev :=
  s.modCtx c (fun x => { x with launches := x.launches.map (fun l => if l.pos = pos then f l else l) })

def Dev.launch? (s : Dev) (c : Nat) (pos : U32) : Option Launch :=
  (s.ctx c).launches.find? (fun l => l.pos = pos)

/-- Bytes 0 to 7 of the completion record that would report a failure, PHASE 0 (Tables 2.16, 14.8).
DEDUCED, log entry 40. -/
def Failure.head (f : Failure) (ltag : U16) : U64 :=
  BitVec.ofNat 64 (at' ltag.toNat 16 + at' f.tile 8 + f.status.code
    + at' (at' (f.slot.getD 0) 16 + (f.tag.getD 0).toNat) 32)

/-- A failure of a launch: the first is kept for its completion record, a later one writes a TILEFAIL
event record (R57, R67).
DEDUCED, log entry 40. -/
def Dev.failLaunch (s : Dev) (c : Nat) (pos : U32) (f : Failure) : Dev :=
  match s.launch? c pos with
  | none => s
  | some l =>
    match l.failure with
    | none => s.modLaunch c pos (fun l => { l with failure := some f })
    | some _ => s.event c 0x02 (f.head l.record.ltag) (BitVec.ofNat 64 pos.toNat)

/-- The launch has ended: its completion record joins those waiting to be written. -/
def Dev.finishLaunch (s : Dev) (c : Nat) (pos : U32) (dflt : Status) : Dev :=
  match s.launch? c pos with
  | none => s
  | some l =>
    let f := l.failure.getD ⟨dflt, 0, none, none⟩
    let s := s.modLaunch c pos (fun l => { l with phase := .ready })
    s.modCtx c (fun x => { x with
      cpls := x.cpls ++ [⟨pos, l.record.ltag, l.record.step, f.status, f.tile, f.tag, f.slot, none⟩] })

/-! ## Hitches and their waiters (R196, R199) -/

/-- Key of a physical hitch: die × 16,384 + number (R196). -/
def hitchKey (die : Bool) (n : Nat) : Nat := (if die then 16384 else 0) + n

def Dev.hitch (s : Dev) (k : Nat) : Hitch := Tab.get {} s.sync.hitches k
def Dev.setHitch (s : Dev) (k : Nat) (h : Hitch) : Dev :=
  { s with sync := { s.sync with hitches := Tab.set s.sync.hitches k h } }

/-- The context of a sleeper.
DEDUCED, log entry 34. -/
def Sleeper.ctx : Sleeper → Nat
  | .word c _ _ => c
  | .slot c _ _ _ => c
  | .engine c _ _ => c

/-- Waiters served in order (R199): the credits left, those that wake and those that stay. Waiters of a
context that is saved are passed over (R208).
DEDUCED, log entry 34. -/
def serveList (away : Nat → Bool) : Nat → Bool → List Waiter → Nat × List Waiter × List Waiter
  | n, _, [] => (n, [], [])
  | n, held, w :: r =>
    if away w.who.ctx then
      let (n', g, k) := serveList away n held r
      (n', g, w :: k)
    else if !held && decide (w.amount ≤ n) then
      let (n', g, k) := serveList away (n - w.amount) false r
      (n', w :: g, k)
    else
      let (n', g, k) := serveList away n true r
      (n', g, w :: k)

/-- A waiter that has taken its credits goes on. -/
def Dev.grant (key : Nat) (s : Dev) (w : Waiter) : Dev :=
  match w.who with
  | .word c t second =>
    s.modTile c t (fun x => { x with prog := x.prog.map (fun p =>
      let p : Prog := { p with held := p.held ++ [(⟨0, key, w.amount⟩ : HRef)] }
      if second then { p with wait2 := .granted } else { p with wait1 := .granted }) })
  | .slot c t seq num => s.modTile c t (fun x => x.modSlot seq num (fun y => { y with waiting := .granted }))
  | .engine _ _ _ => { s with sync := { s.sync with grants := s.sync.grants ++ [w.who] } }

/-- Waiters whose thresholds are met wake (R199). -/
def Dev.serve (s : Dev) (key : Nat) : Dev :=
  let h := s.hitch key
  if h.st != .active || h.barrier || h.waiters.isEmpty then s
  else
    let (n, g, k) := serveList (fun c => (s.ctx c).away) h.count.toNat false h.waiters
    g.foldl (Dev.grant key) (s.setHitch key { h with count := BitVec.ofNat 32 n, waiters := k })

/-- Sleepers are taken off their hitches, and those behind them are served. -/
def Dev.awaken (s : Dev) (p : Sleeper → Bool) : Dev :=
  let hit := s.sync.hitches.filter (fun e => e.2.waiters.any (fun w => p w.who))
  let f (h : Hitch) : Hitch :=
    if h.waiters.isEmpty then h else { h with waiters := h.waiters.filter (fun w => !p w.who) }
  (hit.map Prod.fst).foldl Dev.serve
    { s with sync := { s.sync with hitches := Tab.mapV f s.sync.hitches, grants := s.sync.grants.filter (fun w => !p w) } }

/-- A sleeper is taken off its hitch (R199). -/
def Dev.unsleep (s : Dev) (who : Sleeper) : Dev := s.awaken (fun w => w == who)

/-- The waits of engines of a context end: buckets, or the list's dies, that `p` selects. -/
def Dev.engineOff (s : Dev) (c : Nat) (p : Nat → Bool) : Dev :=
  s.awaken (fun w => match w with
    | .engine k i _ => k == c && p i
    | _ => false)

/-! ## Failure of buckets and lists -/

/-- The bucket's index in P0 of its event, with tag and step (Table 14.8). -/
def bucketP0 (b : Nat) (k : Bucket) : U64 :=
  let tag := match k.desc with | some d => d.tag.toNat | none => 0
  BitVec.ofNat 64 (at' tag 48 + at' b 32 + k.step.toNat)

def Dev.bucket (s : Dev) (c b : Nat) : Bucket := Tab.get {} (s.ctx c).bkts b
def Dev.setBucket (s : Dev) (c b : Nat) (k : Bucket) : Dev :=
  s.modCtx c (fun x => { x with bkts := Tab.set x.bkts b k })

/-- A bucket that is enabled and has not failed. -/
def Bucket.live (k : Bucket) : Bool := !(k.st == .disabled || k.st == .failed)

/-- An update list that is enabled and has not failed. -/
def Upd.live (u : Upd) : Bool := !(u.st == .disabled || u.st == .failed)

/-- A hold has taken effect once the list and every bucket wait for the step after it (R327).
DEDUCED, log entry 81. -/
def Dev.ewCheck (s : Dev) (c : Nat) : Dev :=
  let x := s.ctx c
  let next := x.holdStep + 1
  if x.ewHeld && !x.ewReady
      && x.bkts.all (fun e => !e.2.live || (e.2.st == .waiting && e.2.step == next))
      && (!x.upd.live || (x.upd.st == .waiting && x.upd.step == next)) then
    (s.setCtx c { x with ewReady := true }).event c 0x06 (BitVec.ofNat 64 x.holdStep.toNat) 0
  else s

/-- The bucket enters FAILED: its work in flight is discarded and a BUCKET event is written (R292). -/
def Dev.failBucket (s : Dev) (c b : Nat) (st : Status) : Dev :=
  let k := s.bucket c b
  if !k.live then s
  else
    let s := s.setBucket c b { k with st := .failed, outq := [], inq := [] }
    let s := { s with fab := { s.fab with ops := s.fab.ops.filter (fun o => !(o.owner == OpOwner.bucket c b)) } }
    let s := s.engineOff c (fun i => i == b)
    (s.event c 0x03 (bucketP0 b k) (BitVec.ofNat 64 st.code)).ewCheck c

/-- The base of the update list in the allotment. -/
def Upd.base (u : Upd) : Nat := fld u.listW0.toNat 38 12 * 4096
def Upd.entries (u : Upd) : Nat := fld u.listW0.toNat 63 48 + 1

/-- Bytes of a tile store (Table 1.2). -/
def storeSize : Nat := 0x300000

/-- Bytes whose content the spec calls undefined or does not state (log entry 5). -/
def Dev.spoilAt (s : Dev) (c : Nat) (a : Addr) (n : Nat) : Dev :=
  let k := s.freeCtr
  { s with freeCtr := k + n }.writeBytes c a ((List.range n).map (fun i => (Config.freeValue (k + i)).truncate 8))

/-- The same in the HBM space. -/
def Dev.spoil (s : Dev) (c off n : Nat) : Dev := s.spoilAt c ⟨.hbm, off⟩ n

/-- The engine is between the start and the end of pass 2 of an entry. -/
def UpdDie.inPass2 (d : UpdDie) : Bool :=
  match d.phase with
  | .pass2 _ => true
  | _ => false

/-- An engine has begun pass 2 of an entry that waits for its root job. -/
def Upd.inPass2 (u : Upd) : Bool := u.near.inPass2 || u.off.inPass2

/-- The state of an entry whose pass 2 had begun and not ended is undefined (R314).
DESIGN CHOICE, log entry 88. -/
def Dev.spoilEntry (s : Dev) (c : Nat) (d : UpdDie) : Dev :=
  match d.phase with
  | .pass2 j =>
    let a := (s.ctx c).upd.base + 64 * j
    let e := parseUEnt j a (s.readBytes c ⟨.hbm, a⟩ 64)
    let (v, s) := s.fresh
    let (z, s) := s.fresh
    let b (i : Nat) : Bool := bit z.toNat i
    let e := { e with
      counter := v.truncate 32, skip := (v >>> 32).truncate 32, rstep := z.truncate 32, rvalid := b 40
      rjob := b 41, rsel := b 42, status := z.toNat / 2 ^ 48 % 256 }
    ((s.writeBytes c ⟨.hbm, a⟩ e.words).spoil c e.poff (4 * e.size)).spoil c e.soff e.areaSize
  | _ => s

/-- The update list is disabled and enters FAILED: root jobs are discarded and an UPDLIST event is written
(R314).
DESIGN CHOICE, log entry 88. -/
def Dev.failList (s : Dev) (c : Nat) (st : Status) : Dev :=
  let u := (s.ctx c).upd
  if !u.live then s
  else
    let s := (s.spoilEntry c u.near).spoilEntry c u.off
    let s := s.modCtx c (fun x => { x with upd := { u with
      listW0 := u.listW0 &&& ~~~1, st := .failed, jobs := [], near := {}, off := {}, puts := 0, heldKappa := none
      holdAcks := [] } })
    let s := { s with fab := { s.fab with ops := s.fab.ops.filter (fun o =>
      match o.owner with | .upd c' _ => c' != c | _ => true) } }
    let s := s.engineOff c (fun i => decide (1024 ≤ i))
    (s.event c 0x04 (BitVec.ofNat 64 u.step.toNat) (BitVec.ofNat 64 st.code)).ewCheck c

/-! ## Idleness -/

/-- A tile runs no program and none waits in its start queue. -/
def Tile.quiet (t : Tile) : Bool := t.prog.isNone && t.startq.isEmpty

/-- A context is idle (R343): a QUIESCED one (R392); never a pre-empted one otherwise (R346). A FAILED bucket or list is
no longer enabled (R292, R314; DEDUCED). -/
def Dev.idle (s : Dev) (c : Nat) : Bool :=
  let x := s.ctx c
  x.quiesced || (x.resid != .preempted && (x.faultHold || (x.launches.isEmpty
    && (s.tilesOf c).all (fun t => (s.tile c t).quiet)
    && x.bkts.all (fun e => !e.2.live || e.2.st == .waiting)
    && (!x.upd.live || x.upd.st == .waiting))))

/-! ## Device fault -/

/-- Loaded shadow copies of functions and tables become current (R154). -/
def Tile.commitShadows (x : Tile) : Tile :=
  let fn (f : UserFn) : UserFn :=
    match f.shadow with
    | some g => { cur := some g, shadow := none, ver := f.ver + 1 }
    | none => f
  let tbl (f : UserTbl) : UserTbl :=
    match f.shadow with
    | some es => { cur := es, shadow := none, gen := f.gen + 1 }
    | none => f
  { x with fns := Tab.mapV fn x.fns, tbls := Tab.mapV tbl x.tbls }

/-- Everything in flight on a tile is discarded (R318 step 2); a page whose load is discarded is left
empty with the next generation (R61). No program runs on the tile any more, so its shadow copies commit (R154). -/
def Tile.discardWork (t : Tile) : Tile :=
  ({ t with
    words := [], startq := [], prog := none
    pages := Tab.mapV (fun p =>
      if p.st == .loading || p.st == .closing then { st := .empty, chain := false, gen := p.gen + 1 }
      else p) t.pages } : Tile).commitShadows

/-- Work of every tile of a context, resident or saved. -/
def Dev.discardTiles (s : Dev) (c : Nat) : Dev :=
  (s.tilesOf c).foldl (fun s t => if (s.tile? c t).isSome then s.modTile c t Tile.discardWork else s) s

/-- Sleeping waiters of the contexts that `p` selects are removed; the hitches keep their state (R211). -/
def Dev.dropWaiters (s : Dev) (p : Nat → Bool) : Dev := s.awaken (fun w => p w.ctx)

def insertByPos (base : U32) (l : Launch) : List Launch → List Launch
  | [] => [l]
  | x :: r => if (l.pos - base).toNat < (x.pos - base).toNat then l :: x :: r else x :: insertByPos base l r

/-- Outstanding launch records in ring order. -/
def Ctx.ringOrder (x : Ctx) : List Launch :=
  let base : U32 := BitVec.ofNat 32 x.retired
  x.launches.foldl (fun acc l => insertByPos base l acc) []

/-- The reading of this launch record has no completion record yet: it has not ended, or its record waits to be
written (R57). -/
def Ctx.unreported (x : Ctx) (l : Launch) : Bool :=
  l.phase != .ready || x.cpls.any (fun q => q.pos == l.pos && q.retiredAt.isNone)

/-- Every outstanding launch record of a context completes with FAULT_DISCARDED, in ring order, and
stays unretired; each reading has one completion record (R57, R318). -/
def Dev.discardLaunches (s : Dev) (c : Nat) : Dev :=
  if (s.ctx c).launches.isEmpty then s
  else
    let (r, s) := s.retiredPos c
    s.modCtx c (fun x =>
      { x with
        launches := []
        cpls := x.cpls.filter (fun q => q.retiredAt.isSome) ++ (x.ringOrder.filter x.unreported).map (fun l =>
          (⟨l.pos, l.record.ltag, l.record.step, .faultDiscarded, 0, none, none, some r⟩ : Cpl)) })

/-- What a device fault does to one context (R318 steps 2 to 6, R328).
DEDUCED, log entry 32. -/
def Dev.faultCtx (st : Status) (cause : Nat) (s : Dev) (c : Nat) : Dev :=
  let s := (s.discardTiles c).modCtx c (fun x => { x with ewHeld := false })
  let s := (s.ctx c).bkts.foldl (fun s e => s.failBucket c e.1 st) s
  let s := s.failList c st
  let s := s.discardLaunches c
  let (r, s) := if (s.ring c 2).en then s.retiredPos c else (0, s)
  let s := s.event c 0x01 (BitVec.ofNat 64 (at' cause 8 + st.code)) r
  s.modCtx c (fun x => { x with faultHold := true, holdStep := 0, ewHeld := false, ewReady := false })

def Side.raise (a : Side) (bits : Byte) : Side := { a with alert := a.alert ||| bits }

/-- A device fault (R318): all in-flight work of every context is discarded and every context held.
DEDUCED, log entry 32. -/
def Dev.deviceFault (s : Dev) (cause : Nat) : Dev :=
  let st : Status := if cause = 0x3F then .internal else .faultDiscarded
  let s := { s with
    farr := { s.farr with faults := satAdd s.farr.faults 1, cause := BitVec.ofNat 8 cause, repair := true }
    side := s.side.raise 1 }
  let s := s.dropWaiters (fun _ => true)
  let s := { s with fab := { s.fab with ops := [] } }
  let s := if s.sfu.state = 1 then { s with sfu := { s.sfu with state := 3, status := Status.faultDiscarded.byte } } else s
  allCtx.foldl (Dev.faultCtx st cause) s

end Sys2Proof.Machine
end

