-- ==== Sys2Proof/Machine/Timebase.lean ====
section
/-! DEFINITION. The timebase: its tick (R418), timestamps (R357), the choice of a time source (R260) and the
changes of the servo's state that follow from it (Table 14.10). -/
namespace Sys2Proof.Machine
open Sys2Proof

/-- The timebase value in units of 2⁻¹⁶ / 10⁹ ns. -/
def TimeBlk.total (t : TimeBlk) : Int :=
  ((t.ns.toNat * 2 ^ 16 + t.frac.toNat) * 10 ^ 9 : Nat) + t.acc

/-- The value held for a total: integer nanoseconds, fraction truncated, remainder kept. -/
def TimeBlk.setTotal (t : TimeBlk) (v : Int) : TimeBlk :=
  let q := v / 1000000000
  { t with ns := BitVec.ofInt 64 (q / 65536), frac := BitVec.ofInt 16 (q % 65536), acc := v % 1000000000 }

/-- One 500 MHz tick: 2 ns plus the adjustment of FREQ, which is in units of 2⁻⁸ ppb (R418, Table 14.20). -/
def TimeBlk.tick (t : TimeBlk) : TimeBlk :=
  t.setTotal (t.total + 2 * 65536 * 1000000000 + 512 * t.freq.toInt)

/-- The idle step of the device (log entry 1). -/
def Dev.tick (s : Dev) : Dev := { s with time := s.time.tick }

/-! ## Timestamps, in units of 2⁻¹⁶ ns -/

def stampVal (t : Stamp) : Int := (t.ns.toNat * 65536 + t.frac.toNat : Nat)
def stampOf (v : Int) : Stamp := ⟨BitVec.ofInt 64 (v / 65536), BitVec.ofInt 16 (v % 65536)⟩
def TimeBlk.now (t : TimeBlk) : Stamp := ⟨t.ns, t.frac⟩
def Dev.now (s : Dev) : Stamp := s.time.now

/-- Picoseconds in units of 2⁻¹⁶ ns. -/
def psUnits (x : Int) : Int := x * 65536 / 1000

/-- Timestamps of PTP event messages, with the corrections of TIME_LAT added (R357, R418).
DEDUCED, log entry 94. -/
def TimeBlk.rxStamp (t : TimeBlk) : Stamp := stampOf (stampVal t.now + psUnits t.ingress.toNat)
/-- DEDUCED, log entry 94. -/
def TimeBlk.txStamp (t : TimeBlk) : Stamp := stampOf (stampVal t.now + psUnits t.egress.toNat)

/-! ## Choosing a source (R260) -/

/-- The 1PPS input serves as the source (R361). -/
def TimeBlk.ppsServes (t : TimeBlk) : Bool := t.ppsMode == 2 && t.pps == 1 && t.labelled

/-- A candidate: QUAL, HOPS, SRCCOORD, number (8 for the bridle port or the 1PPS input), offset, and whether it is the 1PPS
input. -/
structure Source where
  qual : Nat
  hops : Nat
  src : Nat
  num : Nat
  offset : Int
  pps : Bool
  deriving DecidableEq, Repr

/-- The order of R260. The device's own port has no gang number; it is placed before the gangs.
DEDUCED, log entry 95. -/
def Source.before (a b : Source) : Bool :=
  let n (x : Source) : Nat := if x.num = 8 then 0 else x.num + 1
  decide (a.qual < b.qual) || (a.qual == b.qual && (decide (a.hops < b.hops) || (a.hops == b.hops &&
    (decide (a.src < b.src) || (a.src == b.src && decide (n a < n b))))))

/-- The candidates: the 1PPS input, before the bridle port for phase, else the port in SLAVE; and each gang's.
DEDUCED, log entry 95. -/
def Dev.sources (s : Dev) : List Source :=
  let t := s.time
  let own := s.fab.coord.toNat
  (if t.ppsServes then [⟨0, 0, own, 8, t.ppsOff, true⟩]
    else if t.port = PortState.slave then [⟨0, 0, own, 8, t.bridleOff, false⟩] else [])
    ++ (List.range 8).filterMap (fun g =>
      let k := (Tab.get {} s.fab.gangs g : Gang).cand
      if k.valid then some ⟨k.qual, k.hops, k.src.toNat, g, k.offset, false⟩ else none)

def Dev.bestSource (s : Dev) : Option Source :=
  s.sources.foldl (fun b x =>
    match b with
    | none => some x
    | some y => if x.before y then some x else b) none

/-! ## Servo states (Table 14.10) -/

/-- QUAL that a servo state advertises. -/
def TimeBlk.qual (t : TimeBlk) (source : Nat) : BitVec 2 :=
  match t.servo with
  | .freerun => 3
  | .acquire => if t.everLocked then 2 else 3
  | .locked => if source = 8 then 0 else 1
  | .holdover => 2

def Servo.code : Servo → Nat
  | .freerun => 0 | .acquire => 1 | .locked => 2 | .holdover => 3

/-- A number of ppb as FREQ, in units of 2⁻⁸ ppb. The spec does not state how it is rounded: `up` picks one
of the two neighbours of a value that is not on the grid (log entry 24). -/
def freqOf (ppb : Rat) (up : Bool) : U32 :=
  let x := ppb * 256
  BitVec.ofInt 32 (if up && x.den != 1 then x.floor + 1 else x.floor)

/-- ±100 ppm, in ppb. -/
def freqClamp (ppb : Rat) : Rat := if ppb < -100000 then -100000 else if 100000 < ppb then 100000 else ppb

/-- The mean of I over the lock history. -/
def lockMean (h : List (Nat × Rat)) : Rat :=
  (h.map (fun e => (e.1 : Rat) * e.2)).sum / ((h.map Prod.fst).sum : Nat)

/-- The servo enters ACQUIRE.
DESIGN CHOICE, log entry 24. -/
def TimeBlk.acquire (t : TimeBlk) : TimeBlk :=
  { t with servo := .acquire, stepped := false, inRun := 0, outRun := 0 }

/-- The source is lost: FREQ is held at the mean of I over the last 1,000 s of lock; with no lock since reset
the spec gives no mean, and FREQ is a free value. -/
def Dev.holdover (s : Dev) : Dev :=
  let (v, s) := s.fresh
  let t := s.time
  let f : U32 := if t.lockHist.isEmpty then v.truncate 32 else freqOf (freqClamp (lockMean t.lockHist)) (v.getLsbD 0)
  { s with time := { t with servo := .holdover, freq := f, inRun := 0, outRun := 0 } }

/-- The servo's reaction to the chosen source: selected, lost, or changed. -/
def Dev.follow (s : Dev) (b : Option Source) : Dev :=
  let t := s.time
  let old := s.fab.timeSource.toNat
  match b with
  | none => if t.servo = Servo.freerun || t.servo = Servo.holdover then s else s.holdover
  | some x =>
    if x.num = old && x.pps == t.fromPps then s
    else if t.servo = Servo.locked && x.qual ≤ 1 then s
    else { s with time := t.acquire }

/-- What the device advertises of its time (R260), and the TIME event and alert of a change. -/
def Dev.advertise (s : Dev) (before : Servo) (b : Option Source) : Dev :=
  let num := match b with | some x => x.num | none => 15
  let pps := match b with | some x => x.pps | none => false
  let changed := s.time.servo != before || s.fab.timeSource.toNat != num || s.time.fromPps != pps
  let s := { s with time := { s.time with fromPps := pps } }
  let q := s.time.qual num
  let old := s.fab
  let s := { s with fab := { old with
    timeSource := BitVec.ofNat 4 num
    timeQual := q
    timeHops := (match b with | some x => BitVec.ofNat 8 x.hops | none => 0xFF)
    timeCoord := (match b with | some x => BitVec.ofNat 24 x.src | none => 0) } }
  let s := if old.timeQual.toNat < q.toNat then { s with side := s.side.raise 2 } else s
  if !changed then s
  else
    let off := match b with | some x => x.offset / 65536 | none => s.time.offset.toInt
    s.eventAll 0x08 (BitVec.ofNat 64 (s.time.servo.code + at' q.toNat 4 + at' num 8)) (BitVec.ofInt 64 off)

/-- The source is chosen again. -/
def Dev.reselect (s : Dev) : Dev :=
  let b := s.bestSource
  (s.follow b).advertise s.time.servo b

end Sys2Proof.Machine
end

