-- ==== Sys2Proof/Machine/Library.lean ====
section
/-! DEFINITION. The exact values of the library functions (R150) and of ROPE's cosine and sine (R166), to 2⁻⁵⁰⁰ or
better, and the results that the spec's error bounds admit. A fixed-point number here is an integer in units of
2⁻⁵¹², so that every FP32 value is exact. The result itself is the one that Config names where it lies within
the bound, and the correctly rounded one otherwise (log entry 6). -/
namespace Sys2Proof.Machine
open Sys2Proof

def fxOne : Int := 2 ^ 512
def fxMul (a b : Int) : Int := a * b / fxOne
def fxDiv (a b : Int) : Int := a * fxOne / b
def fxSqrt (a : Int) : Int := isqrt (a * fxOne).toNat

/-- A dyadic in fixed point; exact from 2⁻⁵¹² up. -/
def fxOf (d : Dy) : Int :=
  if 0 ≤ d.e + 512 then d.m * (2 ^ (d.e + 512).toNat : Nat) else d.m / (2 ^ (-(d.e + 512)).toNat : Nat)

/-! ## Series -/

/-- rⁿ / n! from term n on: `t` is the term before, `acc` the sum so far. -/
def expTerms (r : Int) : Nat → Nat → Int → Int → Int
  | 0, _, _, acc => acc
  | k + 1, n, t, acc => let t' := t * r / (fxOne * n); expTerms r k (n + 1) t' (acc + t')

/-- e^r for |r| below 1. -/
def expSmall (r : Int) : Int := expTerms r 110 1 fxOne fxOne

/-- p / n + p s² / (n + 2) + …, with alternating signs when `alt`. -/
def oddTerms (s2 : Int) (alt : Bool) : Nat → Nat → Int → Int → Int
  | 0, _, _, acc => acc
  | k + 1, n, p, acc => oddTerms s2 alt k (n + 2) (if alt then -(fxMul p s2) else fxMul p s2) (acc + p / n)

def fxAtanh (s : Int) : Int := oddTerms (fxMul s s) false 175 1 s 0
def fxAtan (s : Int) : Int := oddTerms (fxMul s s) true 130 1 s 0

def fxLn2 : Int := 2 * fxAtanh (fxOne / 3)
def fxPi : Int := 4 * (4 * fxAtan (fxOne / 5) - fxAtan (fxOne / 239))

/-- Terms of sine or cosine: `t` over n (n + 1), with sign. -/
def trigTerms (r2 : Int) : Nat → Nat → Int → Int → Int
  | 0, _, _, acc => acc
  | k + 1, n, t, acc => let t' := -(fxMul t r2) / (n * (n + 1)); trigTerms r2 k (n + 2) t' (acc + t')

/-- Sum of (−q)ⁿ / (n! (2n + 1)). -/
def erfTerms (q : Int) : Nat → Nat → Int → Int → Int
  | 0, _, _, acc => acc
  | k + 1, n, t, acc => let t' := -(fxMul t q) / (n + 1); erfTerms q k (n + 1) t' (acc + t' / (2 * n + 3))

def erfSeries (q : Int) : Int := erfTerms q 700 0 fxOne fxOne

/-! ## Functions -/

/-- e^x; beyond ±200, where every function of it is decided, a very large or a very small number stands for it. -/
def fxExp (x : Int) : Int :=
  if 200 * fxOne < x then 2 ^ 812
  else if x < -(200 * fxOne) then 1
  else
    let k := (x + fxLn2 / 2) / fxLn2
    let y := expSmall (x - k * fxLn2)
    if 0 ≤ k then y * (2 ^ k.toNat : Nat) else y / (2 ^ (-k).toNat : Nat)

/-- 2^x. -/
def fxExp2 (x : Int) : Int :=
  if 300 * fxOne < x then 2 ^ 812
  else if x < -(300 * fxOne) then 1
  else
    let k := x / fxOne
    let y := expSmall (fxMul (x - k * fxOne) fxLn2)
    if 0 ≤ k then y * (2 ^ k.toNat : Nat) else y / (2 ^ (-k).toNat : Nat)

/-- Exponent of a positive number, and its significand in [1, 2). -/
def fxSplit (u : Int) : Int × Int :=
  let k : Int := (Nat.log2 u.toNat : Int) - 512
  (k, if 0 ≤ k then u / (2 ^ k.toNat : Nat) else u * (2 ^ (-k).toNat : Nat))

def fxLnSig (m : Int) : Int := 2 * fxAtanh (fxDiv (m - fxOne) (m + fxOne))

def fxLn (u : Int) : Int := let (k, m) := fxSplit u; k * fxLn2 + fxLnSig m
def fxLog2 (u : Int) : Int := let (k, m) := fxSplit u; k * fxOne + fxDiv (fxLnSig m) fxLn2

/-- Sine and cosine. -/
def fxSinCos (x : Int) : Int × Int :=
  let k := (2 * x + fxPi / 2) / fxPi
  let r := (2 * x - k * fxPi) / 2
  let r2 := fxMul r r
  let s := trigTerms r2 70 2 r r
  let c := trigTerms r2 70 1 fxOne fxOne
  match (k % 4).toNat with
  | 0 => (s, c)
  | 1 => (c, -s)
  | 2 => (-s, -c)
  | _ => (-c, s)

def fxSigmoid (x : Int) : Int := fxDiv fxOne (fxOne + fxExp (-x))

def fxTanh (x : Int) : Int :=
  if 100 * fxOne < x then fxOne - 1
  else if x < -(100 * fxOne) then 1 - fxOne
  else let e := fxExp (2 * x); fxDiv (e - fxOne) (e + fxOne)

def fxErf (x : Int) : Int :=
  if 12 * fxOne < x then fxOne - 1
  else if x < -(12 * fxOne) then 1 - fxOne
  else fxDiv (2 * fxMul x (erfSeries (fxMul x x))) (fxSqrt fxPi)

/-- Φ(x), the normal distribution. -/
def fxPhi (x : Int) : Int :=
  if 17 * fxOne < x then fxOne - 1
  else if x < -(17 * fxOne) then 2 ^ 212
  else fxOne / 2 + fxDiv (fxMul x (erfSeries (fxMul x x / 2))) (fxSqrt (2 * fxPi))

/-- The tanh approximation of GELU: x σ(2 √(2/π) (x + 0.044715 x³)). -/
def fxGeluTanh (x : Int) : Int :=
  let z := x + fxMul (fxMul x x) x * 44715 / 1000000
  fxMul x (fxSigmoid (2 * fxMul (fxSqrt (2 * fxDiv fxOne fxPi)) z))

def fxSoftplus (x : Int) : Int :=
  if 200 * fxOne < x then x + 1 else if x < -(200 * fxOne) then 1 else fxLn (fxOne + fxExp x)

/-- The exact value of a library function of Table 6.5 at a finite input that no class action takes; `none` where
the function has no value. -/
def libExact (fnum : Nat) (x : Int) : Option Int :=
  match fnum with
  | 0x00 => some (fxExp x)
  | 0x01 => some (fxExp2 x)
  | 0x02 => some (fxLn x)
  | 0x03 => some (fxLog2 x)
  | 0x04 => some (fxDiv fxOne (fxSqrt x))
  | 0x05 => some (fxSqrt x)
  | 0x07 => some (fxTanh x)
  | 0x08 => some (fxSigmoid x)
  | 0x09 => some (fxMul x (fxSigmoid x))
  | 0x0A => some (fxGeluTanh x)
  | 0x0B => some (fxMul x (fxPhi x))
  | 0x0C => some (fxErf x)
  | 0x0D => some (fxSinCos x).1
  | 0x0E => some (fxSinCos x).2
  | 0x0F => some (fxSoftplus x)
  | 0x10 => some (fxExp x - fxOne)
  | 0x11 => if -fxOne < x then some (fxLn (fxOne + x)) else none
  | _ => none

/-! ## Error bounds -/

/-- Bound of Table 6.5 in units in the last place. -/
def libUlps (fnum : Nat) : Nat :=
  match fnum with
  | 0x00 | 0x01 | 0x02 | 0x03 | 0x04 | 0x05 => 1
  | 0x09 => 3
  | 0x0A | 0x0B => 4
  | _ => 2

/-- An FP32 value, an infinity standing for 2^128, and the spacing of values there, in fixed point. -/
def fxPlace (v : F32) : Int × Int :=
  if isInf v then (if F32.sign v then -(2 ^ 640) else 2 ^ 640, 2 ^ 616)
  else (fxOf (F32.dy v), (2 ^ (max (F32.expF v) 1 + 362) : Nat))

/-- The value lies within `n` units in the last place, and `slack` more, of the exact number. -/
def ulpsNear (n : Nat) (slack : Int) (v : F32) (y : Int) : Bool :=
  !isNaN v && decide (((fxPlace v).1 - y).natAbs ≤ n * (fxPlace v).2 + slack)

/-- The bound of a library function; sine and cosine beyond 2¹⁷ have an absolute one. -/
def libNear (fnum : Nat) (x : Int) (v : F32) (y : Int) : Bool :=
  if (fnum == 0x0D || fnum == 0x0E) && decide (2 ^ 17 * fxOne < (x.natAbs : Int)) then
    isFinite v && decide (((fxPlace v).1 - y).natAbs ≤ 2 ^ 490)
  else ulpsNear (libUlps fnum) 0 v y

/-- The correctly rounded value of a fixed-point number. -/
def fxRound (y : Int) : F32 := (roundF32s (decide (y < 0)) y.natAbs (-512) true).1

end Sys2Proof.Machine
end

