-- ==== Sys2Proof/Machine/Convert.lean ====
section
/-! DEFINITION. Element formats, block scales, quantisation, dequantisation and conversion
(R70 to R76, R81, R82, R88). -/
namespace Sys2Proof.Machine
open Sys2Proof

/-! ## Format codes (Table 3.1) -/

/-- A valid format code (R70). -/
def fmtOk (fmt : Nat) : Bool := 1 ≤ fmt && fmt ≤ 0xD
/-- Formats of matrix operands (Table 3.1). -/
def matrixFmt (fmt : Nat) : Bool := 1 ≤ fmt && fmt ≤ 8
def isBlock (fmt : Nat) : Bool := (1 ≤ fmt && fmt ≤ 6) || fmt == 0xC || fmt == 0xD
def isTwoLevel (fmt : Nat) : Bool := fmt == 0xC || fmt == 0xD
def isIntFmt (fmt : Nat) : Bool := fmt == 0xA || fmt == 0xB

/-- Element bits of Table 3.1. -/
def fmtBits (fmt : Nat) : Nat :=
  match fmt with
  | 0x1 | 0xC => 4
  | 0x2 | 0x3 => 6
  | 0x4 | 0x5 | 0x6 | 0xA | 0xD => 8
  | 0x7 | 0x8 => 16
  | _ => 32

/-- Bytes of a scale entry (R72). -/
def scaleBytes (fmt : Nat) : Nat := if isTwoLevel fmt then 2 else 1

/-- The binary encoding behind a floating-point code. -/
def fpOf (fmt : Nat) : FpFmt :=
  match fmt with
  | 0x1 | 0xC => e2m1
  | 0x2 => e2m3
  | 0x3 => e3m2
  | 0x4 | 0xD => e4m3
  | 0x5 => e5m2
  | 0x7 => bf16
  | 0x8 => fp16
  | _ => fp32

/-- Exponent of the largest normal value (R74). -/
def emaxOf (fmt : Nat) : Int :=
  match fmt with
  | 0x1 | 0x2 | 0xC => 2
  | 0x3 => 4
  | 0x4 | 0xD => 8
  | 0x5 => 15
  | _ => 0

/-- Magnitude bits of the largest finite element (Table 3.1). -/
def maxCode (fmt : Nat) : Nat :=
  match fmt with
  | 0x1 | 0xC => 0x7
  | 0x2 | 0x3 => 0x1F
  | 0x4 | 0xD => 0x7E
  | 0x5 => 0x7B
  | _ => 0x7F

/-- Largest finite value of a block format's element. -/
def maxFin (fmt : Nat) : Dy :=
  match fmt with
  | 0x1 | 0xC => ⟨6, 0⟩
  | 0x2 => ⟨15, -1⟩
  | 0x3 => ⟨28, 0⟩
  | 0x4 | 0xD => ⟨448, 0⟩
  | 0x5 => ⟨57344, 0⟩
  | _ => ⟨127, -6⟩

/-! ## Decoding one element -/

/-- Value of the finite code of a binary format. -/
def FpFmt.decode (f : FpFmt) (neg : Bool) (mag : Nat) : Num :=
  let e := mag / 2 ^ f.frac
  let m := mag % 2 ^ f.frac
  if e = 0 then .fin neg m (f.emin - (f.frac : Int))
  else .fin neg (2 ^ f.frac + m) ((e : Int) - (f.bias : Int) - (f.frac : Int))

/-- A NaN widened to FP32 and quietened (R82). -/
def widenNaN (f : FpFmt) (neg : Bool) (frac : Nat) : Num × Flags :=
  let fr := frac * 2 ^ (23 - f.frac)
  (.nan (quiet (withSign neg (0x7F800000 + fr))), if bit frac (f.frac - 1) then 0 else fInvalid)

/-- The value of one element code, before any block scale (R71, R81, R82). An FP32 code keeps its NaN
bits as they stand. -/
def decodeElem (fmt code : Nat) : Num × Flags :=
  if fmt = 0xA then let i := sext 8 code; (.fin (decide (i < 0)) i.natAbs 0, 0)
  else if fmt = 0xB then let i := sext 32 code; (.fin (decide (i < 0)) i.natAbs 0, 0)
  else if fmt = 0x6 then let i := sext 8 code; (.fin (decide (i < 0)) i.natAbs (-6), 0)
  else if fmt = 0x9 then (F32.num (BitVec.ofNat 32 code), 0)
  else
    let f := fpOf fmt
    let w := f.frac + f.ebits
    let neg := bit code w
    let mag := code % 2 ^ w
    let top := 2 ^ f.ebits - 1
    if fmt = 0x4 ∨ fmt = 0xD then
      (if mag = 0x7F then (.nan (withSign neg 0x7FC00000), 0) else (f.decode neg mag, 0))
    else if (fmt = 0x5 ∨ fmt = 0x7 ∨ fmt = 0x8) ∧ mag / 2 ^ f.frac = top then
      (if mag % 2 ^ f.frac = 0 then (.inf neg, 0) else widenNaN f neg (mag % 2 ^ f.frac))
    else (f.decode neg mag, 0)

/-- Exponent that a scale entry gives element `j` of its block; `none` for 0xFF (R72, R73). -/
def scaleExp (fmt entry j : Nat) : Option Int :=
  let e := entry % 256
  if e = 255 then none
  else
    let sub := if isTwoLevel fmt then (if j % 32 < 16 then fld entry 9 8 else fld entry 11 10) else 0
    some ((e : Int) - 127 - (sub : Int))

def Num.scale (x : Num) (k : Int) : Num :=
  match x with
  | .fin s m e => .fin s m (e + k)
  | y => y

/-- The exact value of element `j` of a block under its scale entry, with no limit of range. -/
def exactElem (fmt code entry j : Nat) : Num × Flags :=
  if isBlock fmt then
    match scaleExp fmt entry j with
    | none => (.nan qNaN, 0)
    | some k => let (x, f) := decodeElem fmt code; (x.scale k, f)
  else decodeElem fmt code

/-- A magnitude above the FP32 range becomes an infinity (R76). -/
def limitF32 (x : Num) : Num × Flags :=
  match x with
  | .fin s m e =>
    if m ≠ 0 ∧ (Nat.log2 m : Int) + e > 127 then (.inf s, fOverflow ||| fInexact) else (x, 0)
  | y => (y, 0)

/-- The value a conversion starts from: dequantised to FP32, or the exact integer (R76, R88). -/
def readElem (fmt code entry j : Nat) : Num × Flags :=
  let (x, f) := exactElem fmt code entry j
  if isBlock fmt then let (y, g) := limitF32 x; (y, f ||| g) else (x, f)

/-! ## Values and FP32 -/

def Num.toDy (x : Num) : Dy :=
  match x with
  | .fin s m e => ⟨if s then -(m : Int) else m, e⟩
  | _ => Dy.zero

def Num.isZero (x : Num) : Bool :=
  match x with
  | .fin _ m _ => m == 0
  | _ => false

def Num.isFin (x : Num) : Bool :=
  match x with
  | .fin _ _ _ => true
  | _ => false

/-- FP32 bits of a value, rounded once to nearest even; NaN bits are kept. -/
def Num.toF32 (x : Num) : F32 × Flags :=
  match x with
  | .fin s m e => roundF32s s m e false
  | .inf s => (infF s, 0)
  | .nan b => (b, 0)

/-! ## Encoding one element -/

/-- Bits of a NaN narrowed to BF16 or FP16, or kept quiet in FP32 (R82).
DEDUCED, log entry 45. -/
def narrowNaN (fmt : Nat) (b : F32) : Nat × Flags :=
  let q := (quiet b).toNat
  let fl := if isSNaN b then fInvalid else 0
  (match fmt with
   | 0x7 => q / 2 ^ 16
   | 0x8 => (if bit q 31 then 0x8000 else 0) + 0x7C00 + fld q 22 13
   | _ => q, fl)

/-- A signed magnitude placed in a signed integer format: rounded, then saturated (R81). -/
def toIntFmt (w : Nat) (s : Bool) (m : Nat) (e : Int) (rnd : Rnd) : Nat × Flags :=
  let (q, inex) := roundTo m e false 0 rnd
  let i : Int := if s then -(q : Int) else q
  let hi : Int := (2 ^ (w - 1) : Nat) - 1
  if i > hi then (toBits w hi, fIntSat)
  else if i < -hi - 1 then (toBits w (-hi - 1), fIntSat)
  else (toBits w i, if inex then fInexact else 0)

/-- A value converted to a non-block format under Table 3.4. -/
def encodeElem (fmt : Nat) (x : Num) (rnd : Rnd) : Nat × Flags :=
  if isIntFmt fmt then
    let w := fmtBits fmt
    match x with
    | .fin s m e => toIntFmt w s m e rnd
    | .inf s => (if s then 2 ^ (w - 1) else 2 ^ (w - 1) - 1, fIntSat)
    | .nan _ => (0, fInvalid)
  else
    let f := fpOf fmt
    let sgn (s : Bool) : Nat := if s then 2 ^ (f.frac + f.ebits) else 0
    match x with
    | .nan b => narrowNaN fmt b
    | .inf s => (sgn s + (2 ^ f.ebits - 1) * 2 ^ f.frac, 0)
    | .fin s m e =>
      if m = 0 then (sgn s, 0)
      else let (b, fl) := f.roundIEEE m e false rnd; (sgn s + b, fl)

/-- A scaled value rounded to a block format's element: clamped, never infinite (Table 3.4). -/
def encodeMx (fmt : Nat) (s : Bool) (m : Nat) (e : Int) (rnd : Rnd) : Nat × Flags :=
  if fmt = 0x6 then
    if m = 0 then (0, 0)
    else
      let (q, inex) := roundTo m e false (-6) rnd
      let tiny := decide ((Nat.log2 m : Int) + e < -6)
      if q > 127 then (toBits 8 (if s then -127 else 127), fInexact)
      else (toBits 8 (if s then -(q : Int) else q),
            if inex then (if tiny then fUnderflow ||| fInexact else fInexact) else 0)
  else
    let f := fpOf fmt
    let sgn : Nat := if s then 2 ^ (f.frac + f.ebits) else 0
    if m = 0 then (sgn, 0)
    else
      let x := (Nat.log2 m : Int) + e
      let qe := f.ulpExp x
      let (q, inex) := roundTo m e false qe rnd
      let isOver := (maxFin fmt).lt ⟨q, qe⟩
      if isOver then (sgn + maxCode fmt, fInexact)
      else (sgn + f.encode q qe,
            if inex then (if x < f.emin then fUnderflow ||| fInexact else fInexact) else 0)

/-! ## Block scales (R74, R75) -/

def maxDy (xs : List Dy) : Dy := xs.foldl (fun a x => if a.lt x then x else a) Dy.zero

/-- Shared exponent and sub-scales of a block of finite values (R74). -/
def selectScale (xs : List Dy) (fmt : Nat) (scl : Bool) : Int × Nat × Nat :=
  let mags := xs.map Dy.abs
  let amax := maxDy mags
  if amax.m = 0 then (0, 0, 0)
  else
    let eb := amax.log2
    let x0 := eb - emaxOf fmt
    let x1 := if scl && ((maxFin fmt).scale x0).lt amax then x0 + 1 else x0
    let x := max (-127) (min 127 x1)
    let half (h : List Dy) : Nat :=
      let ah := maxDy h
      if ah.m = 0 then 0
      else
        let sub := min 3 (min (eb - ah.log2) (x + 127))
        let sub := if scl && decide (0 < sub) && ((maxFin fmt).scale (x - sub)).lt ah then sub - 1 else sub
        sub.toNat
    if isTwoLevel fmt then (x, half (mags.take 16), half (mags.drop 16)) else (x, 0, 0)

/-- One block quantised: its scale entry, its element codes and the flags (R74, R75, R81). `rnd j` is the
rounding rule of element `j`. -/
def quantBlock (fmt : Nat) (scl : Bool) (xs : List Num) (rnd : Nat → Rnd) : Nat × List Nat × Flags :=
  if !xs.all Num.isFin then (0xFF, xs.map (fun _ => 0), fInvalid)
  else
    let (x, s0, s1) := selectScale (xs.map Num.toDy) fmt scl
    let enc (j : Nat) (v : Num) : Nat × Flags :=
      match v with
      | .fin s m e =>
        let sub : Int := if j < 16 then s0 else s1
        encodeMx fmt s m (e - (x - sub)) (rnd j)
      | _ => (0, 0)
    let rs := (List.range xs.length).zip xs |>.map (fun p => enc p.1 p.2)
    ((x + 127).toNat + at' s0 8 + at' s1 10, rs.map Prod.fst, rs.foldl (fun f r => f ||| r.2) 0)

/-- Elements of one block packed under R71: `n` codes of `bits` bits each. -/
def packCodes (bits : Nat) (codes : List Nat) : List Byte :=
  leBytes (codes.length * bits / 8) (codes.foldr (fun c acc => c + acc * 2 ^ bits) 0)

end Sys2Proof.Machine
end

