-- ==== Sys2Proof/Machine/Operands.lean ====
section
/-! DEFINITION. The operand forms: device addresses (R15, R413), tensor descriptors with their checks
(R171 to R179), the elements of a tensor in canonical order (R71, R172, R173, R180), and the fields of
words, slots, chain records and launch records (R31 to R44, R54). -/
namespace Sys2Proof.Machine
open Sys2Proof

/-! ## Device addresses -/

/-- Width of the offset field of a space (R413). -/
def Space.offBits : Space → Nat
  | .hbm => 39 | .tile _ => 22 | .staging _ => 25 | .host => 52 | .remote _ _ => 33

/-- A 64-bit device address: `none` for a bad space code or a nonzero zero field (R15). -/
def parseAddr (w : Nat) : Option Addr :=
  match fld w 63 61 with
  | 0 => if fld w 60 39 = 0 then some ⟨.hbm, fld w 38 0⟩ else none
  | 1 => if fld w 60 29 = 0 then some ⟨.tile (fld w 28 22), fld w 21 0⟩ else none
  | 2 => if fld w 60 26 = 0 then some ⟨.staging (fld w 25 25), fld w 24 0⟩ else none
  | 3 => if fld w 60 52 = 0 then some ⟨.host, fld w 51 0⟩ else none
  | 4 => some ⟨.remote (BitVec.ofNat 24 (fld w 60 37)) (fld w 36 33), fld w 32 0⟩
  | _ => none

/-- Component `i` of a logical coordinate, dimension 0 in its low 6 bits (Table 1.1). -/
def coordDim (x : BitVec 24) (i : Nat) : Nat := x.toNat / 2 ^ (6 * i) % 64

/-- Extent of the team in dimension `i`: the field of the assignment holds extent - 1 (R245). -/
def Fab.extent (f : Fab) (i : Nat) : Nat := coordDim f.ext1 i + 1

/-- A coordinate inside the team's extents. -/
def Fab.inTeam (f : Fab) (x : BitVec 24) : Bool :=
  (List.range 4).all (fun i => decide (coordDim x i < f.extent i))

/-- An offset register added to an address (R413): the sum, and whether it fits the offset field. -/
def Addr.plus (a : Addr) (r : Nat) : Addr × Bool :=
  ({ a with off := a.off + r }, decide (a.off + r < 2 ^ a.space.offBits))

/-- Bytes [lo, hi] of a space lie inside its limit for the context (R15, R176, R227, R345). -/
def Dev.inSpace (s : Dev) (c : Nat) (sp : Space) (lo hi : Int) (write : Bool) : Bool :=
  let x := s.ctx c
  if lo < 0 then false
  else
    let l := lo.toNat
    let h := hi.toNat
    match sp with
    | .hbm => decide (h < x.usable)
    | .tile t => decide (t < x.ntile.toNat) && decide (h < 0x300000)
    | .staging d => decide (h < 2 ^ 25) && x.stgHolds d l (h + 1 - l)
    | .host => decide (h < 2 ^ 52) && x.hostHolds l (h + 1 - l) write
    | .remote _ _ => false

/-! ## Tensor descriptors -/

def listGet (xs : List Nat) (i : Nat) : Nat := xs.getD i 0
def intGet (xs : List Int) (i : Nat) : Int := xs.getD i 0

/-- The eight words of an entry. -/
def descWords (bs : List Byte) : List Nat := (List.range 8).map (fun i => leAt bs (8 * i) 8)

/-- The descriptor that eight words spell, with its address already decoded (Table 7.1). -/
def parseDesc (w : List Nat) (base : Addr) : Desc :=
  let w1 := listGet w 1
  let r := fld w1 27 25 + 1
  let f (i hi lo : Nat) := fld (listGet w i) hi lo
  let ext := [f 2 21 0 + 1, f 3 47 32 + 1, f 3 63 48 + 1, f 5 15 0 + 1, f 5 31 16 + 1].take r
  let st (x : Nat) : Int := 64 * sext 32 x
  let str := [0, st (f 3 31 0), st (f 4 31 0), st (f 4 63 32), st (f 5 63 32)].take r
  let sstr := [0, st (f 6 31 0), st (f 6 63 32), st (f 7 31 0), st (f 7 63 32)].take r
  { base := base, tid := BitVec.ofNat 32 (fld w1 63 32), fmt := fld w1 31 28, view := bit w1 24,
    ovlp := bit w1 23, izero := bit w1 22, swz := fld w1 20 19, dist := bit w1 18,
    blkLog2 := fld w1 17 13, idxWrap := bit w1 12, fill := fld w1 11 10,
    ext := ext, str := str, soff := 64 * sext 36 (f 2 57 22), sstr := sstr }

/-- Reserved bits and fields of unused dimensions are zero, VALID is 1 and the codes are valid
(R172 to R174). -/
def descWordsOk (w : List Nat) : Bool :=
  let w1 := listGet w 1
  let r := fld w1 27 25 + 1
  let f (i hi lo : Nat) := fld (listGet w i) hi lo
  let blk := isBlock (fld w1 31 28)
  bit w1 0 && fld w1 9 1 == 0 && !bit w1 21 && f 2 63 58 == 0 && fmtOk (fld w1 31 28)
    && fld w1 20 19 != 3 && decide (r ≤ 5)
    && (r ≥ 2 || (f 3 47 32 == 0 && f 3 31 0 == 0 && f 6 31 0 == 0))
    && (r ≥ 3 || (f 3 63 48 == 0 && f 4 31 0 == 0 && f 6 63 32 == 0))
    && (r ≥ 4 || (f 5 15 0 == 0 && f 4 63 32 == 0 && f 7 31 0 == 0))
    && (r ≥ 5 || (f 5 31 16 == 0 && f 5 63 32 == 0 && f 7 63 32 == 0))
    && (blk || (f 2 57 22 == 0 && listGet w 6 == 0 && listGet w 7 == 0))
    && (!blk || (f 2 21 0 + 1) % 32 == 0)

def Desc.rank (d : Desc) : Nat := d.ext.length
def Desc.isTile (d : Desc) : Bool :=
  match d.base.space with
  | .tile _ => true
  | _ => false

/-- Logical extents, dimensions 0 and 1 swapped under VIEW (R172). -/
def Desc.lext (d : Desc) : List Nat :=
  match d.view, d.ext with
  | true, a :: b :: r => b :: a :: r
  | _, e => e

/-- Memory indices of a logical index. -/
def Desc.memIdx (d : Desc) (l : List Nat) : List Nat :=
  match d.view, l with
  | true, a :: b :: r => b :: a :: r
  | _, l => l

/-- Number of elements. -/
def Desc.count (d : Desc) : Nat := d.ext.foldl (· * ·) 1

/-- Every logical index of a shape in ascending λ (R172). -/
def indices : List Nat → List (List Nat)
  | [] => [[]]
  | e :: es => (indices es).flatMap (fun r => (List.range e).map (fun i => i :: r))

/-- λ of a logical index. -/
def linear : List Nat → List Nat → Nat
  | e :: es, l :: ls => l + e * linear es ls
  | _, _ => 0

/-- Byte length of a row of memory dimension 0 (R176). -/
def Desc.rowBytes (d : Desc) : Nat :=
  let n := if d.izero then 1 else listGet d.ext 0
  (n * fmtBits d.fmt + 7) / 8

/-- Byte length of a row of the scale plane. -/
def Desc.scaleRow (d : Desc) : Nat := listGet d.ext 0 / 32 * scaleBytes d.fmt

/-- Lowest and highest byte of a strided pattern (R176): base, row length, extents and strides of the
dimensions that count. -/
def corners (base : Int) (row : Nat) (dims : List (Nat × Int)) : Int × Int :=
  let lo := dims.foldl (fun a d => if d.2 < 0 then a + d.2 * ((d.1 : Int) - 1) else a) base
  let hi := dims.foldl (fun a d => if d.2 > 0 then a + d.2 * ((d.1 : Int) - 1) else a) base
  (lo, hi + (row : Int) - 1)

/-- Inserts a dimension by |stride|, an equal one after those before it (R177). -/
def insertStride (d : Nat × Int) : List (Nat × Int) → List (Nat × Int)
  | [] => [d]
  | x :: r => if d.2.natAbs < x.2.natAbs then d :: x :: r else x :: insertStride d r

/-- The self-overlap test of R177. -/
def selfOverlap (row : Nat) (dims : List (Nat × Int)) (zero0 : Bool) : Bool :=
  let ds := dims.filter (fun d => d.1 > 1)
  if zero0 || ds.any (fun d => d.2 == 0) then true
  else
    let sorted := ds.foldl (fun acc d => insertStride d acc) []
    (sorted.foldl (fun (st : Bool × Nat) d =>
      (st.1 || decide (d.2.natAbs < st.2), st.2 + d.2.natAbs * (d.1 - 1))) (false, row)).1

/-- How a slot uses a descriptor (Table 7.2, R182, R184). -/
structure Use where
  space : Space → Bool
  write : Bool := false
  /-- Destination in accumulate mode. -/
  accum : Bool := false
  /-- VIEW permitted: streaming operand. -/
  view : Bool := false
  /-- VIEW permitted for non-block formats: COPY. -/
  viewPlain : Bool := false
  index : Bool := false
  /-- Destination of a MULTICAST: the outermost memory dimension counts tiles. -/
  tiles : Bool := false
  /-- A DIST descriptor of the gradient exchange or update engine. -/
  dist : Bool := false

/-- Fields used as Table 7.2 permits. -/
def Desc.useOk (d : Desc) (u : Use) : Bool :=
  let blk := isBlock d.fmt
  u.space d.base.space
    && (!d.view || (decide (2 ≤ d.rank) && (u.view || (u.viewPlain && !blk))))
    && (d.swz == 0 || d.isTile)
    && (!d.dist || (u.dist && (d.str.all (· == 0)) && (d.sstr.all (· == 0)) && !d.view && !d.izero
          && !d.ovlp && d.swz == 0 && 12 ≤ d.blkLog2 && d.blkLog2 ≤ 26))
    && (d.dist || d.blkLog2 == 0)
    && (!d.ovlp || (u.write && !blk))
    && (!d.izero || ((!u.write || u.accum) && !blk))
    && (u.index || (!d.idxWrap && d.fill == 0))
    && (!u.index || (d.fmt == 0xB && d.rank == 1 && !d.view && !d.izero && !d.ovlp && !d.dist))

/-- The dimensions k ≥ 1 that take part in R176 and R177. -/
def Desc.outer (d : Desc) (str : List Int) (tiles : Bool) : List (Nat × Int) :=
  let ds := (d.ext.zip str).drop 1
  if tiles then ds.dropLast else ds

/-- The checks of R175 to R177 on one descriptor after its offset register (`fits`: R413). -/
def Dev.descChecks (s : Dev) (c : Nat) (d : Desc) (fits : Bool) (u : Use) : List (Option Status) :=
  let sp := d.base.space
  let dims := d.outer d.str u.tiles
  let sdims := d.outer d.sstr u.tiles
  let base : Int := d.base.off
  let (lo, hi) := corners base d.rowBytes dims
  let (slo, shi) := corners (base + d.soff) d.scaleRow sdims
  let blk := isBlock d.fmt
  let ok := s.inSpace c sp lo hi u.write && (!blk || s.inSpace c sp slo shi u.write)
  let isOver := selfOverlap d.rowBytes dims (d.izero && decide (listGet d.ext 0 > 1))
  let sover := blk && selfOverlap d.scaleRow sdims false
  [failIf (d.base.off % 64 != 0) .align,
   failIf (!fits || (!d.dist && !ok)) .range,
   failIf (u.write && !d.dist && !u.accum && !d.ovlp && (isOver || sover)) .overlap]

/-- The descriptor an index names in the context's table, with an offset register added (R169, R174,
R413): the failures found, and the descriptor when it can be read. -/
def Dev.descriptor (s : Dev) (c idx : Nat) (off : Option Nat) (u : Use) :
    List (Option Status) × Option Desc :=
  let x := s.ctx c
  if idx = 0 ∨ !x.dtabEn then ([some .invalidWord], none)
  else if x.usable < x.dtabBase.toNat * 4096 + 4096 * 64 then ([some .range], none)
  else
    let bs := s.readBytes c ⟨.hbm, x.dtabBase.toNat * 4096 + 64 * idx⟩ 64
    let w := descWords bs
    match parseAddr (listGet w 0) with
    | none => ([some .invalidWord], none)
    | some a =>
      let (a, fits) := a.plus (off.getD 0)
      let d := parseDesc w a
      if !descWordsOk w || !d.useOk u then ([some .invalidWord], some d)
      else (s.descChecks c d fits u, some d)

/-- The pool bytes of a descriptor-table entry; none where the table is not read (R169). -/
def Ctx.descRange (x : Ctx) (idx : Nat) : List (Nat × Nat) :=
  if idx = 0 ∨ !x.dtabEn ∨ x.usable < x.dtabBase.toNat * 4096 + 4096 * 64 then []
  else [(x.pool (x.dtabBase.toNat * 4096 + 64 * idx), 64)]

/-! ## Elements of a tensor -/

/-- A tile-store offset permuted by a swizzle mode (R180). -/
def swizzle (swz o : Nat) : Nat :=
  if swz = 0 then o
  else
    let l := o / 64
    let w := l / 64
    let b0 := (l % 64) ^^^ (w % 64)
    let b := if swz = 1 then b0 else b0 ^^^ (fld l 15 12 * 4)
    (64 * w + b) * 64 + o % 64

/-- Where a byte of a descriptor's region is stored. -/
def Desc.place (d : Desc) (o : Nat) : Nat := if d.isTile then swizzle d.swz o else o

/-- Byte offset of the row of an element, from its memory index. -/
def Desc.rowOff (d : Desc) (j : List Nat) : Nat :=
  ((d.base.off : Int) + ((j.zip d.str).foldl (fun a p => a + (p.1 : Int) * p.2) 0)).toNat

/-- Byte offset of the row of scale entries. -/
def Desc.scaleOff (d : Desc) (j : List Nat) : Nat :=
  ((d.base.off : Int) + d.soff + ((j.zip d.sstr).foldl (fun a p => a + (p.1 : Int) * p.2) 0)).toNat

/-- Bit offset of an element within its row (R71). -/
def Desc.bitOff (d : Desc) (j : List Nat) : Nat := if d.izero then 0 else listGet j 0 * fmtBits d.fmt

/-- The offsets of the bytes that hold an element, before swizzling. -/
def Desc.elemBytes (d : Desc) (j : List Nat) : List Nat :=
  let b := d.rowOff j * 8 + d.bitOff j
  (List.range ((b % 8 + fmtBits d.fmt + 7) / 8)).map (fun i => b / 8 + i)

/-- The offsets of the bytes of an element's scale entry; none for a plain format. -/
def Desc.scaleEntry (d : Desc) (j : List Nat) : List Nat :=
  if isBlock d.fmt then
    (List.range (scaleBytes d.fmt)).map (fun i => d.scaleOff j + listGet j 0 / 32 * scaleBytes d.fmt + i)
  else []

/-- The offsets an element's value is read from, as stored. -/
def Desc.touched (d : Desc) (j : List Nat) : List Nat :=
  (d.elemBytes j ++ d.scaleEntry j).map d.place

/-- Every stored offset of a descriptor. -/
def Desc.allBytes (d : Desc) : List Nat := (indices d.ext).flatMap d.touched

/-- The code and scale entry of one element, through a byte reader of the space. -/
def Desc.codeAt (d : Desc) (rd : Nat → Byte) (j : List Nat) : Nat × Nat :=
  let b := d.rowOff j * 8 + d.bitOff j
  let raw := leNat ((d.elemBytes j).map (fun o => rd (d.place o)))
  (raw / 2 ^ (b % 8) % 2 ^ fmtBits d.fmt, leNat ((d.scaleEntry j).map (fun o => rd (d.place o))))

/-- Index of an element within its block. -/
def blockPos (j : List Nat) : Nat := listGet j 0 % 32

/-- Codes with scale entries of a whole tensor in ascending λ: code, entry, position in block. -/
def Dev.codes (s : Dev) (c : Nat) (d : Desc) : List (Nat × Nat × Nat) :=
  (indices d.lext).map (fun l =>
    let j := d.memIdx l
    let (k, e) := d.codeAt (s.readByte c d.base.space) j
    (k, e, blockPos j))

/-- Values of a tensor in ascending λ, as a conversion reads them, with the flags of the reads. -/
def Dev.values (s : Dev) (c : Nat) (d : Desc) : List Num × Flags :=
  let vs := (s.codes c d).map (fun e => readElem d.fmt e.1 e.2.1 e.2.2)
  (vs.map Prod.fst, vs.foldl (fun f v => f ||| v.2) 0)

/-- Values of a tensor as FP32 in ascending λ; each element is converted once (R88). -/
def Dev.valuesF32 (s : Dev) (c : Nat) (d : Desc) : List F32 × Flags :=
  let (vs, f) := s.values c d
  let ys := vs.map Num.toF32
  (ys.map Prod.fst, ys.foldl (fun g y => g ||| y.2) f)

/-- Cells of one plain element.
DESIGN CHOICE, log entry 44. -/
def Desc.elemCells (d : Desc) (j : List Nat) (code : Nat) : List Host.Cell :=
  let o := d.elemBytes j
  (o.map d.place).zip (leBytes o.length code)

/-- Cells of one block of 32 elements with its scale entry; `j` is the block's first element. -/
def Desc.blockCells (d : Desc) (j : List Nat) (entry : Nat) (codes : List Nat) : List Host.Cell :=
  let bits := fmtBits d.fmt
  let o := d.rowOff j + listGet j 0 * bits / 8
  let bs := packCodes bits codes
  let cells := (List.range bs.length).zip bs |>.map (fun e => (d.place (o + e.1), e.2))
  let so := d.scaleEntry j
  cells ++ (so.map d.place).zip (leBytes so.length entry)

/-- Values stored into the elements of a destination. `els` pairs each logical index with its value, in
ascending λ; a block format takes them 32 at a time. `rnd` is the rounding rule at λ. -/
def Desc.quantCells (d : Desc) (scl : Bool) (rnd : Nat → Rnd) :
    Nat → List (List Nat × Num) → List Host.Cell × Flags
  | 0, _ => ([], 0)
  | _, [] => ([], 0)
  | n + 1, (l, v) :: r =>
    if isBlock d.fmt then
      let blk := ((l, v) :: r).take 32
      let lam := linear d.lext l
      let (e, ks, f) := quantBlock d.fmt scl (blk.map Prod.snd) (fun i => rnd (lam + i))
      let (cs, g) := Desc.quantCells d scl rnd n (((l, v) :: r).drop 32)
      (d.blockCells (d.memIdx l) e ks ++ cs, f ||| g)
    else
      let (k, f) := encodeElem d.fmt v (rnd (linear d.lext l))
      let (cs, g) := Desc.quantCells d scl rnd n r
      (d.elemCells (d.memIdx l) k ++ cs, f ||| g)

/-- Values written to a whole tensor in ascending λ.
DESIGN CHOICE, log entry 44. -/
def Desc.storeCells (d : Desc) (scl : Bool) (rnd : Nat → Rnd) (vs : List Num) : List Host.Cell × Flags :=
  let ls := indices d.lext
  d.quantCells scl rnd ls.length (ls.zip vs)

/-- The code of a lane's value in an output of the lane's own format, FP32, or BF16 for a packed lane: a NaN
keeps its bits, signalling or not (R124).
DEDUCED, log entry 26. -/
def keepNaN (fmt : Nat) (v : Num) (rnd : Rnd) : Nat × Flags :=
  match v with
  | .nan b => (if fmt = 0x7 then b.toNat / 65536 else b.toNat, 0)
  | _ => encodeElem fmt v rnd

/-- Lane values written to a whole output tensor in ascending λ, converted under R88. FP32 lanes go to an
FP32 output unconverted.
DEDUCED, log entry 26: R124 passes a signalling NaN through ABS, NEG, MOV, SEL and HOLD with no flag. -/
def Desc.laneCells (d : Desc) (packed : Bool) (rnd : Nat → Rnd) (vs : List Num) : List Host.Cell × Flags :=
  if d.fmt = 0x9 ∨ (packed = true ∧ d.fmt = 0x7) then
    let es := ((indices d.lext).zip vs).map (fun e => (e.1, keepNaN d.fmt e.2 (rnd (linear d.lext e.1))))
    (es.flatMap (fun e => d.elemCells (d.memIdx e.1) e.2.1), es.foldl (fun f e => f ||| e.2.2) 0)
  else d.storeCells false rnd vs

/-- Codes copied unconverted to a list of logical indices of a destination of the same format. -/
def Desc.codeCells (d : Desc) (els : List (List Nat × Nat × Nat)) : List Host.Cell :=
  els.flatMap (fun e =>
    let j := d.memIdx e.1
    let so := d.scaleEntry j
    (so.map d.place).zip (leBytes so.length e.2.2) ++
      (if fmtBits d.fmt % 8 = 0 then d.elemCells j e.2.1 else []))

/-- Sub-byte codes copied unconverted, 32 at a time. -/
def Desc.packedCells (d : Desc) : Nat → List (List Nat × Nat × Nat) → List Host.Cell
  | 0, _ => []
  | _, [] => []
  | n + 1, e :: r =>
    let blk := (e :: r).take 32
    d.blockCells (d.memIdx e.1) e.2.2 (blk.map (fun x => x.2.1))
      ++ Desc.packedCells d n ((e :: r).drop 32)

/-- Codes copied unconverted (CONV 0x00). -/
def Desc.copyCells (d : Desc) (els : List (List Nat × Nat × Nat)) : List Host.Cell :=
  if isBlock d.fmt then d.packedCells els.length els else d.codeCells els

/-- The pool lines a descriptor covers; none outside the HBM space. -/
def Dev.descLines (s : Dev) (c : Nat) (d : Desc) : List Nat :=
  match d.base.space with
  | .hbm => poolLines (s.ctx c) d.allBytes
  | _ => []

/-- Two regions of one move or slot share a byte; regions of different swizzle overlap when they share a
4 KiB page of one tile store (R181). -/
def Desc.overlaps (a b : Desc) : Bool :=
  let as := a.allBytes
  let bs := b.allBytes
  if a.base.space != b.base.space then false
  else if a.isTile && a.swz != b.swz then as.any (fun x => bs.any (fun y => x / 4096 == y / 4096))
  else as.any (fun x => bs.contains x)

/-! ## Words and slots -/

/-- Bytes of a slot by presence order (Table 2.2). -/
def slotSize (num : Nat) : Nat :=
  match num with
  | 0 => 8
  | 2 | 3 | 6 => 24
  | _ => 16

/-- A slot as it stands in its word: its number and its 64-bit quantities. -/
structure RawSlot where
  num : Nat
  head : Nat
  w2 : Nat
  w3 : Nat
  deriving DecidableEq, Repr

/-- A word as it stands in the descriptor store (Table 2.1). -/
structure RawWord where
  tag : U16
  abortPt : Bool
  last : Bool
  lend : Bool
  lstart : Bool
  len : Nat
  slots : List RawSlot
  padZero : Bool
  minLen : Nat
  deriving DecidableEq, Repr

/-- Slots read one after another from byte `at`. -/
def readSlots (bs : List Byte) : List Nat → Nat → List RawSlot × Nat
  | [], pos => ([], pos)
  | n :: ns, pos =>
    let z := slotSize n
    let (r, e) := readSlots bs ns (pos + z)
    (⟨n, leAt bs pos 8, if z ≥ 16 then leAt bs (pos + 8) 8 else 0,
      if z ≥ 24 then leAt bs (pos + 16) 8 else 0⟩ :: r, e)

/-- The word that begins at the front of a byte list (R31, R32). -/
def parseWord (bs : List Byte) : RawWord :=
  let h := leAt bs 0 4
  let nums := (List.range 8).filter (fun n => bit h (4 + n))
  let (slots, e) := readSlots bs nums 4
  let len := fld h 3 0
  { tag := BitVec.ofNat 16 (fld h 31 16), abortPt := bit h 15, last := bit h 14, lend := bit h 13,
    lstart := bit h 12, len := len, slots := slots,
    padZero := ((bs.take (16 * len)).drop e).all (· == 0), minLen := ceilDiv e 16 }

/-- Failures of the word as a whole (R32, R33, R51, R412). -/
def RawWord.shapeOk (w : RawWord) : Bool :=
  w.len != 0 && decide (w.minLen ≤ w.len) && w.padZero && (!w.slots.isEmpty || !w.lstart)

/-- The scalar slot of a word. -/
def RawWord.scalar (w : RawWord) : Option Nat := (w.slots.find? (fun x => x.num = 0)).map (·.head)

/-- The word carries a LOOP exactly when LSTART is set (R51). -/
def RawWord.loopOk (w : RawWord) : Bool :=
  match w.scalar with
  | none => !w.lstart
  | some h => w.lstart == (fld h 7 0 == 0x10)

/-- Rules of the scalar slot that need no register (R36); `depth` is the number of enclosing loops. -/
def scalarOk (h depth : Nat) : Bool :=
  let op := fld h 7 0
  let imm := fld h 63 32
  let isel := bit h 26
  fld h 31 27 == 0 &&
    (if (1 ≤ op && op ≤ 0xB) || op == 0x12 then true
     else if op = 0x0C then isel && fld h 19 14 == 0 && fld h 25 20 == 0
     else if op = 0x0D then isel
     else if op = 0x10 then fld h 13 8 == 0
     else if op = 0x11 then imm / 4 == 0 && decide (imm % 4 < depth)
     else false)

/-- Fields of an engine slot head (Table 2.5). -/
def RawSlot.op (r : RawSlot) : Nat := fld r.head 7 0
def RawSlot.we (r : RawSlot) : Bool := bit r.head 8
def RawSlot.se (r : RawSlot) : Bool := bit r.head 9
def RawSlot.rse (r : RawSlot) : Bool := bit r.head 10
def RawSlot.waitId (r : RawSlot) : Nat := fld r.head 31 16
def RawSlot.sigId (r : RawSlot) : Nat := fld r.head 47 32
def RawSlot.aux (r : RawSlot) : Nat := fld r.head 63 48

/-- The CONV byte (R87) against source and destination formats: the conversion, or `none` when the
word is invalid. -/
def convOf (b : Nat) (src dst : Nat) : Option (Option Conv) :=
  if b = 0 then (if src = dst then some none else none)
  else
    let f := fld b 7 4
    let scl := bit b 2
    if !fmtOk f || b % 4 != 0 || (scl && !isBlock f) || f != dst then none
    else some (some ⟨f, bit b 3, scl⟩)

/-- CONV rules that need no descriptor. -/
def convByteOk (b : Nat) : Bool :=
  b = 0 || (fmtOk (fld b 7 4) && b % 4 = 0 && (!bit b 2 || isBlock (fld b 7 4)))

/-- Rules of R37 to R44 on an engine or hitch slot that need neither registers nor descriptors.
DEDUCED, log entry 49. -/
def engineSlotOk (r : RawSlot) : Bool :=
  let op := r.op
  let aux := r.aux
  fld r.head 15 11 == 0 && op != 0 && (r.num == 6 || !r.rse) &&
    (match r.num with
     | 1 => (1 ≤ op && op ≤ 3) && aux / 256 == 0 && convByteOk (aux % 256) && fld r.w2 63 50 == 0
              && (op == 3 || fld r.w2 35 24 == 0)
     | 2 => op == 1 && aux / 256 == 0 && fld r.w3 63 32 == 0 && fld r.w3 7 3 == 0 && fld r.w3 2 0 != 7
              && matrixFmt (fld aux 7 4) && matrixFmt (fld aux 3 0)
     | 3 =>
       aux / 16 == 0 && fld r.w3 63 60 == 0 && (!bit r.w3 24 || fld r.w3 11 0 == 0) &&
         (if op = 1 then (aux == 1 || aux == 2) && fld r.w3 45 36 == 0 && (aux == 2 || fld r.w2 63 32 == 0)
          else op == 2 && r.w2 == 0 && 1 ≤ aux && aux ≤ 8)
     | 4 => op == 1 && aux / 512 == 0 && fld r.w2 63 38 == 0
     | 5 => (op == 1 || (4 ≤ op && op ≤ 6)) && aux / 256 == 0 && convByteOk (aux % 256)
              && fld r.w2 63 50 == 0 && (op == 4 || op == 5 || fld r.w2 35 24 == 0)
     | 6 => (1 ≤ op && op ≤ 7) && fld r.w3 63 37 == 0 && fld r.w2 63 61 == 4 &&
              (op != 7 || (fld r.w2 36 0 == 0 && r.rse && fld r.w3 11 0 == 0))
     | 7 => (op == 1 || op == 2) && aux == 0 && fld r.w2 63 50 == 0 && (op == 2 || fld r.w2 49 34 == 0)
     | _ => false)

/-- DEDUCED, log entry 49. -/
def slotStaticOk (r : RawSlot) (depth : Nat) : Bool :=
  if r.num = 0 then scalarOk r.head depth else engineSlotOk r

/-- Static failure of a word as R412 reports it: `none` when it passes, `some none` for the word as a
whole, `some (some n)` for slot `n`. -/
def RawWord.staticFail (w : RawWord) (depth : Nat) : Option (Option Nat) :=
  if !w.shapeOk || !w.loopOk then some none
  else (w.slots.find? (fun r => !slotStaticOk r depth)).map (fun r => some r.num)

/-! ## Blocks (R30, R51, R60) -/

/-- What a check of a block finds: the words' starts (byte offset in the block, LSTART's matching LEND
offset where it has one), or the first failing word's tag and slot. -/
inductive BlockCheck where
  | good (starts : List Nat)
  | bad (tag : U16) (slot : Option Nat)
  deriving DecidableEq, Repr

/-- Walks the words of a block. `off` is the byte offset of the next word, `depth` the open loops. -/
def checkBlock (bs : List Byte) (pageOff : Nat) : Nat → Nat → Nat → List Nat → U16 → BlockCheck
  | 0, _, _, _, tag => .bad tag none
  | n + 1, off, depth, starts, prevTag =>
    if bs.length < off + 16 then .bad prevTag none
    else
      let w := parseWord ((bs.drop off).take 240)
      let z := 16 * w.len
      let open' := if w.lstart then depth + 1 else depth
      let depth' := if w.lend then open' - 1 else open'
      -- failures of the word as a whole come first (R412): a word that runs past the loaded bytes (R60) or carries
      -- LAST before the end of the block (R30) among them
      if bs.length < off + z || (w.last && bs.length != off + z) || !w.shapeOk || !w.loopOk
          || (pageOff + off) / 4096 != (pageOff + off + z - 1) / 4096
          || (w.lend && open' == 0) || decide (open' > 4) || (w.last && depth' != 0) then .bad w.tag none
      else
        match w.staticFail open' with
        | some sl => .bad w.tag sl
        | none => if w.last then .good (starts ++ [off]) else checkBlock bs pageOff n (off + z) depth' (starts ++ [off]) w.tag

/-- The check of a whole block of `bs` bytes loaded at the start of a page. -/
def blockCheck (bs : List Byte) : BlockCheck := checkBlock bs 0 4097 0 0 [] 0

/-- Byte offset, in a block, of the word after the LEND that matches an LSTART word at `off`; `none` when
that LEND stands on the LAST word. -/
def afterLend (bs : List Byte) : Nat → Nat → Nat → Option Nat
  | 0, _, _ => none
  | n + 1, off, depth =>
    let w := parseWord ((bs.drop off).take 240)
    let d := if w.lstart then depth + 1 else depth
    let d' := if w.lend then d - 1 else d
    if d' = 0 then (if w.last then none else some (off + 16 * w.len))
    else afterLend bs n (off + 16 * w.len) d'

/-- What the dispatcher records of a checked block loaded at page `page` (R53, R59): for one page, the
store offsets of the words that start in it and where each of its loops ends. -/
def pageRecord (bs : List Byte) (starts : List Nat) (page p : Nat) : List Nat × List (Nat × Option Nat) :=
  let here := starts.filter (fun o => o / 4096 + page = p)
  let base := 4096 * page
  (here.map (base + ·),
    here.filterMap (fun o =>
      if (parseWord ((bs.drop o).take 240)).lstart then
        some (base + o, (afterLend bs (starts.length + 1) o 0).map (base + ·))
      else none))

/-! ## Chain records (Table 2.9) -/

structure ChainRec where
  srtid : U32
  fmtIn : Nat
  fmtOut : Nat
  sr : Bool
  scm : Bool
  nstg : Nat
  stages : List Nat
  sops : List Nat
  deriving DecidableEq, Repr

def parseChain (bs : List Byte) : ChainRec :=
  let w := leAt bs 0 8
  { srtid := BitVec.ofNat 32 (fld w 63 32), fmtIn := fld w 23 16, fmtOut := fld w 15 8, sr := bit w 5,
    scm := bit w 4, nstg := fld w 3 0,
    stages := (List.range 8).map (fun i => leAt bs (8 + 4 * i) 4),
    sops := (List.range 8).map (fun i => leAt bs (40 + i) 1) }

/-- What R41 requires of each record of a chain page at load. -/
def chainRecordOk (bs : List Byte) : Bool :=
  let w := leAt bs 0 8
  let r := parseChain bs
  (1 ≤ r.nstg && r.nstg ≤ 8) && fld w 31 24 == 0 && fld w 7 6 == 0 && (bs.drop 48).all (· == 0)
    && (r.stages.drop r.nstg).all (· == 0) && (r.sops.drop r.nstg).all (· == 0)

/-! ## Launch records (Table 2.13) -/

def parseLaunch (bs : List Byte) : LaunchRec :=
  let w0 := leAt bs 0 4
  let w1 := leAt bs 4 4
  { ltag := BitVec.ofNat 16 (fld w0 31 16), zero1 := BitVec.ofNat 5 (fld w0 15 11), chkgen := bit w0 10,
    force := bit w0 9, go := bit w0 8, type := BitVec.ofNat 8 (fld w0 7 0),
    egen := BitVec.ofNat 16 (fld w1 31 16), soff := fld w1 15 8, pcnt := fld w1 7 4, page := fld w1 3 0,
    tmask := BitVec.ofNat 128 (leAt bs 8 16), src := BitVec.ofNat 64 (leAt bs 24 8), len := leAt bs 32 2,
    zero2 := BitVec.ofNat 48 (leAt bs 34 6), step := BitVec.ofNat 64 (leAt bs 40 8),
    arg0 := BitVec.ofNat 64 (leAt bs 48 8), arg1 := BitVec.ofNat 64 (leAt bs 56 8) }

end Sys2Proof.Machine
end

