-- ==== Sys2Proof/Machine/Functions.lean ====
section
/-! DEFINITION. The functions of the special function unit: micro-programs (R144 to R149), the library
(R150, R416) and the Sernal variants (R151, Table 6.15). A result is FP32 bits and the flags it sets. -/
namespace Sys2Proof.Machine
open Sys2Proof

/-! ## Classes and actions (R145) -/

/-- Input class of Table 6.2. -/
def classOf (x : F32) : Nat :=
  if isNaN x then 0
  else if isInf x then (if F32.sign x then 1 else 8)
  else if isZero x then (if F32.sign x then 4 else 5)
  else if F32.expF x = 0 then (if F32.sign x then 3 else 6)
  else (if F32.sign x then 2 else 7)

/-- A class action's result from input `v0`; `none` keeps the computed value (Table 6.2). -/
def classAction (a : Nat) (v0 : F32) : Option (F32 × Flags) :=
  match a with
  | 0x1 => some (zeroF false, 0)
  | 0x2 => some (zeroF true, 0)
  | 0x3 => some (infF false, 0)
  | 0x4 => some (infF true, 0)
  | 0x5 => some (oneF, 0)
  | 0x6 => some (negF oneF, 0)
  | 0x7 => some (if isNaN v0 then quiet v0 else v0, 0)
  | 0x8 => some (qNaN, fInvalid)
  | _ => none

/-- A signalling NaN input sets INVALID (R149). -/
def snanFlag (x : F32) : Flags := if isSNaN x then fInvalid else 0

/-! ## Micro-steps (R146) -/

/-- A × 2^k rounded once, with the flags of SCALE2 (R149). -/
def scale2 (x : F32) (k : Int) : F32 × Flags :=
  if isNaN x then (quiet x, 0)
  else if isInf x || isZero x then (x, 0)
  else
    let d := F32.dy x
    let k := max (-600) (min 600 k)
    let (r, f) := roundF32s (F32.sign x) d.m.natAbs (d.e + k) false
    let normal := fld r.toNat 30 23 != 0
    (r, f &&& (if normal then fOverflow else fOverflow ||| fUnderflow))

/-- The unbiased exponent of a nonzero finite value, subnormals counted exactly. -/
def expOf (x : F32) : Int := (F32.dy x).log2

/-- A value with magnitude in [1, 2) and the exponent taken out (RRED mode 2). -/
def splitF (x : F32) : F32 × Int :=
  let e := expOf x
  ((scale2 x (-e)).1, e)

/-- The same with magnitude in [√½, √2) (RRED mode 3): above √2 when the square exceeds 2. -/
def csplitF (x : F32) : F32 × Int :=
  let (m, e) := splitF x
  let q := (F32.dy m).mul (F32.dy m)
  if q.lt ⟨2, 0⟩ then (m, e) else ((scale2 m (-1)).1, e + 1)

/-- A lane register: bits, and whether the step that wrote it left an INT32. -/
structure VReg where
  bits : U32 := 0
  int : Bool := false
  deriving DecidableEq, Repr

/-- Lane state while a micro-program runs: registers, flags, and whether a class action produced v1. -/
structure MicroState where
  v : List VReg
  flags : Flags := 0
  byAction : Bool := false
  deriving DecidableEq, Repr

def MicroState.reg (m : MicroState) (i : Nat) : U32 := (m.v.getD i {}).bits
def MicroState.put (m : MicroState) (i : Nat) (x : U32) (int : Bool) : MicroState :=
  { m with v := m.v.set i ⟨x, int⟩, byAction := if i = 1 then false else m.byAction }

/-- Free value for a micro-step on an operand for which the spec states no result (log entry 6). -/
def microOpen (step : Nat) (x : F32) : F32 := Config.libResult (0x200 + step) x

/-- The integer RRED takes out of A × T, when it fits INT32 (R146). -/
def rredInt (a t : F32) (floor : Bool) : Option Int :=
  if !isFinite a || !isFinite t then none
  else
    let p := (F32.dy a).mul (F32.dy t)
    let k : Int := if floor then (if p.e < 0 then p.m / (2 ^ (-p.e).toNat : Nat) else p.m * (2 ^ p.e.toNat : Nat))
                   else (dyToInt p .rne).1
    if -(2 ^ 31 : Nat) ≤ k ∧ k < (2 ^ 31 : Nat) then some k else none

/-- fma(−k, t, a) for an exact integer k. -/
def fmaInt (k : Int) (t a : F32) : F32 :=
  if isFinite t && isFinite a then
    (roundDy (((Dy.ofInt (-k)).mul (F32.dy t)).add (F32.dy a)) (F32.sign a && isZero a)).1
  else (fmaF (f32OfInt (-k)).1 t a).1

/-- One micro-step (Table 6.4); `tbl` reads entry i of the step's table from BASE on. -/
def microStep (act : List Nat) (v0 : F32) (tbl : Nat → U32) (st : MicroStep) (m : MicroState) : MicroState :=
  let a := m.reg st.srcA
  let b := m.reg st.srcB
  match st.kind, st.mode with
  | 1, 0 =>
    match rredInt a (tbl 2) false with
    | some k => (m.put (st.dst + 1) (BitVec.ofInt 32 k) true).put st.dst (fmaInt k (tbl 1) (fmaInt k (tbl 0) a)) false
    | none => (m.put (st.dst + 1) (microOpen 0 a) true).put st.dst (microOpen 1 a) false
  | 1, 1 =>
    match rredInt a (tbl 2) true with
    | some k => (m.put (st.dst + 1) (BitVec.ofInt 32 k) true).put st.dst (fmaInt k (tbl 1) (fmaInt k (tbl 0) a)) false
    | none => (m.put (st.dst + 1) (microOpen 0 a) true).put st.dst (microOpen 1 a) false
  | 1, md =>
    if isFinite a && !isZero a then
      let (r, e) := if md = 2 then splitF a else csplitF a
      (m.put (st.dst + 1) (BitVec.ofInt 32 e) true).put st.dst r false
    else (m.put (st.dst + 1) (microOpen 2 a) true).put st.dst (microOpen 3 a) false
  | 2, w =>
    let i := if (m.v.getD st.srcA {}).int then a.toNat % 2 ^ w else F32.fracF a / 2 ^ (23 - w)
    (m.put (st.dst + 1) (tbl (2 ^ w + i)) false).put st.dst (tbl i) false
  | 3, d => m.put st.dst ((List.range d).foldl (fun p j => (fmaF p a (tbl (j + 1))).1) (tbl 0)) false
  | 4, 0 => m.put st.dst (mulF a b).1 false
  | 4, 1 => m.put st.dst (addF a b).1 false
  | 4, 2 => m.put st.dst (subF a b).1 false
  | 4, 3 => m.put st.dst (fmaF a b (m.reg st.dst)).1 false
  | 4, 4 =>
    let (r, f) := scale2 a b.toInt
    let m := m.put st.dst r false
    { m with flags := m.flags ||| f }
  | 4, 5 => m.put st.dst (withSign (F32.sign b) (a.toNat % 2 ^ 31)) false
  | 4, _ =>
    match classAction (act.getD (classOf v0) 0) v0 with
    | none => m
    | some (r, f) =>
      let m := m.put st.dst r false
      { m with flags := m.flags ||| f, byAction := if st.dst = 1 then true else m.byAction }
  | _, _ => m

/-- A user function applied to an input, with the tables its slot is bound to (R144, R155). -/
def runMicro (img : FnImage) (tbls : List (Nat × U16 × List U32)) (x : F32) : F32 × Flags :=
  let v : List VReg := [⟨x, false⟩, {}, {}, {}, {}, {}, {}, {}]
  let entry (st : MicroStep) (i : Nat) : U32 :=
    match tbls.find? (fun t => t.1 == st.tbl) with
    | some (_, _, es) => es.getD (st.base + i) 0
    | none => 0
  let m := img.steps.foldl (fun m st => microStep img.act x (entry st) st m) { v := v }
  (m.reg 1, m.flags ||| snanFlag x ||| (if m.byAction then 0 else fInexact))

/-! ## The library (R150, R416) -/

/-- Class actions of Table 6.16: NaN, −inf, negative, −0, +0, +inf. -/
def libActions (fnum : Nat) : Option (List Nat) :=
  match fnum with
  | 0x00 | 0x01 => some [7, 1, 0, 5, 5, 3]
  | 0x02 | 0x03 => some [7, 8, 8, 4, 4, 3]
  | 0x04 => some [7, 8, 8, 4, 3, 1]
  | 0x05 => some [7, 8, 8, 2, 1, 3]
  | 0x06 => some [7, 2, 0, 4, 3, 1]
  | 0x07 | 0x0C => some [7, 6, 0, 2, 1, 5]
  | 0x08 => some [7, 1, 0, 0, 0, 5]
  | 0x09 | 0x0A | 0x0B => some [7, 2, 0, 2, 1, 3]
  | 0x0D => some [7, 8, 0, 2, 1, 8]
  | 0x0E => some [7, 8, 0, 5, 5, 8]
  | 0x0F => some [7, 1, 0, 0, 0, 3]
  | 0x10 => some [7, 6, 0, 2, 1, 3]
  | 0x11 => some [7, 8, 0, 2, 1, 3]
  | _ => none

/-- The six columns of Table 6.16 by class of Table 6.2; positive finite inputs are computed. -/
def libActionOf (row : List Nat) (cls : Nat) : Nat :=
  match cls with
  | 0 => row.getD 0 0
  | 1 => row.getD 1 0
  | 2 | 3 => row.getD 2 0
  | 4 => row.getD 3 0
  | 5 => row.getD 4 0
  | 8 => row.getD 5 0
  | _ => 0

/-- The computed result of a library function at a finite input. RECIP is correctly rounded; the others lie within
the bound of Table 6.5, and where the function has no value the result is free (log entry 6).
DEDUCED, log entry 50. -/
def libComputed (fnum : Nat) (x : F32) : F32 :=
  if fnum = 0x06 then (divF oneF x).1
  else
    let v := Config.libResult fnum x
    match libExact fnum (fxOf (F32.dy x)) with
    | none => v
    | some y => if libNear fnum (fxOf (F32.dy x)) v y then v else fxRound y

/-- OVERFLOW and UNDERFLOW of a computed result (Table 3.5): an infinity, and a tiny result that differs from a nonzero
exact value (DEDUCED, log entry 6: R149 names SCALE2 and does not list the steps of library functions).
DEDUCED, log entry 50. -/
def libRange (fnum : Nat) (x r : F32) : Flags :=
  if fnum = 0x06 then (divF oneF x).2 &&& (fOverflow ||| fUnderflow)
  else if isInf r then fOverflow
  else if isFinite r && F32.expF r == 0 then
    match libExact fnum (fxOf (F32.dy x)) with
    | none => 0
    | some y => if y != 0 && fxOf (F32.dy r) != y then fUnderflow else 0
  else 0

def libFn (fnum : Nat) (x : F32) : F32 × Flags :=
  match classAction (libActionOf ((libActions fnum).getD []) (classOf x)) x with
  | some (r, f) => (r, f ||| snanFlag x)
  | none => let r := libComputed fnum x; (r, fInexact ||| libRange fnum x r)

/-- Cosine or sine of p × θ: the value Config names where it lies within 1 ulp of that of an angle within 2⁻⁴⁰ of
the product (R166), the correctly rounded one otherwise; free where θ is not finite (log entry 6). -/
def ropeOf (cosine : Bool) (p : Nat) (theta : F32) : F32 :=
  let v := if cosine then Config.ropeCos p theta else Config.ropeSin p theta
  if !isFinite theta then v
  else
    let sc := fxSinCos (p * fxOf (F32.dy theta))
    let y := if cosine then sc.2 else sc.1
    if ulpsNear 1 (2 ^ 472) v y then v else fxRound y

/-! ## Sernal variants (R151) -/

def natF (n : Nat) : F32 := (f32OfInt n).1
def cLog2e : F32 := 0x3FB8AA3B
def cLn2Hi : F32 := 0x3F317200
def cLn2Lo : F32 := 0x35BFBE8E
def gC : F32 := 0x3F4C422A
/-- round(0.044715). -/
def gA : F32 := let (q, e, r) := divMag 44715 0 1000000 0; (roundF32s false q e r).1
/-- round(1 / n). -/
def invF (n : Nat) : F32 := (divF oneF (natF n)).1

/-- E[j] = 1 / (6 − j)! and L[j] = 1 / (9 − 2j). -/
def sernalE : List F32 := [invF 720, invF 120, invF 24, invF 6, invF 2, oneF, oneF]
def sernalL : List F32 := [invF 9, invF 7, invF 5, invF 3, oneF]

/-- S[i] = 1 / sqrt((1 + (i mod 64 + 0.5) / 64) × 2^(i div 64)), rounded once; never exact. -/
def sernalS (i : Nat) : F32 :=
  let n := 129 + 2 * (i % 64)
  -- the square is n × 2^(i div 64 - 7); its reciprocal is 2^(7 - i div 64) / n
  let sh := 121 - i / 64 + 80
  let q := 2 ^ (sh + (sh + 7 + i / 64) % 2) / n
  let k := sh + (sh + 7 + i / 64) % 2
  (roundF32s false (isqrt q) (((7 : Int) - (i / 64 : Nat) - (k : Int)) / 2) true).1

/-- V[i] = 1 / (1 + (i + 0.5) / 128). -/
def sernalV (i : Nat) : F32 := (divF (natF 256) (natF (257 + 2 * i))).1

def propagate (x : F32) : F32 × Flags := (quiet x, snanFlag x)

/-- Flags of the step that produces a variant's final result: its range flags and INEXACT. -/
def finalFlags (f : Flags) : Flags := (f &&& (fOverflow ||| fUnderflow)) ||| fInexact

def expS (x : F32) : F32 × Flags :=
  if isNaN x then propagate x
  else if isInf x then (if F32.sign x then zeroF false else infF false, 0)
  else if leF 0x42B20000 x then (infF false, fOverflow ||| fInexact)
  else if leF x 0xC2D00000 then (zeroF false, fUnderflow ||| fInexact)
  else
    let k := (dyToInt (F32.dy (mulF x cLog2e).1) .rne).1
    let kf := (f32OfInt k).1
    let r := (fmaF (negF kf) cLn2Lo (fmaF (negF kf) cLn2Hi x).1).1
    let p := (sernalE.drop 1).foldl (fun p e => (fmaF p r e).1) (sernalE.getD 0 0)
    let (y, f) := scale2 p k
    (y, finalFlags f)

def lnS (x : F32) : F32 × Flags :=
  if isNaN x then propagate x
  else if isZero x then (infF true, 0)
  else if F32.sign x then (qNaN, fInvalid)
  else if isInf x then (x, 0)
  else
    let (m, e) := csplitF x
    let s := (divF (subF m oneF).1 (addF m oneF).1).1
    let z := (mulF s s).1
    let p := (sernalL.drop 1).foldl (fun p l => (fmaF p z l).1) (sernalL.getD 0 0)
    let t := (mulF (natF 2) (mulF s p).1).1
    let ef := (f32OfInt e).1
    let (y, f) := fmaF ef cLn2Hi (fmaF ef cLn2Lo t).1
    (y, finalFlags f)

def rsqrtS (x : F32) : F32 × Flags :=
  if isNaN x then propagate x
  else if isZero x then (infF (F32.sign x), 0)
  else if F32.sign x then (qNaN, fInvalid)
  else if isInf x then (zeroF false, 0)
  else
    let (m, e) := splitF x
    let o : Nat := (e % 2).toNat
    let y0 := sernalS (64 * o + F32.fracF m / 2 ^ 17)
    let h := (scale2 m ((o : Int) - 1)).1
    let it (y : F32) : F32 := (mulF y (fmaF (negF h) (mulF y y).1 0x3FC00000).1).1
    let (r, f) := scale2 (it (it y0)) (-((e - (o : Int)) / 2))
    (r, finalFlags f)

def recipS (x : F32) : F32 × Flags :=
  if isNaN x then propagate x
  else if isZero x then (infF (F32.sign x), 0)
  else if isInf x then (zeroF (F32.sign x), 0)
  else
    let (m, e) := splitF (absF x)
    let y0 := sernalV (F32.fracF m / 2 ^ 16)
    let it (y : F32) : F32 := (fmaF y (fmaF (negF m) y oneF).1 y).1
    let (r, f) := scale2 (it (it y0)) (-e)
    (withSign (F32.sign x) (r.toNat % 2 ^ 31), finalFlags f)

def tanhS (x : F32) : F32 × Flags :=
  if isNaN x then propagate x
  else if ltF (absF x) 0x39800000 then (x, 0)
  else if leF 0x41100000 (absF x) then (withSign (F32.sign x) oneF.toNat, fInexact)
  else
    let u := (expS (mulF (natF 2) (absF x)).1).1
    let q := (recipS (addF u oneF).1).1
    let (r, f) := fmaF (negF (natF 2)) q oneF
    (withSign (F32.sign x) (r.toNat % 2 ^ 31), finalFlags f)

def sigmoidS (x : F32) : F32 × Flags :=
  if isNaN x then propagate x
  else if isInf x then (if F32.sign x then zeroF false else oneF, 0)
  else ((recipS (addF oneF (expS (negF x)).1).1).1, fInexact)

def geluTanhS (x : F32) : F32 × Flags :=
  if isNaN x then propagate x
  else if isInf x then (if F32.sign x then zeroF true else x, 0)
  else
    let x3 := (mulF (mulF x x).1 x).1
    let z := (mulF gC (fmaF gA x3 x).1).1
    let t := (tanhS z).1
    let (r, f) := mulF (mulF 0x3F000000 x).1 (addF oneF t).1
    (r, finalFlags f)

/-- A Sernal variant by its function number; `none` where the library in force holds none. -/
def sernalFn (fnum : Nat) : Option (F32 → F32 × Flags) :=
  match fnum with
  | 0x40 => some expS
  | 0x42 => some lnS
  | 0x44 => some rsqrtS
  | 0x46 => some recipS
  | 0x47 => some tanhS
  | 0x48 => some sigmoidS
  | 0x4A => some geluTanhS
  | _ => none

/-- SCMFN of a library function (Table 6.5). -/
def sernalOf (fnum : Nat) : Option Nat :=
  match fnum with
  | 0x00 => some 0x40 | 0x02 => some 0x42 | 0x04 => some 0x44 | 0x06 => some 0x46
  | 0x07 => some 0x47 | 0x08 => some 0x48 | 0x0A => some 0x4A
  | _ => none

/-- A library number that holds a valid function (R150). -/
def libValid (fnum : Nat) : Bool := (libActions fnum).isSome || (sernalFn fnum).isSome

/-- The function a slot or stage is bound to, applied to one input. -/
def FnRef.run (f : FnRef) (x : F32) : F32 × Flags :=
  match f with
  | .lib n =>
    match sernalFn n with
    | some g => g x
    | none => libFn n x
  | .user _ _ img tbls => runMicro img tbls x

/-- EXP, LN and RSQRT of the fixed operations; the Sernal variants in compatibility mode. -/
def expFn (scm : Bool) (x : F32) : F32 × Flags := if scm then expS x else libFn 0x00 x
def lnFn (x : F32) : F32 × Flags := libFn 0x02 x
def rsqrtFn (scm : Bool) (x : F32) : F32 × Flags := if scm then rsqrtS x else libFn 0x04 x

/-! ## Function images (R143, R148) -/

/-- Steps of an image from its bytes. -/
def parseStep (w : Nat) : MicroStep :=
  { kind := fld w 63 60, mode := fld w 59 56, dst := fld w 55 52, srcA := fld w 51 48, srcB := fld w 47 44,
    tbl := fld w 43 40, base := fld w 39 30 }

def imageSteps (bs : List Byte) : Nat := (leAt bs 0 1) % 16 + 1

def parseImage (bs : List Byte) : FnImage :=
  let lo := leAt bs 0 8
  let all := leAt bs 0 16
  { scmFn := fld all 79 72, act := (List.range 9).map (fun k => fld all (39 + 4 * k) (36 + 4 * k)),
    steps := (List.range (lo % 16 + 1)).map (fun i => parseStep (leAt bs (16 + 8 * i) 8)) }

/-- Weight of a step (Table 6.4). -/
def MicroStep.weight (s : MicroStep) : Nat :=
  match s.kind with
  | 1 => 1
  | 2 => 1
  | 3 => (s.mode + 2) / 2
  | _ => if s.mode ≤ 3 then 1 else 0

def MicroStep.ok (s : MicroStep) : Bool :=
  decide (s.dst ≤ 7) && decide (s.srcA ≤ 7) && decide (s.srcB ≤ 7) &&
    (match s.kind with
     | 1 => decide (s.mode ≤ 3) && decide (s.dst ≤ 6)
     | 2 => decide (1 ≤ s.mode) && decide (s.mode ≤ 10) && decide (s.dst ≤ 6)
     | 3 => decide (1 ≤ s.mode) && decide (s.mode ≤ 12)
     | 4 => decide (s.mode ≤ 6)
     | _ => false)

/-- A valid user function image (R148). -/
def imageOk (bs : List Byte) : Bool :=
  let all := leAt bs 0 16
  let img := parseImage bs
  fld all 127 80 == 0 && fld all 35 4 == 0 && img.scmFn == 0xFF && img.act.all (fun a => decide (a ≤ 8))
    && (List.range img.steps.length).all (fun i => leAt bs (16 + 8 * i) 8 % 2 ^ 30 == 0)
    && img.steps.all MicroStep.ok && decide ((img.steps.map MicroStep.weight).sum ≤ 16)

/-- Table entries a step can reach, past BASE (R157); 0 for a step that reads no table. -/
def MicroStep.reach (s : MicroStep) : Nat :=
  match s.kind with
  | 1 => if s.mode ≤ 1 then s.base + 3 else 0
  | 2 => s.base + 2 ^ (s.mode + 1)
  | 3 => s.base + s.mode + 1
  | _ => 0

end Sys2Proof.Machine
end

