-- ==== Sys2Proof/Machine/Lanes.lean ====
section
/-! DEFINITION. The lanes of the vector engine: stage codes and their validity (R115 to R123, R159), and
the stages of a chain applied to one row (R114, R123 to R137, R160 to R166). -/
namespace Sys2Proof.Machine
open Sys2Proof

/-! ## Lane types and stage codes -/

/-- A stage code with the SOPk byte that goes with it (Tables 2.9, 5.1). -/
structure StageCode where
  op : Nat
  bsrc : Nat
  creg : Nat
  hw : Bool
  hreg : Nat
  pk : Bool
  pm : Bool
  rev : Bool
  ci : Bool
  opnd : Nat
  sop : Nat
  deriving DecidableEq, Repr

/-- A stage code; an inline scalar operand codes its SOPk byte in OPND[7:0] (Table 5.2). -/
def parseStage (inline : Bool) (w sop : Nat) : StageCode :=
  let bsrc := fld w 23 21
  let opnd := fld w 11 0
  { op := fld w 31 24, bsrc := bsrc, creg := fld w 20 19, hw := bit w 18, hreg := fld w 17 16,
    pk := bit w 15, pm := bit w 14, rev := bit w 13, ci := bit w 12, opnd := opnd,
    sop := if inline then (if bsrc = 1 then opnd % 256 else 0) else sop }

/-- What kind of stage an operation is. -/
inductive StageKind where
  | arith | bits | cmp | int | cvt | scan | compress | expand | final | bcast | fn | norm
  deriving DecidableEq, Repr

/-- What an operation requires and produces (Tables 5.4 and 6.6): kind, input type (`none`: any), operand B
taken, permitted in Sernal compatibility mode. -/
structure StageInfo where
  kind : StageKind
  tin : Option LTy
  b : Bool
  scm : Bool
  deriving DecidableEq, Repr

def stageInfo (op : Nat) : Option StageInfo :=
  if 0x01 ≤ op ∧ op ≤ 0x07 then some ⟨.arith, some .f, true, true⟩
  else if op = 0x08 ∨ op = 0x09 then some ⟨.bits, some .f, false, true⟩
  else if 0x0A ≤ op ∧ op ≤ 0x0C then some ⟨.bits, none, true, true⟩
  else if 0x10 ≤ op ∧ op ≤ 0x16 then some ⟨.cmp, some .f, true, true⟩
  else if op = 0x17 then some ⟨.cmp, none, false, true⟩
  else if op = 0x2A then some ⟨.int, some .i, false, true⟩
  else if 0x20 ≤ op ∧ op ≤ 0x30 then some ⟨.int, some .i, true, true⟩
  else if op = 0x38 then some ⟨.cvt, some .f, false, true⟩
  else if op = 0x39 then some ⟨.cvt, some .i, false, true⟩
  else if 0x40 ≤ op ∧ op ≤ 0x42 then some ⟨.scan, some .f, false, true⟩
  else if op = 0x43 ∨ op = 0x44 then some ⟨.scan, some .f, false, false⟩
  else if op = 0x48 then some ⟨.compress, none, false, false⟩
  else if op = 0x49 then some ⟨.expand, none, false, false⟩
  else if 0x50 ≤ op ∧ op ≤ 0x55 then some ⟨.final, some .f, false, true⟩
  else if op = 0x56 then some ⟨.final, some .f, false, false⟩
  else if 0x58 ≤ op ∧ op ≤ 0x5B then some ⟨.bcast, some .f, false, true⟩
  else if op = 0x5C then some ⟨.bcast, some .f, false, false⟩
  else if op = 0x60 then some ⟨.fn, some .f, false, true⟩
  else if op = 0x61 ∨ op = 0x62 then some ⟨.norm, some .f, true, true⟩
  else if op = 0x63 ∨ op = 0x64 then some ⟨.norm, some .f, false, true⟩
  else if op = 0x65 then some ⟨.norm, some .f, false, false⟩
  else if op = 0x66 then some ⟨.norm, some .f, true, false⟩
  else if op = 0x67 then some ⟨.norm, some .f, true, true⟩
  else none

/-- OPND names a carry, count or mask tensor, or a function, when BSRC is 0b000 (Tables 5.4, 6.6). -/
def opndUsed (op : Nat) : Bool := (0x40 ≤ op && op ≤ 0x44) || op == 0x48 || op == 0x49 || op == 0x60 || op == 0x65

/-- Stages that read or write a carry tensor. -/
def StageCode.carry (s : StageCode) : Bool := ((0x40 ≤ s.op && s.op ≤ 0x44) && s.opnd != 0) || s.op == 0x65

/-- Stages that write a count tensor or read a mask tensor. -/
def StageCode.countMask (s : StageCode) : Bool := (s.op == 0x48 && s.opnd != 0) || s.op == 0x49

/-- Row-broadcast reductions, with the stages that R159 counts as such. -/
def StageCode.rowWide (s : StageCode) : Bool :=
  (0x58 ≤ s.op && s.op ≤ 0x5C) || s.op == 0x61 || s.op == 0x62 || s.op == 0x64 || s.op == 0x65

/-- Rules on one stage that depend on nothing else (R116 to R118, R131, R159, R166). REV on a stage that is no scan, CI on
one that reads no carry-in, and a side or row tensor with OPND 0 make the chain invalid.
DEDUCED, log entry 119. -/
def StageCode.ok (s : StageCode) (i : StageInfo) (inline scm : Bool) : Bool :=
  let kind := s.sop / 64
  (i.b == (s.bsrc != 0)) && s.bsrc != 7
    && (s.bsrc != 0 || s.opnd == 0 || opndUsed s.op)
    && (s.bsrc != 1 || (if inline then s.opnd / 256 == 0 else s.opnd == 0))
    && (s.bsrc != 3 || s.opnd / 4 == 0) && (s.bsrc != 5 || s.opnd == 0)
    && ((s.bsrc != 2 && s.bsrc != 6) || s.opnd != 0)
    && kind != 3 && ((kind != 0) == (s.bsrc == 1))
    && !(kind == 1 && i.tin == some .i)
    && (!s.rev || i.kind == .scan)
    && (!s.ci || ((i.kind == .scan || s.op == 0x65) && s.opnd != 0))
    && (!(s.op == 0x0B || s.op == 0x66) || !s.pm)
    && (!(s.op == 0x0C || i.kind == .bcast || s.op == 0x61) || s.hw)
    && (s.op != 0x62 || !s.hw)
    && (!(s.op == 0x61 || s.op == 0x62) || (s.bsrc != 2 && s.bsrc != 5))
    && (s.op != 0x66 || s.bsrc == 6 || (s.bsrc == 1 && kind == 2))
    && (s.op != 0x60 || s.opnd / 256 == 0)
    && (!(s.op == 0x49 || s.op == 0x65) || s.opnd != 0)
    && (!scm || (i.scm && (s.op != 0x60 || (sernalOf (s.opnd % 256)).isSome)))

/-- Lane type of a format: of a chain's input, and of the elements of a side or row tensor (R115). -/
def laneOf (fmt : Nat) (pk : Bool) : LTy := if isIntFmt fmt then .i else if pk then .p else .f

/-- Lane type of a slot's input: an inline slot's stages are FP32 only, and an input of any chain format is converted to
FP32 (R114, R115, R121).
DEDUCED, log entry 119. -/
def inputLane (inline : Bool) (fmt : Nat) (pk : Bool) : LTy := if inline then .f else laneOf fmt pk

/-- Types as they run through the stages: of x, and of the held values (`none`: matches any type). -/
structure TypeState where
  x : Option LTy
  h : List (Option LTy)
  deriving DecidableEq, Repr

/-- Type of operand B as MOV produces it (R115). `tens` is the type of a tensor's elements, when known. A scalar of a
packed stage is packed BF16, as R118 rounds it.
DEDUCED, log entry 119. -/
def bType (s : StageCode) (ts : TypeState) (lane0 : LTy) (tens : Option LTy) : Option LTy :=
  match s.bsrc with
  | 1 => if s.pk then some .p else if s.sop / 64 = 2 then some .i else some .f
  | 3 => ts.h.getD (s.opnd % 4) none
  | 5 => some lane0
  | 4 => ts.x
  | _ => tens

def agrees (a b : Option LTy) : Bool :=
  match a, b with
  | some x, some y => x == y
  | _, _ => true

/-- The types after one stage; `none` when they do not agree (R115, R119). A MOV from a held value that was never written
leaves x its type.
DEDUCED, log entry 119. -/
def stageTypes (s : StageCode) (i : StageInfo) (lane0 : LTy) (tens : Option LTy) (ts : TypeState) :
    Option TypeState :=
  let want : Option LTy := match i.tin with
    | some .f => if s.pk then some .p else some .f
    | t => t
  let bt := bType s ts lane0 tens
  let raw := s.op == 0x0A || s.op == 0x0C
  let isTensor := s.bsrc == 2 || s.bsrc == 6
  let bOk :=
    if !i.b || raw then true
    else if s.op == 0x0B then agrees bt ts.x
    else if s.op == 0x66 then (!isTensor || agrees tens (some .i))
    else if s.bsrc == 1 || s.bsrc == 4 then true
    else agrees bt want
  let cOk := if s.op == 0x05 || s.op == 0x43 then agrees (ts.h.getD s.creg none) want
    else if s.op == 0x49 then agrees (ts.h.getD s.creg none) ts.x
    else if s.op == 0x63 then agrees (ts.h.getD s.creg none) (some .f) && agrees (ts.h.getD s.hreg none) (some .f)
    else true
  if !agrees ts.x want || !bOk || !cOk then none
  else
    let x : Option LTy :=
      if s.op == 0x0A then (if bt.isSome then bt else if s.bsrc == 3 then ts.x else none)
      else if s.op == 0x53 || s.op == 0x54 || s.op == 0x38 then some .i
      else if s.op == 0x39 then some .f
      else if want.isSome then want else ts.x
    let h :=
      if i.kind == .bcast then ts.h.set s.hreg (some .f)
      else if s.op == 0x0C then ts.h.set s.hreg bt
      else if s.op == 0x61 then (ts.h.set s.hreg (some .f)).set s.creg (some .f)
      else if s.op == 0x62 then ts.h.set s.creg (some .f)
      else if s.hw then ts.h.set s.hreg x else ts.h
    some ⟨x, h⟩

/-- Types through a whole chain: the state before each stage and after the last. -/
def chainTypes (lane0 : LTy) (tens : StageCode → Option LTy) :
    TypeState → List StageCode → Option (List TypeState × TypeState)
  | ts, [] => some ([], ts)
  | ts, s :: r =>
    match stageInfo s.op with
    | none => none
    | some i =>
      match stageTypes s i lane0 (tens s) ts with
      | none => none
      | some ts' =>
        match chainTypes lane0 tens ts' r with
        | none => none
        | some (l, e) => some (ts :: l, e)

def startTypes (lane0 : LTy) : TypeState := ⟨some lane0, [none, none, none, none]⟩

/-- Stages after the first final reduction. -/
def afterFinal : List StageCode → List StageCode
  | [] => []
  | s :: r => if 0x50 ≤ s.op ∧ s.op ≤ 0x56 then r else afterFinal r

/-- The limits of Table 5.3 that depend on no register and no extent, and the types of R115 where tensor
formats are not known yet. -/
def chainOk (inline scm : Bool) (fmtIn fmtOut : Nat) (ss : List StageCode)
    (tens : StageCode → Option LTy) : Bool :=
  let pk := (ss.head?.map (·.pk)).getD false
  let lane0 := inputLane inline fmtIn pk
  let cnt (p : StageCode → Bool) : Nat := (ss.filter p).length
  (inline || (fmtOk fmtIn && fmtOk fmtOut))
    && ss.all (fun s => match stageInfo s.op with
        | none => false
        | some i => s.ok i inline scm && s.pk == pk &&
            (!pk || i.kind == .arith || i.kind == .bits || i.kind == .cmp))
    && (!pk || (!inline && fmtIn == 0x7))
    && decide (cnt (fun s => s.bsrc == 2 || s.bsrc == 6) ≤ 2)
    && decide (cnt StageCode.carry ≤ 1) && decide (cnt StageCode.countMask ≤ 1)
    && decide (cnt (fun s => 0x60 ≤ s.op && s.op ≤ 0x67) ≤ 2)
    && decide (cnt (fun s => 0x40 ≤ s.op && s.op ≤ 0x44) ≤ 1)
    && decide (cnt (fun s => s.op == 0x48 || s.op == 0x49) ≤ 1)
    && decide (cnt StageCode.rowWide ≤ 2)
    && decide (cnt (fun s => 0x50 ≤ s.op && s.op ≤ 0x56) ≤ 1)
    && (afterFinal ss).all (fun s => (s.bsrc == 0 || s.bsrc == 1 || s.bsrc == 3 || s.bsrc == 4) && !s.pm)
    && (!ss.any (fun s => s.op == 0x53 || s.op == 0x54) || inline || fmtOut == 0xB)
    && (match chainTypes lane0 tens (startTypes lane0) ss with
        | none => false
        | some (tys, e) => !inline || (tys ++ [e]).all (fun t =>
            agrees t.x (some .f) && t.h.all (fun h => agrees h (some .f))))

/-- What R41 and R122 require of a chain record at load, where tensor formats are not known. -/
def ChainRec.stageCodes (r : ChainRec) : List StageCode :=
  ((r.stages.take r.nstg).zip r.sops).map (fun p => parseStage false p.1 p.2)

def ChainRec.ok (r : ChainRec) : Bool := chainOk false r.scm r.fmtIn r.fmtOut r.stageCodes (fun _ => none)

/-! ## Elements of a row -/

/-- The state of one element (R114): x, held values, predicate, and the value it entered with. -/
structure Elem where
  x : U32
  x0 : U32
  h : List U32
  p : Bool
  deriving DecidableEq, Repr

def Elem.held (e : Elem) (k : Nat) : U32 := e.h.getD k 0
def Elem.enter (x : U32) : Elem := ⟨x, x, [0, 0, 0, 0], true⟩
def Elem.blank : Elem := ⟨0, 0, [0, 0, 0, 0], false⟩

/-- The data one stage takes from outside the lanes for one row. -/
inductive RowB where
  | none
  | scalarF (v : F32)
  | scalarI (v : U64)
  /-- A side tensor's elements of this row as lane values, each with the flags of its read and conversion. -/
  | side (xs : List (U32 × Flags))
  /-- The row tensor's element of this row. -/
  | row (x : U32 × Flags)
  | held (k : Nat)
  | imm (v : Int)
  | x0
  deriving DecidableEq, Repr

/-- One stage prepared for one row. -/
structure RowStage where
  op : Nat
  creg : Nat
  hw : Bool
  hreg : Nat
  pk : Bool
  pm : Bool
  rev : Bool
  ci : Bool
  b : RowB
  fn : Option FnRef
  theta : List U32
  /-- Lane types of x before the stage and of its B. -/
  tx : LTy
  tb : LTy
  /-- Carry-in entries of the row, and the mask row of EXPAND. -/
  carry : F32 × F32
  mask : List Int
  /-- The stage names a carry or count tensor. -/
  aux : Bool
  /-- The row's index within the slot. -/
  rowIdx : Nat
  deriving DecidableEq, Repr

/-- What a row leaves behind besides its elements. -/
structure RowOut where
  els : List Elem
  flags : Flags := 0
  empty : Nat := 0
  sat : Nat := 0
  clamp : Nat := 0
  pos : Nat := 0
  carry : Option (F32 × F32) := none
  count : Option Nat := none
  deriving DecidableEq, Repr

/-! ## Operand B -/

def satI32 (v : Int) : U32 × Flags :=
  if v > 2147483647 then (0x7FFFFFFF, fIntSat)
  else if v < -2147483648 then (0x80000000, fIntSat)
  else (BitVec.ofInt 32 v, 0)

/-- A value brought into a lane (R118, R119, R127). -/
def numToLane (ty : LTy) (x : Num) : U32 × Flags :=
  match ty with
  | .f => x.toF32
  | .p => let (k, f) := encodeElem 0x7 x .rne; (BitVec.ofNat 32 (k * 2 ^ 16), f)
  | .i => satI32 (match x with
      | .fin s m e => let v := dyToInt ⟨if s then -(m : Int) else m, e⟩ .rne; v.1
      | _ => 0)

/-- Operand B of an element, as a value of lane type `ty`. -/
def RowB.value (b : RowB) (ty : LTy) (i : Nat) (e : Elem) : U32 × Flags :=
  match b with
  | .none => (0, 0)
  | .scalarF v => if ty == .p then numToLane .p (F32.num v) else (v, 0)
  | .scalarI v =>
    match ty with
    | .i => satI32 v.toInt
    | .f => f32OfInt v.toInt
    | .p => let (x, f) := f32OfInt v.toInt; let (y, g) := numToLane .p (F32.num x); (y, f ||| g)
  | .side xs => xs.getD i (0, 0)
  | .row x => x
  | .held k => (e.held k, 0)
  | .imm v => if ty == .i then (BitVec.ofInt 32 v, 0) else numToLane ty (.fin (decide (v < 0)) v.natAbs 0)
  | .x0 => (e.x0, 0)

/-! ## Element-wise stages -/

/-- A binary stage with the NaN order of R124: x, then B. -/
def binF (f : F32 → F32 → F32 × Flags) (x b : F32) : F32 × Flags :=
  match nanOf [x, b] with
  | some r => r
  | none => f x b

def cmpRel (op : Nat) (x b : F32) : Bool :=
  if op = 0x16 then isNaN x || isNaN b
  else if isNaN x || isNaN b then op == 0x11
  else
    match op with
    | 0x10 => eqF x b
    | 0x11 => !eqF x b
    | 0x12 => ltF x b
    | 0x13 => leF x b
    | 0x14 => ltF b x
    | _ => leF b x

/-- An integer stage: result and whether it saturated (R126). -/
def intOp (op : Nat) (x b : U32) : U32 × Flags :=
  match op with
  | 0x20 => (x + b, 0)
  | 0x21 => (x - b, 0)
  | 0x22 => satI32 (x.toInt + b.toInt)
  | 0x23 => satI32 (x.toInt - b.toInt)
  | 0x24 => satI32 (x.toInt * b.toInt)
  | 0x25 => (if b.slt x then b else x, 0)
  | 0x26 => (if x.slt b then b else x, 0)
  | 0x27 => (x &&& b, 0)
  | 0x28 => (x ||| b, 0)
  | 0x29 => (x ^^^ b, 0)
  | 0x2A => (~~~x, 0)
  | 0x2B => (x <<< (b.toNat % 32), 0)
  | 0x2C => (x >>> (b.toNat % 32), 0)
  | 0x2D => (x.sshiftRight (b.toNat % 32), 0)
  | _ => (x, 0)

/-- The stage's effect on one element whose stage acts on it: x, p and flags. -/
def elemOp (s : RowStage) (i : Nat) (e : Elem) : Elem × Flags :=
  let (b, bf) := s.b.value s.tb i e
  let c := e.held s.creg
  let pk := s.pk
  let setX (r : F32 × Flags) : Elem × Flags := ({ e with x := r.1 }, r.2 ||| bf)
  let setP (p : Bool) (f : Flags) : Elem × Flags := ({ e with p := if s.pm then e.p && p else p }, f ||| bf)
  let snan : Flags := if isSNaN e.x || isSNaN b then fInvalid else 0
  match s.op with
  | 0x01 => setX (binF (addL pk) e.x b)
  | 0x02 => setX (binF (subL pk) e.x b)
  | 0x03 => setX (binF (fun x b => subL pk b x) e.x b)
  | 0x04 => setX (binF (mulL pk) e.x b)
  | 0x05 => setX (fmaL pk e.x b c)
  | 0x06 => setX (maxF e.x b)
  | 0x07 => setX (minF e.x b)
  | 0x08 => setX (absF e.x, 0)
  | 0x09 => setX (negF e.x, 0)
  | 0x0A => setX (b, 0)
  | 0x0B => setX (if e.p then e.x else b, 0)
  | 0x0C => ({ e with h := e.h.set s.hreg b }, bf)
  | 0x17 => ({ e with p := !e.p }, bf)
  | 0x2E => setP (e.x == b) 0
  | 0x2F => setP (e.x.slt b) 0
  | 0x30 => setP (e.x.sle b) 0
  | 0x38 =>
    let (k, f) := encodeElem 0xB (F32.num e.x) .rne
    setX (BitVec.ofNat 32 k, f)
  | 0x39 => setX (f32OfInt e.x.toInt)
  | 0x60 =>
    match s.fn with
    | some f => setX (f.run e.x)
    | none => (e, 0)
  | 0x63 =>
    let (d, f) := subF e.x (e.held s.hreg)
    let (r, g) := mulF d c
    setX (r, f ||| g)
  | 0x67 => setX (binF divF e.x b)
  | op => if 0x10 ≤ op ∧ op ≤ 0x16 then setP (cmpRel op e.x b) snan else setX (intOp op e.x b)

/-- HW: the stage's x result is also written to h[HREG] (Table 5.1). -/
def heldWrite (s : RowStage) (e : Elem) : Elem :=
  if s.hw && s.op != 0x0C && s.op != 0x61 && !(0x58 ≤ s.op && s.op ≤ 0x5C)
  then { e with h := e.h.set s.hreg e.x } else e

/-- An integer stage saturates on this element (R126, Table 5.10). -/
def satElem (s : RowStage) (i : Nat) (e : Elem) : Bool :=
  0x22 ≤ s.op && s.op ≤ 0x24 && (intOp s.op e.x (s.b.value s.tb i e).1).2 &&& fIntSat != 0

/-- An element-wise stage over a row. With PM, an element whose p is false is left alone (R125). -/
def mapStage (s : RowStage) (els : List Elem) : RowOut :=
  let es := (List.range els.length).zip els
  let rs := es.map (fun ie =>
    if s.pm && !ie.2.p then (ie.2, (0 : Flags))
    else let (e, f) := elemOp s ie.1 ie.2; (heldWrite s e, f))
  { els := rs.map Prod.fst, flags := rs.foldl (fun f r => f ||| r.2) 0,
    sat := (es.filter (fun ie => !(s.pm && !ie.2.p) && satElem s ie.1 ie.2)).length }

/-! ## Groups -/

/-- A list cut into groups of `k` (k > 0), in order. -/
def chunks {α : Type} (k : Nat) : Nat → List α → List (List α)
  | 0, _ => []
  | _, [] => []
  | n + 1, x :: r => (x :: r).take k :: chunks k n ((x :: r).drop k)

def groupsOf {α : Type} (k : Nat) (xs : List α) : List (List α) := chunks k xs.length xs

/-- The active elements' x values (R133). -/
def activeX (pm : Bool) (els : List Elem) : List (Bool × F32) := els.map (fun e => (!pm || e.p, e.x))

def actives (g : List (Bool × F32)) : List F32 := (g.filter Prod.fst).map Prod.snd

/-- Sums of R133 over active elements: groups of 32 summed exactly, one rounding each. -/
def rsum (xs : List (Bool × F32)) : Option F32 × Flags :=
  (groupsOf 32 xs).foldl (fun (st : Option F32 × Flags) g =>
    let a := actives g
    if a.isEmpty then st
    else
      let (s, f) := exactSum a
      let (r, f2) := match st.1 with
        | none => roundSum s
        | some acc => addSum acc s
      (some r, st.2 ||| f ||| f2)) (none, 0)

/-- Exact sum of squares of a group (R160). -/
def exactSquares (xs : List F32) : ESum × Flags :=
  match nanOf xs with
  | some (r, f) => (.special r, f)
  | none =>
    if xs.any isInf then (.special (infF false), 0)
    else (.exact (xs.foldl (fun d x => d.add ((F32.dy x).mul (F32.dy x))) Dy.zero) false, 0)

def rsumSquares (xs : List (Bool × F32)) : Option F32 × Flags :=
  (groupsOf 32 xs).foldl (fun (st : Option F32 × Flags) g =>
    let a := actives g
    if a.isEmpty then st
    else
      let (s, f) := exactSquares a
      let (r, f2) := match st.1 with
        | none => roundSum s
        | some acc => addSum acc s
      (some r, st.2 ||| f ||| f2)) (none, 0)

/-- One level of a pairwise tree. -/
def treeLevel : List F32 → List F32 × Flags
  | a :: b :: r =>
    let (s, f) := addF a b
    let (t, g) := treeLevel r
    (s :: t, f ||| g)
  | xs => (xs, 0)

/-- A chunk of 1,024 elements summed by ten levels (R137). -/
def treeSum (xs : List F32) : F32 × Flags :=
  let full := xs ++ List.replicate (1024 - xs.length) (zeroF false)
  let (r, f) := (List.range 10).foldl (fun (st : List F32 × Flags) _ =>
    let (l, f) := treeLevel st.1; (l, st.2 ||| f)) (full, 0)
  (r.headD 0, f)

/-- Sums of R137 in compatibility mode: masked elements enter as +0. -/
def rsumScm (xs : List (Bool × F32)) : Option F32 × Flags :=
  if (actives xs).isEmpty then (none, 0)
  else
    (groupsOf 1024 xs).foldl (fun (st : Option F32 × Flags) g =>
      let (s, f) := treeSum (g.map (fun e => if e.1 then e.2 else zeroF false))
      match st.1 with
      | none => (some s, st.2 ||| f)
      | some acc => let (r, f2) := addF acc s; (some r, st.2 ||| f ||| f2)) (none, 0)

def sumOf (scm : Bool) (xs : List (Bool × F32)) : Option F32 × Flags := if scm then rsumScm xs else rsum xs

/-- Extreme of the active elements (R134); the lowest-index NaN wins. -/
def extreme (max : Bool) (xs : List F32) : F32 × Flags :=
  match nanOf xs with
  | some r => r
  | none => (xs.foldl (fun a x => if (if max then gtZ x a else gtZ a x) then x else a)
              (xs.headD 0), 0)

/-! ## Reductions (R132 to R136) -/

/-- Result of a reduction over a row, its flags, and whether the row was empty. `kind`: 0 sum, 1 max,
2 min, 3 argmax, 4 argmin, 5 mean, 6 log-sum-exp. -/
def reduce (kind : Nat) (scm : Bool) (xs : List (Bool × F32)) : F32 × Flags × Bool :=
  let a := actives xs
  if a.isEmpty then
    (match kind with
     | 0 => zeroF false
     | 1 | 6 => infF true
     | 2 => infF false
     | 5 => emptyNaN
     | _ => 0xFFFFFFFF, fEmptyRed, true)
  else
    match kind with
    | 0 => let (s, f) := sumOf scm xs; (s.getD 0, f, false)
    | 1 => let (s, f) := extreme true a; (s, f, false)
    | 2 => let (s, f) := extreme false a; (s, f, false)
    | 5 =>
      let (s, f) := sumOf scm xs
      let (r, g) := divF (s.getD 0) (natF a.length)
      (r, f ||| g, false)
    | 6 =>
      let (m, f) := extreme true a
      if isNaN m || isInf m then (m, f, false)
      else
        let es := xs.map (fun e =>
          if e.1 then
            let (d, f1) := subF e.2 m
            let (y, f2) := libFn 0x00 d
            ((true, y), f1 ||| f2)
          else ((false, (0 : F32)), (0 : Flags)))
        let fe := es.foldl (fun f e => f ||| e.2) f
        let (s, f3) := rsum (es.map Prod.fst)
        let (l, f4) := lnFn (s.getD 0)
        let (r, f5) := addF m l
        (r, fe ||| f3 ||| f4 ||| f5, false)
    | k =>
      let (m, f) := extreme (k == 3) a
      let idx := (List.range xs.length).zip xs |>.find? (fun p =>
        p.2.1 && (if isNaN m then isNaN p.2.2 else (p.2.2 == m)))
      (BitVec.ofNat 32 ((idx.map Prod.fst).getD 0), f, false)

/-! ## Scans (R130, R131) -/

/-- The two components a scanned element contributes: its coefficient and its value. -/
structure ScanElem where
  act : Bool
  a : F32
  x : F32
  deriving DecidableEq, Repr

/-- State within a scan: carry c and product A; within a group, the prefix and product. -/
structure ScanState where
  c : F32
  prod : F32
  flags : Flags
  deriving DecidableEq, Repr

/-- The exact local sum of SCANADD after one more element. `l` holds the elements summed so far and the
NaN that the sum has become, which later elements leave as it is (R130, R124).
DEDUCED, log entry 52. -/
def scanLocal (l : List F32 × Option F32) (x : F32) : (List F32 × Option F32) × ESum × Flags :=
  match l.2 with
  | some v => (l, .special v, if isSNaN x then fInvalid else 0)
  | none =>
    let taken := l.1 ++ [x]
    let (s, f) := exactSum taken
    match s with
    | .special v => ((taken, if isNaN v then some v else none), s, f)
    | .exact _ _ => ((taken, none), s, f)

/-- One group of SCANADD in native mode: outputs, and the carry after it.
DEDUCED, log entry 52. -/
def scanAddGroup (c : F32) (g : List ScanElem) : List F32 × F32 × Flags :=
  let step (st : (List F32 × Option F32) × List F32 × Flags) (e : ScanElem) :
      (List F32 × Option F32) × List F32 × Flags :=
    let (l, s, f) := scanLocal st.1 e.x
    let (h, f2) := addSum c s
    (l, st.2.1 ++ [h], st.2.2 ||| f ||| f2)
  let (_, hs, f) := g.foldl step (([], none), [], 0)
  (hs, hs.getLastD c, f)

/-- A running scan that needs no group state: SCANMAX, SCANMIN and SCANADD in compatibility mode. -/
def scanRun (f : F32 → F32 → F32 × Flags) (c : F32) (g : List ScanElem) : List F32 × F32 × Flags :=
  g.foldl (fun (st : List F32 × F32 × Flags) e =>
    let (r, fl) := f st.2.1 e.x
    (st.1 ++ [r], r, st.2.2 ||| fl)) ([], c, 0)

/-- One group of SCANLIN: outputs, carry, product of coefficients, flags. -/
def scanLinGroup (c : F32) (g : List ScanElem) : List F32 × F32 × F32 × Flags :=
  let (hs, _, p, f) := g.foldl (fun (st : List F32 × F32 × F32 × Flags) e =>
    let (hs, l, p, fl) := st
    let (l', f1) := fmaF e.a l e.x
    let (p', f2) := mulF p e.a
    let (h, f3) := fmaF p' c l'
    (hs ++ [h], l', p', fl ||| f1 ||| f2 ||| f3)) ([], zeroF false, oneF, 0)
  (hs, hs.getLastD c, p, f)

/-- One group of SCANMUL. -/
def scanMulGroup (c : F32) (g : List ScanElem) : List F32 × F32 × Flags :=
  let (hs, _, f) := g.foldl (fun (st : List F32 × F32 × Flags) e =>
    let (hs, p, fl) := st
    let (p', f1) := mulF p e.x
    let (h, f2) := mulF c p'
    (hs ++ [h], p', fl ||| f1 ||| f2)) ([], oneF, 0)
  (hs, hs.getLastD c, f)

/-- Identity of a scan. -/
def scanIdentity (op : Nat) : F32 :=
  match op with
  | 0x41 => infF true
  | 0x42 => infF false
  | 0x44 => oneF
  | _ => zeroF false

/-- A scan stage over a row. -/
def scanStage (scm : Bool) (s : RowStage) (els : List Elem) : RowOut :=
  let order := if s.rev then els.reverse else els
  let es : List ScanElem := order.map (fun e =>
    let act := !s.pm || e.p
    { act := act, a := if act then e.held s.creg else oneF, x := if act then e.x else scanIdentity s.op })
  let c0 := if s.ci then s.carry.2 else scanIdentity s.op
  let (hs, c, prod, f) := (groupsOf 32 es).foldl (fun (st : List F32 × F32 × F32 × Flags) g =>
    let (hs, c, prod, fl) := st
    match s.op with
    | 0x40 =>
      let (o, c', f) := if scm then scanRun addF c g else scanAddGroup c g
      (hs ++ o, c', prod, fl ||| f)
    | 0x41 => let (o, c', f) := scanRun maxF c g; (hs ++ o, c', prod, fl ||| f)
    | 0x42 => let (o, c', f) := scanRun minF c g; (hs ++ o, c', prod, fl ||| f)
    | 0x43 =>
      let (o, c', p, f) := scanLinGroup c g
      let (prod', f2) := mulF prod p
      (hs ++ o, c', prod', fl ||| f ||| f2)
    | _ => let (o, c', f) := scanMulGroup c g; (hs ++ o, c', prod, fl ||| f)) ([], c0, oneF, 0)
  let out := (order.zip hs).map (fun p =>
    if !s.pm || p.1.p then heldWrite s { p.1 with x := p.2 } else p.1)
  { els := if s.rev then out.reverse else out, flags := f,
    carry := if s.aux then some (if s.op = 0x43 then prod else zeroF false, c) else none }

/-! ## Compress and expand (R128, R129) -/

/-- COMPRESS. The chain input x0 moves with its element, and is 0 in the filled positions.
DEDUCED, log entry 119. -/
def compressStage (s : RowStage) (els : List Elem) : RowOut :=
  let kept := els.filter (·.p)
  let out := kept ++ List.replicate (els.length - kept.length) Elem.blank
  { els := out.map (fun e => if !s.pm || e.p then heldWrite s e else e), flags := 0,
    count := if s.aux then some kept.length else none }

/-- The positions of an EXPAND in order. With PM, an element whose p is false keeps x and its held values (R125); p
follows the mask. -/
def expandFrom (s : RowStage) (els : List Elem) : List Elem → List Int → Nat → List Elem
  | [], _, _ => []
  | e :: r, ms, k =>
    let on := ms.headD 0 ≠ 0
    let x := if on then (els.getD k Elem.blank).x else e.held s.creg
    let e' := if s.pm && !e.p then e else heldWrite s { e with x := x }
    { e' with p := on } :: expandFrom s els r (ms.drop 1) (if on then k + 1 else k)

def expandStage (s : RowStage) (els : List Elem) : RowOut := { els := expandFrom s els els s.mask 0 }

/-! ## Row statistics (R160 to R162) -/

/-- A held operand of a whole row: its value where every element agrees, else a free value, since the
spec does not say whose is read (log entry 20). -/
def rowHeld (open' : Nat → U32) (k : Nat) (els : List Elem) : U32 :=
  match els with
  | [] => open' k
  | e :: r => if r.all (fun y => y.held k == e.held k) then e.held k else open' k

/-- ε of a row.
DESIGN CHOICE, log entry 20. -/
def rowEps (s : RowStage) (open' : Nat → U32) (els : List Elem) : F32 × Flags :=
  match s.b with
  | .held k => (rowHeld open' k els, 0)
  | b => b.value .f 0 Elem.blank

def statStage (scm : Bool) (s : RowStage) (open' : Nat → U32) (els : List Elem) : RowOut :=
  let xs := activeX s.pm els
  let a := actives xs
  let setH (mean rstd : F32) (e : Elem) : Elem :=
    if s.op = 0x61 then { e with h := (e.h.set s.hreg mean).set s.creg rstd } else { e with h := e.h.set s.creg rstd }
  match a with
  | [] => { els := els.map (setH emptyNaN emptyNaN), flags := fEmptyRed, empty := 1 }
  | x1 :: _ =>
    let n := natF a.length
    let (eps, fe) := rowEps s open' els
    let c := if scm || s.op = 0x62 then zeroF false else x1
    let ds := xs.map (fun e => if e.1 then let (d, f) := subF e.2 c; ((true, d), f) else ((false, (0 : F32)), (0 : Flags)))
    let fd := ds.foldl (fun f d => f ||| d.2) (0 : Flags)
    let dv := ds.map Prod.fst
    let (s1, f1) := sumOf scm dv
    let (s2, f2) :=
      if scm then
        let sq := dv.map (fun e => if e.1 then let (q, f) := mulF e.2 e.2; ((true, q), f) else ((false, (0 : F32)), (0 : Flags)))
        let (r, f) := rsumScm (sq.map Prod.fst)
        (r, sq.foldl (fun g q => g ||| q.2) f)
      else rsumSquares dv
    let (q, f3) := divF (s2.getD 0) n
    if s.op = 0x62 then
      let (v, f4) := addF q eps
      let (r, f5) := rsqrtFn scm v
      { els := els.map (setH 0 r), flags := fe ||| fd ||| f2 ||| f3 ||| f4 ||| f5 }
    else
      let (md, f4) := divF (s1.getD 0) n
      let (mean, f5) := addF c md
      let (v0, f6) := if scm then
          let (m2, g1) := mulF md md
          let (v, g2) := subF q m2
          (v, g1 ||| g2)
        else fmaF (minusF md) md q
      let neg := !isNaN v0 && ltF v0 (zeroF false)
      let v := if neg then zeroF false else v0
      let (ve, f7) := addF v eps
      let (r, f8) := rsqrtFn scm ve
      { els := els.map (setH mean r), clamp := b2n neg,
        flags := fe ||| fd ||| f1 ||| f2 ||| f3 ||| f4 ||| f5 ||| f6 ||| f7 ||| f8 ||| (if neg then fVarClamp else 0) }

/-! ## Soft maximum (R163, R164) -/

/-- exp_f of the difference rounded to nearest even. -/
def expDiff (scm : Bool) (x m : F32) : F32 × Flags :=
  let (d, f) := subF x m
  let (y, g) := expFn scm d
  (y, f ||| g)

/-- The online loop over groups: running maximum and sum. -/
def smxLoop (m0 s0 : F32) (xs : List (Bool × F32)) : F32 × F32 × Flags :=
  (groupsOf 32 xs).foldl (fun (st : F32 × F32 × Flags) g =>
    let (m, s, fl) := st
    let a := actives g
    if a.isEmpty || (a.all (fun x => x == infF true) && m == infF true) then st
    else
      let (ma, f0) := extreme true a
      let (mg, f1) := maxF m ma
      let (k, f2) := if m == mg then (oneF, (0 : Flags)) else expDiff false m mg
      let (s1, f3) := mulF s k
      let es := a.map (fun x => expDiff false x mg)
      let fe := es.foldl (fun f e => f ||| e.2) (0 : Flags)
      let (g', f4) := exactSum (es.map Prod.fst)
      let (s2, f5) := addSum s1 g'
      (mg, s2, fl ||| f0 ||| f1 ||| f2 ||| f3 ||| fe ||| f4 ||| f5)) (m0, s0, 0)

/-- A row with y written to every active element and +0 to the rest. -/
def spread (s : RowStage) (els : List Elem) (y : F32 → F32 × Flags) (f0 : Flags) : RowOut :=
  let rs := els.map (fun e =>
    if !s.pm || e.p then let (r, f) := y e.x; (heldWrite s { e with x := r }, f)
    else ({ e with x := zeroF false }, (0 : Flags)))
  { els := rs.map Prod.fst, flags := rs.foldl (fun f r => f ||| r.2) f0 }

def softmaxStage (scm : Bool) (s : RowStage) (els : List Elem) : RowOut :=
  let xs := activeX s.pm els
  let a := actives xs
  if a.isEmpty then { spread s els (fun _ => (zeroF false, 0)) fEmptyRed with empty := 1 }
  else
    match nanOf a with
    | some (v, f) => spread s els (fun _ => (v, 0)) f
    | none =>
      let (mx, _) := extreme true a
      if mx == infF true then spread s els (fun _ => (zeroF false, 0)) 0
      else if mx == infF false then
        let j := (a.filter (fun x => x == infF false)).length
        let (r, f) := divF oneF (natF j)
        spread s els (fun x => if x == infF false then (r, 0) else (zeroF false, 0)) f
      else if scm then
        let es := xs.map (fun e => if e.1 then let (y, f) := expDiff true e.2 mx; ((true, y), f)
          else ((false, (0 : F32)), (0 : Flags)))
        let fe := es.foldl (fun f e => f ||| e.2) (0 : Flags)
        let (sm, f1) := rsumScm (es.map Prod.fst)
        let (inv, f2) := divF oneF (sm.getD 0)
        spread s els (fun x => let (y, g) := expDiff true x mx; let (r, g2) := mulF y inv; (r, g ||| g2)) (fe ||| f1 ||| f2)
      else
        let (m, sm, f) := smxLoop (infF true) (zeroF false) xs
        spread s els (fun x => let (y, g) := expDiff false x m; let (r, g2) := divF y sm; (r, g ||| g2)) f

def smxBlkStage (s : RowStage) (els : List Elem) : RowOut :=
  let xs := activeX s.pm els
  let (m0, s0) := if s.ci then s.carry else (infF true, zeroF false)
  if (actives xs).isEmpty then
    { spread s els (fun _ => (zeroF false, 0)) fEmptyRed with empty := 1, carry := if s.ci then some s.carry else none }
  else
    let (m, sm, f) := smxLoop m0 s0 xs
    { spread s els (fun x => expDiff false x m) f with carry := some (m, sm) }

/-! ## Rotary positions (R166) -/

/-- Largest position plus one. -/
def maxPos : Nat := 4194304

def ropeStage (s : RowStage) (els : List Elem) : RowOut :=
  let p : Int := match s.b with
    | .row x => x.1.toInt
    | .scalarI v => v.toInt + (s.rowIdx : Int)
    | _ => 0
  if p < 0 ∨ (maxPos : Int) ≤ p then
    { els := els.map (fun e => heldWrite s { e with x := qNaN }), flags := fInvalid, pos := 1 }
  else
    let n := els.length
    let xs := els.map (·.x)
    let half := n / 2
    let adj := s.creg % 2 = 0
    let pair (j : Nat) : F32 × F32 :=
      if adj then (xs.getD (2 * j) 0, xs.getD (2 * j + 1) 0) else (xs.getD j 0, xs.getD (j + half) 0)
    let one (j : Nat) : F32 × F32 × Flags :=
      let th := s.theta.getD (j % s.theta.length) 0
      let c := ropeOf true p.toNat th
      let sn := ropeOf false p.toNat th
      let (a, b) := pair j
      let (bs, f1) := mulF b sn
      let (u, f2) := fmaF a c (minusF bs)
      let (bc, f3) := mulF b c
      let (v, f4) := fmaF a sn bc
      let turned := p ≠ 0 ∧ !isZero th
      (u, v, f1 ||| f2 ||| f3 ||| f4 ||| (if turned then fInexact else 0))
    let rs := (List.range half).map one
    let out (i : Nat) : F32 :=
      let r := if adj then rs.getD (i / 2) (0, 0, 0) else rs.getD (i % half) (0, 0, 0)
      if (if adj then i % 2 = 0 else i < half) then r.1 else r.2.1
    { els := (List.range n).zip els |>.map (fun ie => heldWrite s { ie.2 with x := out ie.1 }),
      flags := rs.foldl (fun f r => f ||| r.2.2) 0 }

/-! ## A stage and a chain over one row -/

/-- Index of a reduction operation within its family. -/
def reduceKind (op : Nat) : Nat :=
  match op with
  | 0x58 => 0 | 0x59 => 1 | 0x5A => 2 | 0x5B => 5 | 0x5C => 6
  | op => op - 0x50

def finalStage (scm : Bool) (s : RowStage) (open' : Nat → U32) (els : List Elem) : RowOut :=
  let (r, f, e) := reduce (reduceKind s.op) scm (activeX s.pm els)
  let h := (List.range 4).map (fun k => rowHeld open' k els)
  { els := [heldWrite s ⟨r, 0, h, true⟩], flags := f, empty := b2n e }

def bcastStage (scm : Bool) (s : RowStage) (els : List Elem) : RowOut :=
  let (r, f, e) := reduce (reduceKind s.op) scm (activeX s.pm els)
  { els := els.map (fun x => { x with h := x.h.set s.hreg r }), flags := f, empty := b2n e }

/-- One stage over one row. -/
def rowStage (scm : Bool) (s : RowStage) (open' : Nat → U32) (els : List Elem) : RowOut :=
  match stageInfo s.op with
  | none => { els := els }
  | some i =>
    match i.kind with
    | .scan => scanStage scm s els
    | .compress => compressStage s els
    | .expand => expandStage s els
    | .final => finalStage scm s open' els
    | .bcast => bcastStage scm s els
    | .norm =>
      if s.op = 0x61 ∨ s.op = 0x62 then statStage scm s open' els
      else if s.op = 0x64 then softmaxStage scm s els
      else if s.op = 0x65 then smxBlkStage s els
      else if s.op = 0x66 then ropeStage s els
      else mapStage s els
    | _ => mapStage s els

/-- A row through every stage of a chain; effects outside the lanes add up. -/
def rowChain (scm : Bool) (open' : Nat → U32) (els : List Elem) (ss : List RowStage) : RowOut :=
  ss.foldl (fun (o : RowOut) s =>
    let r := rowStage scm s open' o.els
    { els := r.els, flags := o.flags ||| r.flags, empty := o.empty + r.empty, sat := o.sat + r.sat,
      clamp := o.clamp + r.clamp, pos := o.pos + r.pos,
      carry := if r.carry.isSome then r.carry else o.carry,
      count := if r.count.isSome then r.count else o.count }) { els := els }

end Sys2Proof.Machine
end

