-- ==== Sys2Proof/Machine/Sched.lean ====
section
/-! DEFINITION. Hitches and what follows from them: credits, waits, signals and waiters (R199 to R202),
discarding (R106, R211), poisoning (R210), barrier generations (R207), the end of slots, words, programs
and launches (R49, R50). One change can cause others, so each is a job, and `runJobs` carries out jobs
until none is left. -/
namespace Sys2Proof.Machine
open Sys2Proof

/-- The hitch-map entry of a virtual hitch; `none` when unmapped (R196). -/
def Dev.mapEntry (s : Dev) (c vid : Nat) : Option HEntry := Tab.find (s.ctx c).hmap vid

/-- The hitch an entry names: a physical hitch, or its place in the saved image of its context (R208). -/
def HEntry.key (e : HEntry) : Nat := 32768 * e.saved + hitchKey e.die e.phys.toNat

/-- A change that is still to be carried out. -/
inductive Job where
  /-- A signal of `n` credits through an entry of context `c`. -/
  | raise (c key n : Nat)
  /-- Waiters of a hitch whose thresholds are met wake. -/
  | serve (key : Nat)
  /-- The head entry of engine queue `num` reaches its wait. -/
  | arm (c t num : Nat)
  /-- A hitch enters the DISCARDED state, seen from context `c`. -/
  | discard (c key : Nat)
  /-- A slot ends without its signals, with a status. -/
  | endSlot (c t seq num : Nat) (st : Status)
  /-- A word that sleeps on its hitch-slot wait ends unissued, with a status. -/
  | endWord (c t : Nat) (st : Status)
  /-- Words that are over leave the tile, and its program may end. -/
  | sweep (c t : Nat)
  deriving DecidableEq, Repr

/-! ## Credits and waiters -/

/-- A signal that changes nothing is counted (R202). -/
def Dev.ignoreSignal (s : Dev) (c : Nat) : Dev :=
  s.modCtx c (fun x => { x with ignored := satAdd x.ignored 1 })

/-- A signal of `n` credits reaches a hitch (R199, R202). -/
def Dev.signal (s : Dev) (c key n : Nat) : Dev :=
  let h := s.hitch key
  if h.st != .active || h.barrier then s.ignoreSignal c
  else
    let s := if h.count.toNat + n < 2 ^ 32 then s
             else s.modCtx c (fun x => { x with satCnt := satAdd x.satCnt 1 })
    s.setHitch key { h with count := satAdd h.count n }

/-- How a wait that reaches a hitch fares. -/
inductive WaitResult where
  | taken | sleeps | lost | discarded | never
  deriving DecidableEq, Repr

/-- A wait for `n` credits reaches a hitch (R199, R210, R211): it takes them, or sleeps behind those
already waiting. On a DISCARDED hitch a wait of the context whose slot was discarded is discarded, and another sleeps.
While the SYNC block is quiesced no wait begins (R392).
DEDUCED, log entry 19; DEDUCED, log entry 104. -/
def Dev.wait (s : Dev) (key n : Nat) (who : Sleeper) : WaitResult × Dev :=
  let h := s.hitch key
  if s.up.quiesced.contains 2 then (.never, s)
  else match h.st with
  | .unmapped => (.never, s)
  | .poisoned => (.lost, s)
  | .discarded =>
    if h.disc.contains who.ctx then (.discarded, s)
    else (.sleeps, s.setHitch key { h with waiters := h.waiters ++ [⟨who, n⟩] })
  | .active =>
    let ahead := h.waiters.any (fun w => !(s.ctx w.who.ctx).away)
    if !ahead && decide (n ≤ h.count.toNat) then
      (.taken, s.setHitch key { h with count := BitVec.ofNat 32 (h.count.toNat - n) })
    else (.sleeps, s.setHitch key { h with waiters := h.waiters ++ [⟨who, n⟩] })

/-- A wait of an engine of the device (R267, R300, R311; log entry 19): bucket `id`, or 1024 + die for the update
list. It joins the order of the hitch when it reaches it (R199), and takes up a wait that has been satisfied. -/
def Dev.takeCredits (s : Dev) (c id vid : Nat) : WaitResult × Dev :=
  let who : Sleeper := .engine c id vid
  match s.mapEntry c vid with
  | none => (.never, s)
  | some e =>
    let h := s.hitch e.key
    if s.sync.grants.contains who then
      (.taken, { s with sync := { s.sync with grants := s.sync.grants.erase who } })
    else if h.barrier || h.waiters.any (fun w => w.who == who) then
      (if h.st == .poisoned then .lost else .sleeps, s)
    else s.wait e.key (e.thresh1.toNat + 1) who

/-! ## Ends of words, programs and launches -/

/-- A word is over: every slot has ended, and its hitch slot too (R49). -/
def IWord.isOver (w : IWord) : Bool :=
  w.slots.all (fun x => x.st == .ended) &&
    (match w.hitch with
     | none => true
     | some h => h.fin)

/-- The program of a tile has ended: the launch loses the tile, and completes when it was the last. -/
def Dev.endProgram (s : Dev) (c t : Nat) (pos : U32) : Dev :=
  let s := s.modTile c t (fun x => { x with prog := none }.commitShadows)
  let s := s.modLaunch c pos (fun l => { l with left := l.left.filter (· != t) })
  match s.launch? c pos with
  | none => s
  | some l => if l.left.isEmpty && l.phase == .running then s.finishLaunch c pos .done else s

/-- Words that are over retire; a stopped program with none left ends (R49). -/
def Dev.sweepTile (s : Dev) (c t : Nat) : Dev :=
  let s := s.modTile c t (fun x => { x with words := x.words.filter (fun w => !w.isOver) })
  let x := s.tile c t
  match x.prog with
  | none => s
  | some p => if p.stopped && x.words.isEmpty then s.endProgram c t p.pos else s

/-- The word at the fetch position of a tile is given up unissued: its waits are taken back, and with
`giveBack` so are the credits they took (R63, R65, R201). -/
def Dev.abandonWord (s : Dev) (c t : Nat) (giveBack : Bool) : Dev × List Job :=
  match (s.tile c t).prog with
  | none => (s, [])
  | some p =>
    let s := (s.unsleep (.word c t false)).unsleep (.word c t true)
    let s := s.modTile c t (fun x => { x with prog := x.prog.map (fun p =>
      { p with wait1 := .unasked, wait2 := .unasked, held := [] }) })
    (s, if giveBack then p.held.map (fun h => Job.raise c h.key h.amount) else [])

/-- The program of a tile issues no further word. -/
def Dev.stopProgram (s : Dev) (c t : Nat) (giveBack : Bool) : Dev × List Job :=
  let (s, js) := s.abandonWord c t giveBack
  (s.modTile c t (fun x => { x with prog := x.prog.map (fun p => { p with stopped := true }) }), js)

/-- A discarded slot's failure is kept only when the launch has none yet: what follows from one discard
is one failure (R106). -/
def Dev.noteDiscard (s : Dev) (c : Nat) (pos : U32) (f : Failure) : Dev :=
  match s.launch? c pos with
  | some l => if l.failure.isNone then s.failLaunch c pos f else s
  | none => s

def hrefKeys (xs : List (Option HRef)) : List Nat := xs.filterMap (fun h => h.map (·.key))

/-- A slot ends without signalling (R50, R63, R106, R210, R256): its launch ends with the status. -/
def Dev.endSlot (s : Dev) (c t seq num : Nat) (st : Status) : Dev × List Job :=
  match (s.tile c t).word? seq with
  | none => (s, [])
  | some w =>
    match w.slot? num with
    | none => (s, [])
    | some x =>
      if x.st == .ended then (s, [])
      else
        let s := s.unsleep (.slot c t seq num)
        let s := s.modTile c t (fun y => y.modWord seq (fun w =>
          { w.modSlot num (fun z => { z with st := .ended, fail := some st }) with
            hitch := w.hitch.map (fun h => { h with fin := true }) }))
        let f : Failure := ⟨st, t, some w.tag, some num⟩
        if st == .faultDiscarded then
          let sigs := hrefKeys [x.sig, w.hitch.bind (·.sig1), w.hitch.bind (·.sig2)]
          (s.noteDiscard c w.pos f, sigs.map (Job.discard c) ++ [.arm c t num, .sweep c t])
        else
          let (s, js) := (s.failLaunch c w.pos f).stopProgram c t (st == .stalePage)
          (s, js ++ [.arm c t num, .sweep c t])

/-- Physical hitches that the slots of an unissued word would signal, translated now (R211). -/
def Dev.wouldSignal (s : Dev) (c : Nat) (w : RawWord) : List Nat :=
  let ids := w.slots.flatMap (fun r =>
    if r.num = 0 then []
    else (if r.se then [r.sigId] else []) ++
      (if r.num = 7 && bit r.w2 33 then [fld r.w2 32 17] else []))
  ids.filterMap (fun v => (s.mapEntry c v).map HEntry.key)

/-- The word at a program's fetch position. -/
def Tile.fetch (x : Tile) (off : Nat) : RawWord := parseWord (Mem.readN x.dstore off 240)

/-- A sleeping word ends unissued (R106, R210, R211): the program stops there. -/
def Dev.endWord (s : Dev) (c t : Nat) (st : Status) : Dev × List Job :=
  let x := s.tile c t
  match x.prog with
  | none => (s, [])
  | some p =>
    if p.stopped then (s, [])
    else
      let w := x.fetch p.off
      let (s, _) := s.stopProgram c t false
      let f : Failure := ⟨st, t, some w.tag, some 7⟩
      if st == .faultDiscarded then
        (s.noteDiscard c p.pos f, (s.wouldSignal c w).map (Job.discard c) ++ [.sweep c t])
      else (s.failLaunch c p.pos f, [.sweep c t])

/-- The job that ends a sleeper of a program; an engine's wait ends with its bucket or list, and meets the hitch's
state when it asks again. -/
def Sleeper.endJob (w : Sleeper) (st : Status) : List Job :=
  match w with
  | .word c t _ => [.endWord c t st]
  | .slot c t seq num => [.endSlot c t seq num st]
  | .engine _ _ _ => []

/-- The head entry of an engine queue reaches its wait, if it has one and has not asked yet (R48).
DEDUCED, log entry 19. -/
def Dev.armHead (s : Dev) (c t num : Nat) : Dev × List Job :=
  if (s.ctx c).away then (s, [])
  else
    match (s.tile c t).headOf num with
    | none => (s, [])
    | some (seq, x) =>
      match x.wait, x.waiting with
      | some h, .unasked =>
        let (r, s) := s.wait h.key h.amount (.slot c t seq num)
        let put (v : WaitState) : Dev :=
          s.modTile c t (fun y => y.modSlot seq num (fun z => { z with waiting := v }))
        match r with
        | .taken => (put .granted, [])
        | .sleeps => (put .asleep, [])
        | .lost => (s, [.endSlot c t seq num .ownerLost])
        | .discarded => (s, [.endSlot c t seq num .faultDiscarded])
        | .never => (s, [])
      | _, _ => (s, [])

/-- A hitch enters the DISCARDED state (R211): waiters of the same context are discarded in turn. -/
def Dev.discardHitch (s : Dev) (c key : Nat) : Dev × List Job :=
  let h := s.hitch key
  if h.st != .active && h.st != .discarded then (s, [])
  else
    let (mine, rest) := h.waiters.partition (fun w => w.who.ctx == c)
    (s.setHitch key { h with st := .discarded, waiters := rest, disc := c :: h.disc.filter (· != c) },
      mine.flatMap (fun w => w.who.endJob .faultDiscarded))

/-- One job: its effect, and the jobs it causes. -/
def Dev.runJob (s : Dev) : Job → Dev × List Job
  | .raise c key n => (s.signal c key n, [.serve key])
  | .serve key => (s.serve key, [])
  | .arm c t num => s.armHead c t num
  | .discard c key => s.discardHitch c key
  | .endSlot c t seq num st => s.endSlot c t seq num st
  | .endWord c t st => s.endWord c t st
  | .sweep c t => (s.sweepTile c t, [])

/-- Jobs carried out in order, each before those it causes. -/
def runJobsFuel : Nat → Dev → List Job → Dev
  | 0, s, _ => s
  | _, s, [] => s
  | n + 1, s, j :: js =>
    let (s', more) := s.runJob j
    runJobsFuel n s' (js ++ more)

/-- No cascade is longer: every job ends a slot, a word or a hitch's ACTIVE state, or serves one. -/
def jobBound : Nat := 2 ^ 24

def Dev.runJobs (s : Dev) (js : List Job) : Dev := runJobsFuel jobBound s js

/-- The signal of an optional hitch reference of context `c`. -/
def raiseJobs (c : Nat) (hs : List (Option HRef)) : List Job :=
  hs.filterMap (fun h => h.map (fun h => Job.raise c h.key h.amount))

/-- A signal through the map of context `c` that arrives from outside a word: a remote or engine signal
(R204, R268). The answer says whether it was applied. -/
def Dev.signalVid (s : Dev) (c vid : Nat) : Bool × Dev :=
  match s.mapEntry c vid with
  | none => (false, s.ignoreSignal c)
  | some e =>
    if e.barrier then (false, s.ignoreSignal c)
    else (true, s.runJobs [.raise c e.key (e.width1.toNat + 1)])

/-! ## Poisoning (R210) -/

/-- Every waiter of another context than the owner wakes with OWNERLOST; waiters of saved contexts wake
when they resume. -/
def Dev.poisonHitch (s : Dev) (key : Nat) : Dev :=
  let h := s.hitch key
  if h.st == .unmapped then s
  else
    let (out, stay) := h.waiters.partition (fun w => w.who.ctx != h.owner && !(s.ctx w.who.ctx).away)
    (s.setHitch key { h with st := .poisoned, waiters := stay }).runJobs
      (out.flatMap (fun w => w.who.endJob .ownerLost))

/-! ## Barrier groups (R207) -/

/-- Outstanding entries of a tile. -/
def Hitch.entriesOf (h : Hitch) (c t : Nat) : List BarEntry := h.entries.filter (fun e => e.c == c && e.t == t)

/-- A word whose generation completes, or whose entry is cleared, ends: its hitch slot is over. -/
def Dev.endBarrierWord (s : Dev) (e : BarEntry) : Dev :=
  s.modTile e.c e.t (fun x => x.modWord e.seq (fun w =>
    { w with hitch := w.hitch.map (fun h => { h with fin := true }) }))

/-- The signals of the words whose generation has completed. -/
def Dev.barrierSignals (s : Dev) (e : BarEntry) : List Job :=
  match (s.tile e.c e.t).word? e.seq with
  | none => []
  | some w => raiseJobs e.c [w.hitch.bind (·.sig1), w.hitch.bind (·.sig2)]

/-- A tile with two outstanding entries: its word that has not entered holds the core until it has (R207). -/
def Dev.latchStall (key : Nat) (s : Dev) (e : BarEntry) : Dev :=
  if ((s.hitch key).entriesOf e.c e.t).length < 2 then s
  else s.modTile e.c e.t (fun x => { x with words := x.words.map (fun w => { w with hitch := w.hitch.map (fun h =>
    if h.barrier && !h.entered && !h.fin && h.group.any (fun g => g.key == key) then { h with stalled := true } else h) }) })

/-- Generation g completes once `parts` distinct tiles have entries toward it. -/
def Dev.advanceBarrier (s : Dev) (key : Nat) : Dev :=
  let h := s.hitch key
  let (next, now) := h.entries.partition (·.ahead)
  if now.length < h.parts then s
  else
    let jobs := now.flatMap s.barrierSignals
    let s := now.foldl (Dev.latchStall key) s
    let s := s.setHitch key { h with gen := h.gen + 1, entries := next.map (fun e => { e with ahead := false }) }
    let s := now.foldl Dev.endBarrierWord s
    s.runJobs (jobs ++ now.map (fun e => Job.sweep e.c e.t))

/-- A word enters its barrier group: toward g, or toward g + 1 when the tile already has an entry; with
two entries it waits (`false`). -/
def Dev.enterBarrier (s : Dev) (c t seq key : Nat) : Bool × Dev :=
  let h := s.hitch key
  if h.st != .active then (false, s)
  else match h.entriesOf c t with
  | [] => (true, (s.setHitch key { h with entries := h.entries ++ [⟨c, t, seq, false⟩] }).advanceBarrier key)
  | [_] => (true, s.setHitch key { h with entries := h.entries ++ [⟨c, t, seq, true⟩] })
  | _ => (false, s)

end Sys2Proof.Machine
end

