-- ==== Sys2Proof/Machine/Slots.lean ====
section
/-! DEFINITION. What the control core finds when it checks the slots of a word (R45, R174, R412): the
failures of each slot, and the slot as it enters its queue, with descriptors, scalars, functions and
hitches captured. -/
namespace Sys2Proof.Machine
open Sys2Proof

/-- What the checks of one slot find: its failures, and its operation when it can be formed. -/
structure Found where
  fails : List (Option Status) := []
  op : Option SlotOp := none

/-- The value an offset register adds (R413). -/
def offReg (reg : Nat → U64) (en : Bool) (r : Nat) : Option Nat := if en then some (reg r).toNat else none

/-- Extents without trailing dimensions of 1 (log entry 22). -/
def trimExt (e : List Nat) : List Nat := (e.reverse.dropWhile (· == 1)).reverse
/-- DEDUCED, log entry 22. -/
def sameExt (a b : List Nat) : Bool := trimExt a == trimExt b

/-- The elements of a descriptor in canonical order, each by its stored bytes. -/
def Desc.places (d : Desc) : List (List Nat) := (indices d.lext).map (fun l => d.touched (d.memIdx l))

/-- Overlap of two regions of one slot, unless both describe the same elements in the same order (R121,
R189): the same bytes in the same format.
DEDUCED, log entry 119. -/
def overlapFail (a b : Desc) : Option Status :=
  failIf (a.overlaps b && !(a.fmt == b.fmt && a.places == b.places)) .overlap

/-- Failures with OVERLAP are looked for only when none that comes before it in the order of R412 is there. -/
def thenFails (xs : List (Option Status)) (more : Unit → List (Option Status)) : List (Option Status) :=
  if (firstStatus xs).any (fun x => x.rank < Status.overlap.rank) then xs else xs ++ more ()

/-- Overlaps of the regions a vector slot writes (R121): with its input and side tensors save in place, with its row and
mask tensors and with each other in no case. -/
def writeOverlaps (inPlace others : List Desc) : List Desc → List (Option Status)
  | [] => []
  | w :: r => inPlace.map (overlapFail w) ++ (others ++ r).map (fun d => failIf (w.overlaps d) .overlap)
      ++ writeOverlaps inPlace others r

/-! ## Permitted spaces (R16, R182) -/

def ownStore (t : Nat) (sp : Space) : Bool :=
  match sp with
  | .tile n => n == t
  | _ => false
def ownOrStaging (t : Nat) (sp : Space) : Bool :=
  match sp with
  | .tile n => n == t
  | .staging _ => true
  | _ => false
def ownStagingHbm (t : Nat) (sp : Space) : Bool :=
  match sp with
  | .tile n => n == t
  | .staging _ => true
  | .hbm => true
  | _ => false
def anyMove (sp : Space) : Bool :=
  match sp with
  | .remote _ _ => false
  | _ => true
def tileSpace (sp : Space) : Bool :=
  match sp with
  | .tile _ => true
  | _ => false
def stagingHbm (sp : Space) : Bool :=
  match sp with
  | .staging _ => true
  | .hbm => true
  | _ => false

/-! ## Moves (R182 to R189) -/

/-- The step in logical tiles and the tiles a MULTICAST destination names (R184). -/
def Desc.mcStep (d : Desc) : Int := intGet d.str (d.rank - 1) / 64
def Desc.mcTiles (d : Desc) : List Int :=
  match d.base.space with
  | .tile b => (List.range (listGet d.ext (d.rank - 1))).map (fun (i : Nat) => (b : Int) + (i : Int) * d.mcStep)
  | _ => []

/-- The destination as one receiving tile sees it. -/
def Desc.mcInner (d : Desc) (tile : Nat) : Desc :=
  { d with base := { d.base with space := .tile tile }, ext := d.ext.dropLast, str := d.str.dropLast,
           sstr := d.sstr.dropLast }

/-- Extents and ranks of a move (R183 to R187). -/
def moveShape (store : Bool) (op : Nat) (src dst : Desc) (idx : Option Desc) (ntile : Nat) :
    List (Option Status) :=
  let n := match idx with | some i => i.count | none => 0
  let blk (d : Desc) : Bool := isBlock d.fmt
  if !store && op == 2 then
    let r := d_rank dst
    [failIf (r < 2 || r != d_rank src + 1) .invalidWord,
     failIf (listGet dst.ext (r - 1) > 1 && dst.mcStep == 0) .invalidWord,
     failIf (dst.mcTiles.any (fun t => decide (t < 0) || decide ((ntile : Int) ≤ t))) .range,
     failIf (dst.ext.dropLast != src.lext) .range]
  else if !store && op == 3 then
    [failIf (blk src && decide (d_rank src < 2)) .invalidWord,
     failIf (d_rank dst != d_rank src || listGet dst.ext (d_rank dst - 1) != n
              || dst.ext.dropLast != src.ext.dropLast) .range]
  else if store && (op == 4 || op == 5) then
    [failIf (blk dst && decide (d_rank dst < 2)) .invalidWord,
     failIf (d_rank dst != d_rank src || listGet src.ext (d_rank src - 1) != n
              || dst.ext.dropLast != src.ext.dropLast) .range]
  else [failIf (!sameExt src.lext dst.lext) .range]
where
  d_rank (d : Desc) : Nat := d.rank

/-- Formats an accumulate-mode destination may have (R187). -/
def accumFmt (fmt : Nat) : Bool := fmt == 0x7 || fmt == 0x8 || fmt == 0x9 || fmt == 0xB

def Dev.checkMove (s : Dev) (c t : Nat) (store : Bool) (r : RawSlot) (reg : Nat → U64) : Found :=
  let op := r.op
  let acc := store && (op == 5 || op == 6)
  let mc := !store && op == 2
  let indexed := if store then op == 4 || op == 5 else op == 3
  let srcU : Use := { space := if store then ownOrStaging t else if mc then stagingHbm else anyMove,
                      viewPlain := op == 1 }
  let dstU : Use := { space := if store then anyMove else if mc then tileSpace else ownOrStaging t,
                      write := true, accum := acc, viewPlain := op == 1, tiles := mc }
  let (f1, src) := s.descriptor c (fld r.w2 11 0) (offReg reg (bit r.w2 48) (fld r.w2 41 36)) srcU
  let (f2, dst) := s.descriptor c (fld r.w2 23 12) (offReg reg (bit r.w2 49) (fld r.w2 47 42)) dstU
  let (f3, idx) := if indexed then
      s.descriptor c (fld r.w2 35 24) none { space := ownStagingHbm t, index := true }
    else ([], none)
  match src, dst, indexed && idx.isNone with
  | some src, some dst, false =>
    let conv := convOf (r.aux % 256) src.fmt dst.fmt
    let pre := f1 ++ f2 ++ f3 ++ [failIf conv.isNone .invalidWord, failIf (acc && !accumFmt dst.fmt) .invalidWord]
      ++ moveShape store op src dst idx (s.ctx c).ntile.toNat
    { fails := thenFails pre (fun _ => if mc then [] else [overlapFail src dst])
      op := some (.move store op (conv.getD none) src dst idx) }
  | _, _, _ => { fails := f1 ++ f2 ++ f3 }

/-! ## Matrix slot (R90, R96, R97, R100, R101, R120) -/

/-- Lane factor of a format (Table 4.1). -/
def laneFactor (fmt : Nat) : Nat := if fmt = 1 then 4 else if fmt ≤ 6 then 2 else 1

/-- Free size and depth of a segment (Table 4.3). -/
def segment (part : Nat) (axis : Bool) (l : Nat) : Nat × Nat :=
  match part, axis with
  | 0, false => (128, 128 * l)
  | 0, true => (128 * l, 128)
  | 1, false | 2, false => (64, 128 * l)
  | 1, true | 2, true => (128 * l, 64)
  | _, false => (64, 64 * l)
  | _, true => (64 * l, 64)

/-- Number of segments of a product (R98). -/
def segments (part : Nat) (axis : Bool) (fmtS fmtT m k : Nat) : Nat :=
  let (f, d) := segment part axis (min (laneFactor fmtS) (laneFactor fmtT))
  ceilDiv m f * ceilDiv k d

/-- The quadrants of a partition, by their PART numbers 3 to 6 (Table 4.3). -/
def quadsOf (part : Nat) : List Nat :=
  match part with
  | 0 => [3, 4, 5, 6]
  | 1 => [3, 4]
  | 2 => [5, 6]
  | q => [q]

def partsOverlap (a b : Nat) : Bool := (quadsOf a).any (fun q => (quadsOf b).contains q)

def Tile.planeRec (x : Tile) (part : Nat) : PlaneRec := Tab.get {} x.planes part

/-- The KEEP conditions on the plane record (R101); `ext1` counts stored rows, `ext0` stored columns. -/
def Tile.keepOk (x : Tile) (part fmtT : Nat) (axis : Bool) (m k : Nat) : Bool :=
  let p := x.planeRec part
  p.valid && p.fmt == fmtT && (if axis then k ≤ p.ext1 && m ≤ p.ext0 else m ≤ p.ext1 && k ≤ p.ext0)

def Dev.checkMma (s : Dev) (c t : Nat) (r : RawSlot) (reg : Nat → U64) : Found :=
  let x := s.tile c t
  let fmtS := fld r.aux 7 4
  let fmtT := fld r.aux 3 0
  let bank := b2n (bit r.w2 63)
  let keep := bit r.w2 61
  let axis := bit r.w2 60
  let k := fld r.w2 35 24 + 1
  let n := fld r.w2 23 12 + 1
  let m := fld r.w2 11 0 + 1
  let aoff := fld r.w3 17 8
  let part := fld r.w3 2 0
  let tdesc := fld r.w2 47 36
  let (f1, sd) := s.descriptor c (fld r.w2 59 48) (offReg reg (bit r.w3 31) (fld r.w3 29 24))
    { space := ownStore t, view := true }
  let (f2, td) := if keep then ([], none) else
    s.descriptor c tdesc (offReg reg (bit r.w3 30) (fld r.w3 23 18)) { space := ownStore t }
  let fmtsOk := matrixFmt fmtS && matrixFmt fmtT
  let e (d : Desc) (i : Nat) : Nat := d.lext.getD i 1
  let own := [failIf (!fmtsOk) .invalidWord, failIf (65536 < 64 * aoff + 4 * m * n) .range,
    failIf (keep && (tdesc != 0 || bit r.w3 30 || !x.keepOk part fmtT axis m k)) .invalidWord]
  let tChecks := match td with
    | some d => [failIf (d.fmt != fmtT) .invalidWord,
        failIf (if axis then e d 0 < m || e d 1 < k else e d 0 < k || e d 1 < m) .range]
    | none => []
  match sd, keep || td.isSome with
  | some d, true =>
    { fails := f1 ++ f2 ++ own ++ [failIf (d.fmt != fmtS) .invalidWord, failIf (e d 0 < k || e d 1 < n) .range] ++ tChecks
      op := some (.mma fmtS fmtT bank (bit r.w2 62) keep axis d td m n k aoff part) }
  | _, _ => { fails := f1 ++ f2 ++ own ++ tChecks }

/-- A plane record made invalid. -/
def PlaneRec.drop (p : PlaneRec) : PlaneRec := { p with valid := false }

/-- Plane records after the placement of an MMA that loads the plane (R100). -/
def Tile.notePlane (x : Tile) (part : Nat) (axis : Bool) (fmtS fmtT m k : Nat) : Tile :=
  let others := (List.range 7).filter (fun p => p != part && partsOverlap p part)
  let planes := others.foldl (fun ps p => Tab.set ps p (x.planeRec p).drop) x.planes
  let one := segments part axis fmtS fmtT m k == 1
  let new : PlaneRec := { valid := one, fmt := fmtT, ext0 := if axis then m else k, ext1 := if axis then k else m }
  { x with planes := Tab.set planes part new }

/-- Key of slot `i` of a bank's records. -/
def bankKey (bank i : Nat) : Nat := 8 * bank + i

def Tile.bankRec (x : Tile) (bank i : Nat) : BankRec := Tab.get {} x.bankRecs (bankKey bank i)

def BankRec.overlaps (a b : BankRec) : Bool :=
  64 * a.aoff < 64 * b.aoff + 4 * b.m * b.n && 64 * b.aoff < 64 * a.aoff + 4 * a.m * a.n

/-- Bank records after the placement of an MMA (R120): overlapping records become invalid, and the new one
takes the lowest invalid slot, or the oldest's. -/
def Tile.noteBank (x : Tile) (bank aoff m n : Nat) : Tile :=
  let new : BankRec := { valid := true, aoff := aoff, m := m, n := n, age := x.bankAge }
  let recs := (List.range 8).map (fun i =>
    let r := x.bankRec bank i
    if r.valid && r.overlaps new then { r with valid := false } else r)
  let free := (List.range 8).find? (fun i => !(recs.getD i {}).valid)
  let oldest := (List.range 8).foldl (fun b i => if (recs.getD i {}).age < (recs.getD b {}).age then i else b) 0
  let recs := recs.set (free.getD oldest) new
  { x with
    bankAge := x.bankAge + 1
    bankRecs := (List.range 8).foldl (fun t i => Tab.set t (bankKey bank i) (recs.getD i {})) x.bankRecs }

/-- Records updated once a word's slots are placed. They stay as they are when the MMA is discarded later.
DEDUCED, log entry 118. -/
def Tile.noteOp (x : Tile) (op : SlotOp) : Tile :=
  match op with
  | .mma fmtS fmtT bank _ keep axis _ _ m n k aoff part =>
    let x := if keep then x else x.notePlane part axis fmtS fmtT m k
    x.noteBank bank aoff m n
  | _ => x

/-! ## Functions bound by slots and stages (R143, R155, R157) -/

def Tile.userFn (x : Tile) (f : Nat) : UserFn := Tab.get {} x.fns f
def Tile.userTbl (x : Tile) (i : Nat) : UserTbl := Tab.get {} x.tbls i

/-- Tables that a function's steps read. -/
def FnImage.tables (g : FnImage) : List Nat := ((g.steps.filter (fun s => 0 < s.reach)).map (·.tbl)).eraseDups

/-- The function a slot or stage binds to; `none` for one that is not valid. -/
def Tile.bindFn (x : Tile) (scm : Bool) (fnum : Nat) : Option FnRef :=
  if fnum < 0x80 then
    if !libValid fnum then none
    else if scm then (sernalOf fnum).map FnRef.lib
    else some (.lib fnum)
  else
    match (x.userFn fnum).cur with
    | none => none
    | some g =>
      if scm then none
      else some (.user fnum (x.userFn fnum).ver g
        (g.tables.map (fun i => (i, (x.userTbl i).gen, (x.userTbl i).cur))))

/-- Every table entry a step can reach lies in the bound table (R157). -/
def FnRef.reachOk (f : FnRef) : Bool :=
  match f with
  | .lib _ => true
  | .user _ _ g ts => g.steps.all (fun st =>
      match ts.find? (fun e => e.1 == st.tbl) with
      | some (_, _, es) => decide (st.reach ≤ es.length)
      | none => st.reach == 0)

/-- Failures of binding a function. -/
def fnFails (f : Option FnRef) : List (Option Status) :=
  match f with
  | none => [some .invalidWord]
  | some g => [failIf (!g.reachOk) .range]

def Dev.checkFn (s : Dev) (c t : Nat) (r : RawSlot) (reg : Nat → U64) : Found :=
  let x := s.tile c t
  let scm := bit r.aux 8
  let f := x.bindFn scm (r.aux % 256)
  let (f1, i) := s.descriptor c (fld r.w2 11 0) (offReg reg (bit r.w2 36) (fld r.w2 29 24)) { space := ownStore t }
  let (f2, o) := s.descriptor c (fld r.w2 23 12) (offReg reg (bit r.w2 37) (fld r.w2 35 30))
    { space := ownStore t, write := true }
  match i, o with
  | some i, some o =>
    { fails := thenFails (f1 ++ f2 ++ fnFails f ++ [failIf (i.lext != o.lext) .range]) (fun _ => [overlapFail o i])
      op := f.map (fun g => .fn scm g i o) }
  | _, _ => { fails := f1 ++ f2 ++ fnFails f }

/-! ## Vector slot (R40, R41, R112, R115 to R122, R166) -/

/-- State of the page that holds a chain record (R41). -/
def chainPageFail (p : Page) : Option Status :=
  match p.st with
  | .loaded => failIf (!p.chain) .invalidWord
  | .empty => some .invalidWord
  | _ => some .stalePage

/-- Which tensor a stage names besides its operation: side, row, carry, count or mask. -/
inductive TensorRole where
  | side | row | carry | count | mask
  deriving DecidableEq, Repr

/-- The tensors a stage names, by role and descriptor index. -/
def StageCode.tensors (s : StageCode) : List (TensorRole × Nat) :=
  (if s.bsrc = 2 then [(.side, s.opnd)] else if s.bsrc = 6 then [(.row, s.opnd)] else [])
    ++ (if s.carry then [(.carry, s.opnd)] else [])
    ++ (if s.op = 0x48 ∧ s.opnd ≠ 0 then [(.count, s.opnd)] else [])
    ++ (if s.op = 0x49 then [(.mask, s.opnd)] else [])

/-- Extents and format of a stage's tensor against the input's extents (R119, R165).
DEDUCED, log entry 47. -/
def tensorFails (role : TensorRole) (op : Nat) (ext : List Nat) (d : Desc) : List (Option Status) :=
  let rows := ext.drop 1
  match role with
  | .side => [failIf (!sameExt d.lext ext) .range]
  | .row => [failIf (!(sameExt d.lext rows || (op == 0x67 && d.fmt == 0x9 && sameExt d.lext (2 :: rows)))) .range]
  | .carry => [failIf (d.fmt != 0x9) .invalidWord, failIf (!sameExt d.lext (2 :: rows)) .range]
  | .count => [failIf (d.fmt != 0xB) .invalidWord, failIf (!sameExt d.lext rows) .range]
  | .mask => [failIf (d.fmt != 0xA) .invalidWord, failIf (!sameExt d.lext ext) .range]

def TensorRole.writes (r : TensorRole) : Bool := r == .carry || r == .count

/-- A stage's tensors: failures and descriptors by role. -/
def Dev.stageTensors (s : Dev) (c t : Nat) (ext : List Nat) (sc : StageCode) :
    List (Option Status) × List (TensorRole × Desc) :=
  sc.tensors.foldl (fun (acc : List (Option Status) × List (TensorRole × Desc)) e =>
    let (f, d) := s.descriptor c e.2 none { space := ownStore t, write := e.1.writes }
    match d with
    | some d => (acc.1 ++ f ++ tensorFails e.1 sc.op ext d, acc.2 ++ [(e.1, d)])
    | none => (acc.1 ++ f, acc.2)) ([], [])

def roleDesc (ts : List (TensorRole × Desc)) (r : TensorRole) : Option Desc :=
  (ts.find? (fun e => e.1 == r)).map Prod.snd

/-- Lane type of the elements of a stage's side or row tensor. -/
def Dev.tensLane (s : Dev) (c t : Nat) (sc : StageCode) : Option LTy :=
  if sc.bsrc = 2 ∨ sc.bsrc = 6 then
    ((s.descriptor c sc.opnd none { space := ownStore t }).2).map (fun d => laneOf d.fmt sc.pk)
  else none

/-- Operand B with its scalar captured (R118).
DEDUCED, log entry 48. -/
def captureB (sc : StageCode) (ts : List (TensorRole × Desc)) (reg : Nat → U64) : Opnd :=
  match sc.bsrc with
  | 1 => let v := reg (sc.sop % 64)
         if sc.sop / 64 = 2 then .scalarI v else .scalarF (v.truncate 32)
  | 2 => match roleDesc ts .side with | some d => .side d | none => .none
  | 3 => .held (sc.opnd % 4)
  | 4 => .imm (sext 12 sc.opnd)
  | 5 => .x0
  | 6 => match roleDesc ts .row with | some d => .row d | none => .none
  | _ => .none

/-- A stage as it is captured at issue.
DEDUCED, log entry 48. -/
def Tile.captureStage (x : Tile) (scm : Bool) (lane0 : LTy) (tens : Option LTy) (ty : TypeState)
    (ts : List (TensorRole × Desc)) (reg : Nat → U64) (sc : StageCode) : Stage :=
  let tin : Option LTy := (stageInfo sc.op).bind (·.tin)
  let tx := ty.x.getD lane0
  let want := match tin with
    | some .f => if sc.pk then LTy.p else .f
    | some y => y
    | none => tx
  { op := sc.op, b := captureB sc ts reg, creg := sc.creg, hw := sc.hw, hreg := sc.hreg, pk := sc.pk,
    pm := sc.pm, rev := sc.rev, ci := sc.ci, opnd := sc.opnd,
    aux := (roleDesc ts .carry).orElse (fun _ => (roleDesc ts .count).orElse (fun _ => roleDesc ts .mask)),
    fn := if sc.op = 0x60 then x.bindFn scm (sc.opnd % 256) else none,
    theta := if sc.op = 0x66 then (x.userTbl 15).cur else [], thetaGen := (x.userTbl 15).gen,
    tx := tx,
    tb := if sc.op = 0x0A ∨ sc.op = 0x0C then (bType sc ty lane0 tens).getD tx else want }

/-- Failures of a stage that depend on extents, tables and functions (R122, R157, R159, R166). -/
def Tile.stageFails (x : Tile) (scm : Bool) (rowLen : Nat) (sc : StageCode) : List (Option Status) :=
  [failIf (sc.rowWide && decide (16384 < rowLen)) .range,
   failIf (sc.op == 0x66 && (rowLen % 2 != 0 || (x.userTbl 15).cur.isEmpty)) .range]
    ++ (if sc.op = 0x60 then fnFails (x.bindFn scm (sc.opnd % 256)) else [])

/-- The valid bank record that a vector slot names (R120). -/
def Tile.findBank (x : Tile) (bank aoff : Nat) : Option BankRec :=
  ((List.range 8).map (x.bankRec bank)).find? (fun r => r.valid && r.aoff == aoff)

/-- A chain record that cannot be read, with the failure of its page, and the record (R41). -/
def Tile.chainAt (x : Tile) (chidx nstg : Nat) : Option Status × ChainRec :=
  let bytes := Mem.readN x.dstore (64 * chidx) 64
  let pf := chainPageFail (x.page (chidx / 64))
  (if pf.isSome then pf else failIf (!chainRecordOk bytes || (parseChain bytes).nstg != nstg) .invalidWord, parseChain bytes)

/-- The stages of a vector slot; none where its record cannot be read. -/
def Tile.vecCodes (x : Tile) (r : RawSlot) : List StageCode :=
  let nstg := r.aux % 16
  if r.op = 1 then [parseStage true (fld r.w2 31 0) 0, parseStage true (fld r.w2 63 32) 0].take nstg
  else
    let (f, rec') := x.chainAt (fld r.w3 45 36) nstg
    if f.isSome then [] else rec'.stageCodes

def Dev.checkVec (s : Dev) (c t : Nat) (r : RawSlot) (reg : Nat → U64) : Found :=
  let x := s.tile c t
  let inline := r.op == 1
  let nstg := r.aux % 16
  let chidx := fld r.w3 45 36
  let (pageFail, rec') := x.chainAt chidx nstg
  let pageFails := if inline then [] else [pageFail]
  let unread := pageFails.any (·.isSome)
  let codes := x.vecCodes r
  let scm := !inline && rec'.scm
  let asrc := bit r.w3 24
  let bank := b2n (bit r.w3 25)
  let aoff := fld r.w3 35 26
  let (f1, inp, ext, fmt) : List (Option Status) × Option VecIn × List Nat × Nat :=
    if asrc then
      match x.findBank bank aoff with
      | some b => ([], some (.bank bank aoff b.m b.n), [b.m, b.n], 0x9)
      | none => ([some .range], none, [1], 0x9)
    else
      let (f, d) := s.descriptor c (fld r.w3 11 0) (offReg reg (bit r.w3 58) (fld r.w3 51 46)) { space := ownStore t }
      match d with
      | some d => (f, some (.desc d), d.lext, d.fmt)
      | none => (f, none, [1], rec'.fmtIn)
  let fmtIn := if inline then fmt else rec'.fmtIn
  let (f2, out) := s.descriptor c (fld r.w3 23 12) (offReg reg (bit r.w3 59) (fld r.w3 57 52))
    { space := ownStore t, write := true }
  let tens := codes.map (s.stageTensors c t ext)
  let f3 := tens.flatMap Prod.fst
  let lanes := s.tensLane c t
  let pk := (codes.head?.map (·.pk)).getD false
  let lane0 := inputLane inline fmtIn pk
  let fmtOut := match out with | some d => d.fmt | none => 0x9
  let final := codes.any (fun k => 0x50 ≤ k.op && k.op ≤ 0x56)
  let outExt := if final then ext.drop 1 else ext
  -- a record that cannot be read is held against nothing else (R41, R45)
  let own := pageFails ++ (if unread then [] else
    [failIf (!chainOk inline scm fmtIn (if inline then fmtOut else rec'.fmtOut) codes lanes) .invalidWord,
      failIf (fmt != fmtIn) .invalidWord, failIf (!inline && out.isSome && fmtOut != rec'.fmtOut) .invalidWord]
    ++ codes.flatMap (x.stageFails scm (listGet ext 0))
    ++ (match out with | some o => [failIf (!sameExt o.lext outExt) .range] | none => []))
  match inp, out, chainTypes lane0 lanes (startTypes lane0) codes with
  | some inp, some o, some (tys, last) =>
    let ds := tens.flatMap Prod.snd
    let reads := (match inp with | .desc d => [d] | .bank _ _ _ _ => [])
      ++ (ds.filter (fun e => e.1 == .side)).map Prod.snd
    let others := (ds.filter (fun e => e.1 == .row || e.1 == .mask)).map Prod.snd
    let writes := o :: (ds.filter (fun e => e.1.writes)).map Prod.snd
    { fails := thenFails (f1 ++ f2 ++ f3 ++ own) (fun _ => writeOverlaps reads others writes)
      op := some (.vec inline
        (((codes.zip tens).zip tys).map (fun e =>
          x.captureStage scm lane0 (lanes e.1.1) e.2 e.1.2.2 reg e.1.1))
        fmtIn fmtOut (!inline && rec'.sr) scm rec'.srtid inp o (last.x.getD .f)
        (if inline then none else some (chidx / 64))) }
  | _, _, _ => { fails := f1 ++ f2 ++ f3 ++ own }

/-! ## Remote slot (R43, R251) -/

def Dev.checkRem (s : Dev) (c t : Nat) (r : RawSlot) (reg : Nat → U64) : Found :=
  let op := r.op
  let coord : BitVec 24 := BitVec.ofNat 24 (fld r.w2 60 37)
  let off := fld r.w2 32 0 + (offReg reg (bit r.w3 36) (fld r.w3 35 30)).getD 0
  let unit := if 1 ≤ op ∧ op ≤ 3 then 64 else if op = 7 then 1 else 8
  let own := [failIf (off % unit != 0) .align, failIf (2 ^ 33 ≤ off) .range, failIf (!s.fab.inTeam coord) .range]
  let (f, d) := if 1 ≤ op ∧ op ≤ 3 then
      s.descriptor c (fld r.w3 11 0) none { space := ownStagingHbm t, write := op == 2 }
    else ([], none)
  let fmt := match d with
    | some d => [failIf (op == 3 && d.fmt != 0xB) .invalidWord]
    | none => []
  { fails := f ++ own ++ fmt
    op := some (.rem op coord (fld r.w2 36 33) off r.rse (BitVec.ofNat 16 r.aux) d (fld r.w3 29 24)
      (reg (fld r.w3 17 12)) (reg (fld r.w3 23 18))) }

/-! ## A whole word -/

/-- Translation of a virtual hitch named by a word (R198). -/
def Dev.translate (s : Dev) (c vid : Nat) (barrier wait : Bool) : Option Status × Option HRef :=
  match s.mapEntry c vid with
  | none => (some .range, none)
  | some e =>
    if e.barrier != barrier then (some .invalidWord, none)
    else (none, some ⟨BitVec.ofNat 16 vid, e.key, (if wait then e.thresh1.toNat else e.width1.toNat) + 1⟩)

/-- Translation under an enable bit. -/
def Dev.href (s : Dev) (c : Nat) (en : Bool) (vid : Nat) (wait : Bool) : Option Status × Option HRef :=
  if en then s.translate c vid false wait else (none, none)

/-- One engine slot checked: its failures, and its queue entry. -/
def Dev.checkSlot (s : Dev) (c t : Nat) (reg : Nat → U64) (r : RawSlot) : List (Option Status) × Option ISlot :=
  let (fw, w) := s.href c r.we r.waitId true
  let (fs, g) := s.href c r.se r.sigId false
  let found := match r.num with
    | 1 => s.checkMove c t false r reg
    | 2 => s.checkMma c t r reg
    | 3 => s.checkVec c t r reg
    | 4 => s.checkFn c t r reg
    | 5 => s.checkMove c t true r reg
    | _ => s.checkRem c t r reg
  (fw :: fs :: found.fails, found.op.map (fun o => { num := r.num, op := o, wait := w, sig := g }))

/-- The hitch slot checked. -/
def Dev.checkHitch (s : Dev) (c : Nat) (r : RawSlot) : List (Option Status) × HSlot :=
  let (f0, _) := s.href c r.we r.waitId true
  let (f1, _) := s.href c (bit r.w2 16) (fld r.w2 15 0) true
  let (f2, g1) := s.href c r.se r.sigId false
  let (f3, g2) := s.href c (bit r.w2 33) (fld r.w2 32 17) false
  let (f4, b) := if r.op = 2 then s.translate c (fld r.w2 49 34) true false else (none, none)
  ([f0, f1, f2, f3, f4], { barrier := r.op == 2, group := b, sig1 := g1, sig2 := g2, waits := (if r.we then [r.waitId] else []) ++ (if bit r.w2 16 then [fld r.w2 15 0] else []) })

/-- Descriptor-table entries that an engine slot names (R170). -/
def Tile.slotDescs (x : Tile) (r : RawSlot) : List Nat :=
  let two := [fld r.w2 11 0, fld r.w2 23 12]
  match r.num with
  | 1 => if r.op = 3 then fld r.w2 35 24 :: two else two
  | 5 => if r.op = 4 ∨ r.op = 5 then fld r.w2 35 24 :: two else two
  | 2 => fld r.w2 59 48 :: (if bit r.w2 61 then [] else [fld r.w2 47 36])
  | 3 => (if bit r.w3 24 then [] else [fld r.w3 11 0]) ++ [fld r.w3 23 12]
      ++ (x.vecCodes r).flatMap (fun sc => sc.tensors.map Prod.snd)
  | 4 => two
  | 6 => if 1 ≤ r.op ∧ r.op ≤ 3 then [fld r.w3 11 0] else []
  | _ => []

/-- The pool lines that the check of a word reads (R170). -/
def Dev.wordLines (s : Dev) (c t : Nat) (w : RawWord) : List Nat :=
  let ids := w.slots.flatMap (s.tile c t).slotDescs
  (ids.flatMap (s.ctx c).descRange).map (fun r => r.1 / 64)

/-- The failure a word reports when several slots fail (R412): the status first in order, then the slot
lowest in presence order. -/
def chooseFailure (xs : List (Nat × Status)) : Option (Nat × Status) :=
  xs.foldl (fun b x =>
    match b with
    | none => some x
    | some y => if x.2.rank < y.2.rank then some x else b) none

/-- The check of a word under R45: the failure it reports, or its queue entries and hitch slot. -/
def Dev.checkWord (s : Dev) (c t : Nat) (reg : Nat → U64) (w : RawWord) :
    Option (Nat × Status) × List ISlot × Option HSlot :=
  let engines := (w.slots.filter (fun r => 1 ≤ r.num && r.num ≤ 6)).map (fun r => (r.num, s.checkSlot c t reg r))
  let hitch := (w.slots.find? (fun r => r.num = 7)).map (s.checkHitch c)
  let fails := engines.filterMap (fun e => (firstStatus e.2.1).map (fun x => (e.1, x)))
    ++ (match hitch with
        | some h => match firstStatus h.1 with | some x => [(7, x)] | none => []
        | none => [])
  (chooseFailure fails, engines.filterMap (fun e => e.2.2), hitch.map Prod.snd)

end Sys2Proof.Machine
end

