-- ==== Sys2Proof/Machine/Rings.lean ====
section
/-! DEFINITION. Doorbells and rings: SQ_TAIL (R56), the head words (R350), completion records (R57, R67),
interrupt timers and MSI-X (R353). -/
namespace Sys2Proof.Machine
open Sys2Proof

/-! ## SQ_TAIL (R56, R348, R349) -/

/-- What the ring makes of a tail value. -/
inductive TailCase where
  | same | accepted | ignored
  deriving DecidableEq, Repr

def Ring.tailCase (g : Ring) (v : U32) : TailCase :=
  if v = g.host then .same
  else if 2 ^ 31 ≤ (v - g.host).toNat ∨ g.size < (v - g.dev).toNat then .ignored
  else .accepted

/-- The tail word of the doorbell page written. -/
def Dev.tailWrite (s : Dev) (c : Nat) (v : U32) : Dev :=
  if !s.barOpen then s
  else
    let g := s.ring c 0
    let stored := s.setRing c 0 { g with door := v }
    if !g.en then stored
    else
      match g.tailCase v with
      | .same => stored
      | .accepted => s.setRing c 0 { g with door := v, host := v }
      | .ignored => stored.modCtx c (fun x => { x with dbErrors := satAdd x.dbErrors 1 })

/-- Stores of the host into its own memory, visible before the doorbell (R349).
DESIGN CHOICE, log entry 3. -/
def Dev.hostStores (s : Dev) (cells : List Host.Cell) : Dev :=
  { s with hif := { s.hif with hostMem := Mem.writeCells s.hif.hostMem cells } }

def execSqTail (c : CtxId) (v : U32) (hostWrites : List Host.Cell) (s : State) : Host.Outcome State Fault Refusal :=
  s.onDev (fun d => (d.hostStores hostWrites).tailWrite c.val v)

/-! ## The head words (R350) -/

/-- A head that moves forward and not past the device index. -/
def Ring.headOk (g : Ring) (v : U32) : Bool := decide ((v - g.host).toNat ≤ (g.dev - g.host).toNat)

def Dev.headWrite (s : Dev) (c r : Nat) (v : U32) : Dev :=
  if !s.barOpen then s
  else
    let g := s.ring c r
    let stored := s.setRing c r { g with door := v }
    if !g.en then stored
    else if g.headOk v then s.setRing c r { g with door := v, host := v }
    else stored.modCtx c (fun x => { x with headErr := satAdd x.headErr 1 })

def execCqHead (c : CtxId) (v : U32) (s : State) : Host.Outcome State Fault Refusal :=
  s.onDev (fun d => d.headWrite c.val 1 v)
def execEqHead (c : CtxId) (v : U32) (s : State) : Host.Outcome State Fault Refusal :=
  s.onDev (fun d => d.headWrite c.val 2 v)
def execTqHead (c : CtxId) (v : U32) (s : State) : Host.Outcome State Fault Refusal :=
  s.onDev (fun d => d.headWrite c.val 3 v)

/-! ## Retirement (R57) and completion records (R67) -/

/-- Positions retired in a row move into `retired`. -/
def retireRun : Nat → Nat → List Nat → Nat × List Nat
  | 0, n, xs => (n, xs)
  | k + 1, n, xs => if xs.contains n then retireRun k (n + 1) (xs.filter (· != n)) else (n, xs)

/-- The ring index of a position, counted from the enabling of the ring. -/
def Ctx.absPos (x : Ctx) (pos : U32) : Nat := x.retired + (pos - BitVec.ofNat 32 x.retired).toNat

/-- The context once the record at `pos` has retired. -/
def Ctx.retire (x : Ctx) (pos : U32) : Ctx :=
  let above := x.absPos pos :: x.retiredAbove
  let (n, rest) := retireRun above.length x.retired above
  { x with retired := n, retiredAbove := rest, launches := x.launches.filter (fun l => l.pos != pos) }

/-- An ABORT notes that a target has retired; it ends with its last target (R66). -/
def Dev.noteTarget (pos : U32) (aborted : Bool) (c : Nat) (s : Dev) (l : Launch) : Dev :=
  if l.phase == .aborting && l.targets.contains pos then
    let left := l.targets.filter (· != pos)
    let hit := l.hit || aborted
    let s := s.modLaunch c l.pos (fun l => { l with targets := left, hit := hit })
    if left.isEmpty then s.finishLaunch c l.pos (if hit then .done else .nothingToAbort) else s
  else s

/-- A FENCE ends once no earlier record is outstanding. -/
def Dev.tryFence (c : Nat) (s : Dev) (l : Launch) : Dev :=
  let base : U32 := BitVec.ofNat 32 (s.ctx c).retired
  let earlier := (s.ctx c).launches.any (fun k => decide ((k.pos - base).toNat < (l.pos - base).toNat))
  if l.phase == .fence && !earlier then s.finishLaunch c l.pos .done else s

/-- Retirement of the record at `pos`, with what waits for it. -/
def Dev.retireLaunch (s : Dev) (c : Nat) (pos : U32) (aborted : Bool) : Dev :=
  let s := s.modCtx c (fun x => x.retire pos)
  let s := (s.ctx c).launches.foldl (Dev.noteTarget pos aborted c) s
  (s.ctx c).launches.foldl (Dev.tryFence c) s

/-- Bytes of a completion record (Table 2.16). -/
def Cpl.bytes (q : Cpl) (phase : Nat) (retired : U64) (time : U64) (exc : BitVec 9) : List Byte :=
  leBytes 4 (at' q.ltag.toNat 16 + at' phase 15 + at' (if q.tag.isSome then q.tile % 128 else 0) 8 + q.status.code)
    ++ leBytes 4 (at' (q.slot.getD 0 % 8) 16 + (q.tag.getD 0).toNat)
    ++ leBytes 8 q.pos.toNat ++ leBytes 8 retired.toNat ++ leBytes 8 q.step.toNat ++ leBytes 8 time.toNat
    ++ leBytes 4 exc.toNat ++ leBytes 4 (at' (b2n q.slot.isSome) 1 + b2n q.tag.isSome) ++ zeros 16

/-- A completion record can be written: one waits, its ring has room, and host memory can be reached. -/
def Dev.canComplete (s : Dev) (c : Nat) : Bool :=
  !(s.ctx c).cpls.isEmpty && (s.ring c 1).en && (s.ring c 1).room && s.hif.hostUp

/-- The oldest waiting completion record written and acknowledged: its launch record retires unless its
status is FAULT_DISCARDED (R57). -/
def Dev.writeCompletion (s : Dev) (c : Nat) : Dev :=
  match (s.ctx c).cpls with
  | [] => s
  | q :: rest =>
    if !s.canComplete c then s
    else
      let s := s.modCtx c (fun x => { x with cpls := rest })
      let s := if q.status == .faultDiscarded then s else s.retireLaunch c q.pos (q.status == .aborted)
      let (r, s) := match q.retiredAt with
        | some r => (r, s)
        | none => s.retiredPos c
      s.ringWrite c 1 (q.bytes (s.ring c 1).phase r s.time.ns (s.ctx c).exc) false

def execCompletionRecordWrite (c : CtxId) (s : State) : Host.Outcome State Fault Refusal :=
  s.onDev (fun d => d.writeCompletion c.val)

/-! ## Interrupts (R353, R354) -/

/-- ITIMER µs after the first counted record the ring's message is sent. -/
def Dev.ringTimer (s : Dev) (c r : Nat) : Dev :=
  let g := s.ring c r
  if g.ien && g.itimer != 0 && decide (0 < g.k) then (s.setRing c r { g with k := 0 }).message c g.vec.toNat
  else s

def execInterruptTimer (c : CtxId) (r : Fin 4) (s : State) : Host.Outcome State Fault Refusal :=
  s.onDev (fun d => d.ringTimer c.val r.val)

/-- The pending message of a vector is sent once nothing masks it. -/
def Dev.sendPending (s : Dev) (c i : Nat) : Dev :=
  let x := s.ctx c
  if s.hif.msixOpen && !bit x.msixMask.toNat i && bit x.msixPend.toNat i then
    (s.setCtx c { x with msixPend := x.msixPend &&& ~~~(BitVec.ofNat 32 (2 ^ i)) }).message c i
  else s

/-- The mask bit of a vector is written; a pending message is sent when nothing masks it any more (R353).
PRESUMED, log entry 120. -/
def Dev.maskVector (s : Dev) (v : Nat) (m : Bool) : Dev :=
  let c := v / 32
  let i := v % 32
  let b : BitVec 32 := BitVec.ofNat 32 (2 ^ i)
  (s.modCtx c (fun x => { x with msixMask := if m then x.msixMask ||| b else x.msixMask &&& ~~~b })).sendPending c i

/-- MSI-X Enable and Function Mask are written; pending messages that nothing masks any more are sent. -/
def Dev.msixControl (s : Dev) (en fnMask : Bool) : Dev :=
  let s := { s with hif := { s.hif with msixEn := en, msixFnMask := fnMask } }
  allCtx.foldl (fun s c => if (s.ctx c).msixPend = 0 then s else (List.range 32).foldl (fun s i => s.sendPending c i) s) s

def execMsixVectorUnmask (v : Fin 2048) (s : State) : Host.Outcome State Fault Refusal :=
  s.onDev (fun d => if d.barOpen then d.maskVector v.val false else d)

end Sys2Proof.Machine
end

