-- ==== Sys2Proof/Machine/Dispatcher.lean ====
section
/-! DEFINITION. The dispatcher: reading launch records (R56), their checks (R55, R306, R372), loads
(R60 to R63), starts (R58, R59), ABORT (R65, R66) and FENCE (Table 2.14). -/
namespace Sys2Proof.Machine
open Sys2Proof

/-! ## Access to the HBM pool -/

/-- The pool lines of `n` bytes at pool address `a`. -/
def linesOf (a n : Nat) : List Nat :=
  if n = 0 then [] else (List.range ((a + n - 1) / 64 - a / 64 + 1)).map (· + a / 64)

/-! ## Channels and the check of a line (R213, R214, R217 to R219) -/

def MemBlk.chan (m : MemBlk) (k : Nat) : Chan := Tab.get {} m.chans k
def MemBlk.setChan (m : MemBlk) (k : Nat) (v : Chan) : MemBlk := { m with chans := Tab.set m.chans k v }
def MemBlk.active (m : MemBlk) : List Nat := (List.range 256).filter (fun k => !(m.chan k).retired)

/-- Channel and channel offset of a pool address (R214). -/
def MemBlk.place (m : MemBlk) (a : Nat) : Nat × Nat :=
  let n := m.nch.toNat
  let g := a / 256
  let q := g / n
  let k := (g % n + q % n) % n
  (listGet m.active k, q * 256 + a % 256)

/-- A corrected line is counted for its channel and its row (R218, R221). -/
def Dev.hbmCorrected (s : Dev) (line : Nat) : Dev :=
  let (k, o) := s.mem.place (64 * line)
  let h := s.mem.chan k
  let (b, r) := Config.rowOf k o
  { s with mem := s.mem.setChan k { h with
      corr := satAdd h.corr 1, rows := h.rows ++ [(b, r, s.time.ns.toNat)] } }

/-- An uncorrectable line is poisoned and counted (R219). -/
def Dev.hbmUncorrectable (s : Dev) (line : Nat) : Dev :=
  let (k, o) := s.mem.place (64 * line)
  let h := s.mem.chan k
  let m := s.mem.setChan k { h with uncorr := satAdd h.uncorr 1, rowUnc := Config.rowOf k o :: h.rowUnc }
  { s with mem := { m with poison := if m.poison.contains line then m.poison else line :: m.poison } }

/-- A line's codeword meets an upset that a later read finds (R217). -/
def MemBlk.upset (m : MemBlk) (line : Nat) (bad : Bool) : MemBlk :=
  { m with latent := Tab.set m.latent line (bad || (Tab.find m.latent line).getD false) }

/-- A read of a line finds what its codeword has met: a correction, which is written back, or an uncorrectable error
(R217, R218, R219). -/
def Dev.meetLine (s : Dev) (line : Nat) : Dev :=
  match Tab.find s.mem.latent line with
  | none => s
  | some bad =>
    let s := { s with mem := { s.mem with latent := Tab.del s.mem.latent line } }
    if bad then s.hbmUncorrectable line else s.hbmCorrected line

/-- A read of several lines. -/
def Dev.meetLines (s : Dev) (lines : List Nat) : Dev :=
  if s.mem.latent.isEmpty then s
  else (s.mem.latent.filter (fun e => lines.contains e.1)).foldl (fun s e => s.meetLine e.1) s

/-- The upset that a command brings (R141, R217, R226; log entry 9): it stays until a read finds it. -/
def Dev.bringUpset (s : Dev) (c : Nat) (u : Upset) : Dev :=
  let store (t : Nat) (bad : Bool) : Dev := s.modHealth c t (fun h => { h with storeErr := some (bad || h.storeErr == some true) })
  match u with
  | .tileStoreCorrected t => store t false
  | .tileStoreUncorrectable t => store t true
  | .hbmCorrected l => { s with mem := s.mem.upset l false }
  | .hbmUncorrectable l => { s with mem := s.mem.upset l true }
  | _ => s

/-- Reads of the stores of logical tiles find what they have met: a correction, which is counted, or an uncorrectable
error (R226). The answer says whether one was uncorrectable. -/
def Dev.meetStores (s : Dev) (c : Nat) (ts : List Nat) : Dev × Bool :=
  ts.foldl (fun r t =>
    match (r.1.health c t).storeErr with
    | none => r
    | some bad =>
      let s := r.1.modHealth c t (fun h => { h with storeErr := none })
      if bad then (s, true) else (s.modTile c t (fun x => { x with tsCorr := satAdd x.tsCorr 1 }), r.2)) (s, false)

/-- An access of the device to pool lines: it waits while the host may cache one (R229), a read corrects what it can, a
read of a poisoned line is a device fault (R219), and otherwise it is performed.
DESIGN CHOICE, log entry 21.
DEDUCED, log entry 62. -/
def Dev.withPool (s : Dev) (lines reads : List Nat) (act : Dev → Dev) : Dev :=
  let cached := s.mem.cached lines
  if !cached.isEmpty then { s with mem := s.mem.invalidate cached }
  else
    let s := s.meetLines reads
    if s.mem.poisoned reads then s.deviceFault 0x03 else act s

/-! ## Reading a record (R56) -/

def LaunchRec.tiles (r : LaunchRec) : List Nat := maskBits 128 r.tmask.toNat
def LaunchRec.pages (r : LaunchRec) : List Nat := (List.range (r.pcnt + 1)).map (r.page + ·)
def LaunchRec.bytes (r : LaunchRec) : Nat := 16 * r.len

/-- The dispatcher reads a further record of the context (R14, R56, R58, R59, R319, R339, R343, R372,
R390). -/
def Dev.canRead (s : Dev) (c : Nat) : Bool :=
  let x := s.ctx c
  let g := s.ring c 0
  g.en && g.dev != g.host && s.hif.hostUp && x.resid == .resident && !x.faultHold && !x.quiesced
    && s.up.tiles && s.hbmRunning && decide (x.launches.length < 32)
    && !x.launches.any (fun l => l.phase == .fence || l.phase == .waitPage)
    && (s.tilesOf c).all (fun t => decide ((s.tile c t).startq.length < 4))

/-- The record at the dispatcher's head. -/
def Dev.peek (s : Dev) (c : Nat) : LaunchRec :=
  let g := s.ring c 0
  parseLaunch (Mem.readN s.hif.hostMem (g.base.toNat * 4096 + g.dev.toNat % g.size * 64) 64)

/-! ## Checks (R9, R55, R306, R372) -/

/-- Known record types (Table 2.14). -/
def LaunchRec.known (r : LaunchRec) : Bool := 1 ≤ r.type.toNat && r.type.toNat ≤ 5

/-- SRC of a LOAD or LOAD_CHAIN. -/
def LaunchRec.srcAddr (r : LaunchRec) : Option Addr := parseAddr r.src.toNat

def hbmOrHost (sp : Space) : Bool :=
  match sp with
  | .hbm => true
  | .host => true
  | _ => false

def LaunchRec.malformed (r : LaunchRec) : Bool :=
  let k := r.type.toNat
  r.zero1 != 0 || r.zero2 != 0 || !r.known || (k == 3 && r.go)
    || ((k == 1 || k == 3) && !(r.srcAddr.any (fun a => hbmOrHost a.space)))
    || (k == 4 && r.src.toNat / 65536 != 0)

def Dev.recordRange (s : Dev) (c : Nat) (r : LaunchRec) : Bool :=
  let k := r.type.toNat
  let n := (s.ctx c).ntile.toNat
  let addressed := decide (k ≤ 3)
  let load := k == 1 || k == 3
  (addressed && (r.tiles.any (fun t => decide (n ≤ t)) || decide (15 < r.page + r.pcnt)))
    || (load && (r.len == 0 || decide ((r.pcnt + 1) * 256 < r.len)
      || !(r.srcAddr.any (fun a => s.inSpace c a.space a.off ((a.off : Int) + r.bytes - 1) false))))

/-- The logical tiles that run root jobs (Table 12.14). -/
def Ctx.rootTiles (x : Ctx) : List Nat :=
  (List.range (min 8 (fld x.upd.rootW0.toNat 63 60))).map (fun k => fld x.upd.rootW0.toNat (7 * k + 6) (7 * k))

/-- The power domain of a physical tile's pair (R371). -/
def tileDom (p : Nat) : Nat := p / 2

/-- A tile that no launch record may name: a root tile, or one whose tile-pair domain rests or stands. -/
def Dev.tileBusy (s : Dev) (c t : Nat) : Bool :=
  (s.ctx c).rootTiles.contains t ||
    (match s.phys c t with
     | some p => !s.domRunning (tileDom p)
     | none => false)

/-- The failure a record is found with when it is read. -/
def Dev.recordFail (s : Dev) (c : Nat) (r : LaunchRec) : Option Failure :=
  if r.malformed then some ⟨.invalidWord, r.tiles.headD 0, none, none⟩
  else if s.recordRange c r then some ⟨.range, r.tiles.headD 0, none, none⟩
  else if r.type.toNat ≤ 3 then
    (r.tiles.find? (s.tileBusy c)).map (fun t => (⟨.busy, t, none, none⟩ : Failure))
  else none

/-! ## Pages (R62 to R64) -/

/-- The page of the chain record of a vector slot. -/
def SlotOp.chainPage (o : SlotOp) : Option Nat :=
  match o with
  | .vec _ _ _ _ _ _ _ _ _ _ ch => ch
  | _ => none

/-- The program's fetch pointer lies in the page, or a loop-stack entry returns into it. -/
def Prog.uses (g : Prog) (p : Nat) : Bool :=
  !g.stopped && (g.off / 4096 == p || g.loops.any (fun l => l.start / 4096 == p))

/-- A page is in use (list before R60). -/
def Tile.pageInUse (x : Tile) (p : Nat) : Bool :=
  (x.page p).st == .loading || (x.page p).st == .closing
    || x.prog.any (fun g => g.uses p)
    || x.startq.any (fun e => e.page == p)
    || x.words.any (fun w => w.slots.any (fun y => y.st != .ended && y.op.chainPage == some p))

/-- Enables of the hitch slot of a word: WAIT and WAIT2. -/
def RawWord.hitchWaits (w : RawWord) : Bool × Bool :=
  match w.slots.find? (fun r => r.num = 7) with
  | none => (false, false)
  | some r => (r.we, bit r.w2 16)

/-- The program's next word is the word being issued: its hitch-slot waits have all been granted, or it waits on no
hitch and its page closed while it was being issued (R63).
DEDUCED, log entry 27. -/
def Tile.committed (x : Tile) : Bool :=
  match x.prog with
  | none => false
  | some g =>
    let (a, b) := (x.fetch g.off).hitchWaits
    !g.stopped && (g.current || ((a || b) && (!a || g.wait1 == .granted) && (!b || g.wait2 == .granted)))

/-- The program has begun to wait for its next word and has not been granted all. -/
def Tile.waiting (x : Tile) : Bool :=
  match x.prog with
  | none => false
  | some g => !g.stopped && !x.committed && (g.wait1 != .unasked || g.wait2 != .unasked)

/-- Chain slots that refer to a page, by word and state. -/
def Tile.chainSlots (x : Tile) (p : Nat) : List (Nat × ISlot) :=
  x.words.flatMap (fun w => (w.slots.filter (fun y => y.op.chainPage == some p)).map (fun y => (w.seq, y)))

/-- A word of a closing page that waits on no hitch is the current word of its control core (R63).
DEDUCED, log entry 27. -/
def Tile.holdCurrent (x : Tile) (p : Nat) : Tile :=
  { x with prog := x.prog.map (fun g =>
      if g.off / 4096 == p && !g.stopped && (x.page p).st == .loaded && (x.fetch g.off).hitchWaits == (false, false)
          && g.gens.any (fun e => e.1 = p && e.2 = (x.page p).gen) then { g with current := true } else g) }

/-- A forced reload closes a page of one tile (R63): a sleeping word of the page is abandoned, and queued
slots that refer to it are discarded. -/
def Dev.closePage (c t : Nat) (s : Dev) (p : Nat) : Dev :=
  let s := s.modTile c t (fun x => (x.holdCurrent p).setPage p { x.page p with st := .closing })
  let x := s.tile c t
  let (s, js) := if x.waiting && x.prog.any (fun g => g.off / 4096 == p) then s.abandonWord c t true else (s, [])
  s.runJobs (js ++ ((x.chainSlots p).filter (fun e => e.2.st == .queued)).map (fun e =>
    Job.endSlot c t e.1 3 .stalePage))

/-- Loading begins: the pages are marked on every tile. -/
def Dev.beginLoad (s : Dev) (c : Nat) (r : LaunchRec) : Dev :=
  r.tiles.foldl (fun s t =>
    if r.force then r.pages.foldl (Dev.closePage c t) s
    else s.modTile c t (fun x => r.pages.foldl (fun x p => x.setPage p { x.page p with st := .loading }) x)) s

/-! ## Starting programs (R35, R58, R59) -/

/-- Generations of every page of a tile. -/
def Tile.gens (x : Tile) : List (Nat × U16) := (List.range 16).map (fun p => (p, (x.page p).gen))

/-- A program begins (R35). -/
def Tile.begin' (x : Tile) (e : StartReq) : Tile :=
  { x with
    prog := some { pos := e.pos, step := e.step, off := 4096 * e.page + 16 * e.soff, gens := e.gens }
    regs := Tab.set (Tab.set [] 0 e.arg0) 1 e.arg1 }

/-- A tile may begin a program: none runs and no self-test is owed (R107). -/
def Dev.freeToStart (s : Dev) (c t : Nat) : Bool := (s.tile c t).prog.isNone && !(s.health c t).selfTest

/-- One tile starts a block, or queues the start behind others. -/
def Dev.startTile (pos : U32) (r : LaunchRec) (c : Nat) (s : Dev) (t : Nat) : Dev :=
  s.modTile c t (fun x =>
    let e : StartReq := ⟨pos, r.page, r.soff, x.gens, r.step, r.arg0, r.arg1⟩
    if s.freeToStart c t && x.startq.isEmpty then x.begin' e else { x with startq := x.startq ++ [e] })

/-- What the start checks find on one tile (R59, R64).
DEDUCED, log entry 37. -/
def Tile.startFail (x : Tile) (r : LaunchRec) : Option Status :=
  let p := x.page r.page
  let bad := p.st == .loaded && (p.chain || !p.starts.contains (4096 * r.page + 16 * r.soff))
  let stale := p.st != .loaded || (r.type == 2 && r.chkgen && p.gen != r.egen)
  firstStatus [failIf bad .invalidWord, failIf stale .stalePage]

/-- The failure of the start checks over all tiles: the first status in order, on the lowest tile. -/
def Dev.startFail (s : Dev) (c : Nat) (r : LaunchRec) : Option Failure :=
  let found := r.tiles.filterMap (fun t => ((s.tile c t).startFail r).map (fun st => (t, st)))
  (chooseFailure found).map (fun e => ⟨e.2, e.1, none, none⟩)

/-- The TAG of the word at the start of a block. -/
def Dev.startTag (s : Dev) (c t : Nat) (page soff : Nat) : U16 :=
  ((s.tile c t).fetch (4096 * page + 16 * soff)).tag

/-- The launch ends with a failure found before anything has started. -/
def Dev.refuseLaunch (s : Dev) (c : Nat) (pos : U32) (f : Failure) : Dev :=
  (s.failLaunch c pos f).finishLaunch c pos .done

/-- The start part of a record (R59). It waits in `waitPage` while the page is loading or a start queue
has no room. An aborted one reports the TAG of the first word it would have issued (R66).
DEDUCED, log entry 37; DEDUCED, log entry 117. -/
def Dev.startPart (s : Dev) (c : Nat) (l : Launch) : Dev :=
  let r := l.record
  let ts := r.tiles
  let t0 := ts.headD 0
  let setPhase (ph : LaunchPhase) : Dev := s.modLaunch c l.pos (fun l => { l with phase := ph, left := ts })
  if ts.isEmpty then s.finishLaunch c l.pos .done
  else if ts.any (fun t => ((s.tile c t).page r.page).st == .loading) then setPhase .waitPage
  else
    match s.startFail c r with
    | some f => s.refuseLaunch c l.pos f
    | none =>
      if l.abort then s.refuseLaunch c l.pos ⟨.aborted, t0, some (s.startTag c t0 r.page r.soff), none⟩
      else if ts.any (fun t => decide (4 ≤ (s.tile c t).startq.length)) then setPhase .waitPage
      else ts.foldl (Dev.startTile l.pos r c) (setPhase .running)

/-- Start parts that waited are tried again. -/
def Dev.retryStarts (s : Dev) (c : Nat) : Dev :=
  (s.ctx c).ringOrder.foldl (fun s l => if l.phase == .waitPage then s.startPart c l else s) s

/-! ## Aborting (R65, R66) -/

/-- The abort of a launch on one tile: a start that still waits is withdrawn, and a program whose next word
is an abort point stops before it. Each tile that stops reports ABORTED with a TAG, one that had not started too.
DEDUCED, log entry 117. -/
def Dev.abortTile (c : Nat) (pos : U32) (s : Dev) (t : Nat) : Dev :=
  let x := s.tile c t
  match x.startq.find? (fun e => e.pos = pos) with
  | some e =>
    let s := s.modTile c t (fun x => { x with startq := x.startq.filter (fun e => e.pos != pos) })
    let s := s.failLaunch c pos ⟨.aborted, t, some (s.startTag c t e.page e.soff), none⟩
    let s := s.modLaunch c pos (fun l => { l with left := l.left.filter (· != t) })
    match s.launch? c pos with
    | none => s
    | some l => if l.left.isEmpty then s.finishLaunch c pos .done else s
  | none =>
    match x.prog with
    | none => s
    | some g =>
      let w := x.fetch g.off
      if g.pos = pos && !g.stopped && x.waiting && w.abortPt then
        let (s, js) := s.stopProgram c t true
        (s.failLaunch c pos ⟨.aborted, t, some w.tag, none⟩).runJobs (js ++ [.sweep c t])
      else s

/-- An ABORT latches against one target. -/
def Dev.abortLaunch (c : Nat) (s : Dev) (pos : U32) : Dev :=
  let s := s.modLaunch c pos (fun l => { l with abort := true })
  match s.launch? c pos with
  | none => s
  | some l => if l.phase == .running then l.left.foldl (Dev.abortTile c pos) s else s

/-- The targets of an ABORT record: earlier records of the context with the LTAG, not retired. -/
def Dev.abortTargets (s : Dev) (c : Nat) (l : Launch) : List U32 :=
  ((s.ctx c).ringOrder.filter (fun k => k.pos != l.pos && k.record.ltag.toNat == l.record.src.toNat % 65536)).map (·.pos)

def Dev.acceptAbort (s : Dev) (c : Nat) (l : Launch) : Dev :=
  let ts := s.abortTargets c l
  if ts.isEmpty then s.finishLaunch c l.pos .nothingToAbort
  else ts.foldl (Dev.abortLaunch c) (s.modLaunch c l.pos (fun l => { l with phase := .aborting, targets := ts }))

/-! ## Accepting records -/

def Dev.acceptLoad (s : Dev) (c : Nat) (l : Launch) : Dev :=
  let r := l.record
  match if r.force then none else r.tiles.find? (fun t => r.pages.any (s.tile c t).pageInUse) with
  | some t => s.refuseLaunch c l.pos ⟨.busy, t, none, none⟩
  | none => if r.tiles.isEmpty then s.finishLaunch c l.pos .done else s.beginLoad c r

def Dev.acceptFence (s : Dev) (c : Nat) (l : Launch) : Dev :=
  let s := s.modLaunch c l.pos (fun l => { l with phase := .fence })
  (s.ctx c).launches.foldl (Dev.tryFence c) s

/-- The record is read: the head moves and the launch is outstanding. -/
def Dev.takeRecord (s : Dev) (c : Nat) : Launch × Dev :=
  let g := s.ring c 0
  let l : Launch := { pos := g.dev, record := s.peek c, phase := .loading }
  (l, (s.setRing c 0 { g with dev := g.dev + 1 }).modCtx c (fun x => { x with launches := x.launches ++ [l] }))

/-- The dispatcher reads the record at its head, of the type wanted or of no known type, and acts on it
with `accept` when its checks pass. -/
def Dev.readRecord (s : Dev) (c : Nat) (type : Nat) (accept : Dev → Launch → Dev) : Dev :=
  let r := s.peek c
  if !s.canRead c || (r.known && r.type.toNat != type) then s
  else
    let fail := s.recordFail c r
    let (l, s) := s.takeRecord c
    match fail with
    | some f => s.refuseLaunch c l.pos f
    | none => accept s l

def execLoad (c : CtxId) (s : State) : Host.Outcome State Fault Refusal :=
  s.onDev (fun d => d.readRecord c.val 1 (fun d l => d.acceptLoad c.val l))
def execLoadChain (c : CtxId) (s : State) : Host.Outcome State Fault Refusal :=
  s.onDev (fun d => d.readRecord c.val 3 (fun d l => d.acceptLoad c.val l))
def execStart (c : CtxId) (s : State) : Host.Outcome State Fault Refusal :=
  s.onDev (fun d => d.readRecord c.val 2 (fun d l => d.startPart c.val l))
def execAbort (c : CtxId) (s : State) : Host.Outcome State Fault Refusal :=
  s.onDev (fun d => d.readRecord c.val 4 (fun d l => d.acceptAbort c.val l))
def execFence (c : CtxId) (s : State) : Host.Outcome State Fault Refusal :=
  s.onDev (fun d => d.readRecord c.val 5 (fun d l => d.acceptFence c.val l))

/-! ## The end of a load (R60, R61, R63) -/

/-- What the check of the loaded bytes finds (R41, R60): the words' starts, or the TAG and slot reported. A trailing part
record of a chain load is checked as if zeros followed it, and records beyond the loaded bytes are not checked.
DEDUCED, log entry 117. -/
def LaunchRec.check (r : LaunchRec) (bs : List Byte) : Except (Option U16 × Option Nat) (List Nat) :=
  if r.type == 3 then
    if (List.range ((bs.length + 63) / 64)).all (fun i =>
        let b := (bs.drop (64 * i) ++ zeros 64).take 64
        chainRecordOk b && (parseChain b).ok) then .ok []
    else .error (none, none)
  else
    match blockCheck bs with
    | .good starts => .ok starts
    | .bad tag slot => .error (some tag, slot)

/-- Another record still loads page `p` of tile `t`. -/
def Dev.otherLoader (s : Dev) (c : Nat) (pos : U32) (t p : Nat) : Bool :=
  (s.ctx c).launches.any (fun k => k.pos != pos && k.phase == .loading
    && k.record.tiles.contains t && k.record.pages.contains p)

/-- One page of a tile once its load has ended. -/
def loadedPage (r : LaunchRec) (bs : List Byte) (res : Option (List Nat)) (closing : Bool) (p : Nat) (old : Page) :
    Page :=
  match res with
  | none => { st := if closing then .closing else .empty, chain := false, gen := old.gen + 1 }
  | some starts =>
    let (st, sk) := if r.type == 3 then ([], []) else pageRecord bs starts r.page p
    { st := if closing then .closing else .loaded, chain := r.type == 3, gen := old.gen + 1,
      starts := st, skips := sk }

/-- The pages of one tile once the load has ended. -/
def Dev.writePages (c : Nat) (pos : U32) (r : LaunchRec) (bs : List Byte) (res : Option (List Nat))
    (s : Dev) (t : Nat) : Dev :=
  let closing (p : Nat) : Bool := s.otherLoader c pos t p
  s.modTile c t (fun x =>
    let x := r.pages.foldl (fun x p => x.setPage p (loadedPage r bs res (closing p) p (x.page p))) x
    if res.isSome then { x with dstore := Mem.writeN x.dstore (4096 * r.page) bs } else x)

/-- The data of a load has arrived and is checked. -/
def Dev.finishLoad (s : Dev) (c : Nat) (l : Launch) (bs : List Byte) : Dev :=
  let r := l.record
  match r.check bs with
  | .error (tag, slot) =>
    let s := r.tiles.foldl (Dev.writePages c l.pos r bs none) s
    (s.refuseLaunch c l.pos ⟨.invalidWord, r.tiles.headD 0, tag, slot⟩).retryStarts c
  | .ok starts =>
    let s := r.tiles.foldl (Dev.writePages c l.pos r bs (some starts)) s
    let s := if r.go && r.type == 1 then s.startPart c l else s.finishLaunch c l.pos .done
    s.retryStarts c

/-- A closing page of the tile still has work under its old generation (R63). -/
def Tile.closingBusy (x : Tile) (p : Nat) : Bool :=
  (x.page p).st == .closing &&
    ((x.chainSlots p).any (fun e => e.2.st == .started || e.2.st == .performed)
      || (x.committed && x.prog.any (fun g => g.off / 4096 == p)))

/-- The load of the record at `pos` ends: its data has arrived and its closing pages are free. -/
def Dev.pageLoadEnd (s : Dev) (c : Nat) (pos : U32) : Dev :=
  match s.launch? c pos with
  | none => s
  | some l =>
    let r := l.record
    if l.phase != .loading || (s.ctx c).resid != .resident
        || r.tiles.any (fun t => r.pages.any (s.tile c t).closingBusy) then s
    else
      match r.srcAddr with
      | none => s
      | some a =>
        let go (s : Dev) : Dev := s.finishLoad c l (s.readBytes c a r.bytes)
        match a.space with
        | .hbm =>
          let lines := linesOf ((s.ctx c).pool a.off) r.bytes
          s.withPool lines lines go
        | _ => if s.hif.hostUp then go s else s

def execPageLoadEnd (c : CtxId) (pos : U32) (s : State) : Host.Outcome State Fault Refusal :=
  s.onDev (fun d => d.pageLoadEnd c.val pos)

/-! ## Start queues (R58, R107) -/

/-- The tile begins the program at the head of its start queue. -/
def Dev.startQueueBegin (s : Dev) (c t : Nat) : Dev :=
  let x := s.tile c t
  match x.startq with
  | [] => s
  | e :: rest =>
    if !s.freeToStart c t || (s.ctx c).resid != .resident then s
    else (s.setTile c t ({ x with startq := rest }.begin' e)).retryStarts c

def execStartQueueBegin (c : CtxId) (t : TileId) (s : State) : Host.Outcome State Fault Refusal :=
  s.onDev (fun d => d.startQueueBegin c.val t.val)

end Sys2Proof.Machine
end

