-- ==== Sys2Proof/Machine/SfuLoad.lean ====
section
/-! DEFINITION. Loading user tables and user functions through the registers of the special function unit
(R153 to R155). -/
namespace Sys2Proof.Machine
open Sys2Proof

/-- Bits 0 to 127 of SFU_LOAD_TMASK as logical tiles. -/
def SfuReq.tiles (l : SfuReq) : List Nat := maskBits 128 (l.tmask0.toNat + at' l.tmask1.toNat 64)

/-- The functions a slot is bound to. -/
def SlotOp.fnRefs (o : SlotOp) : List FnRef :=
  match o with
  | .vec _ stages _ _ _ _ _ _ _ _ _ => stages.filterMap (fun g => g.fn)
  | .fn _ f _ _ => [f]
  | _ => []

/-- Generations of table 15 that ROPE stages of a slot hold. -/
def SlotOp.thetas (o : SlotOp) : List U16 :=
  match o with
  | .vec _ stages _ _ _ _ _ _ _ _ _ => (stages.filter (fun g => g.op == 0x66)).map (fun g => g.thetaGen)
  | _ => []

/-- Slots of a tile that have not completed. -/
def Tile.liveOps (x : Tile) : List SlotOp :=
  x.words.flatMap (fun w => (w.slots.filter (fun y => y.st != .ended)).map (fun y => y.op))

/-- No replaced copy of user table `i` is held, and no shadow awaits commit (R155). -/
def Tile.tblSettled (x : Tile) (i : Nat) : Bool :=
  let k := x.tbls
  let t : UserTbl := Tab.get {} k i
  t.shadow.isNone && x.liveOps.all (fun o =>
    o.fnRefs.all (fun f =>
      match f with
      | .user _ _ _ ts => ts.all (fun e => e.1 != i || e.2.1 == t.gen)
      | .lib _ => true)
    && (i != 15 || o.thetas.all (fun g => g == t.gen)))

/-- The same for user function `f`. -/
def Tile.fnSettled (x : Tile) (f : Nat) : Bool :=
  let u : UserFn := Tab.get {} x.fns f
  u.shadow.isNone && x.liveOps.all (fun o => o.fnRefs.all (fun r =>
    match r with
    | .user n ver _ _ => n != f || ver == u.ver
    | .lib _ => true))

/-- Bytes of the image: a function's own header gives its length. -/
def Dev.imageLen (s : Dev) (a : Addr) : Nat :=
  let l := s.sfu.run
  if l.kind then 16 + 8 * imageSteps (s.readBytes l.c.toNat a 16) else 4 * l.count.toNat

/-- The whole image lies in the HBM space of the context, or in one range of its host-access table that permits
reads (R153, R345).
DEDUCED, log entry 97. -/
def Dev.imageIn (s : Dev) (a : Addr) : Bool :=
  let l := s.sfu.run
  let holds (last : Int) : Bool := s.inSpace l.c.toNat a.space a.off ((a.off : Int) + last) false
  hbmOrHost a.space && holds (if l.kind then 15 else 0) && holds (max 1 (s.imageLen a) - 1)

/-- The checks of R153 step 2 after those that answer INVALID_WORD, in the order of R415; `barred` tells that the
host-access table does not hold the source (R345).
DEDUCED, log entry 97. -/
def Dev.sfuRefusals (s : Dev) (barred : Bool) : List (Bool × Status) :=
  let l := s.sfu.run
  let c := l.c.toNat
  let i := l.index.toNat
  let n := l.count.toNat
  let settled (t : Nat) : Bool := if l.kind then (s.tile c t).fnSettled i else (s.tile c t).tblSettled i
  [(l.src.toNat % 64 != 0, .align),
   (barred || l.tiles.any (fun t => decide ((s.ctx c).ntile.toNat ≤ t))
      || (if l.kind then n != 0 || decide (i < 0x80) else n == 0 || decide (1024 < n) || decide (15 < i)), .range),
   (!l.tiles.all settled, .busy)]

/-- The status of the load: a source in neither the HBM nor the host space ends it with INVALID_WORD (R153), one
in the host space that the host-access table does not hold with RANGE (R345).
DEDUCED, log entry 97. -/
def Dev.sfuStatus (s : Dev) (a : Option Addr) : Status :=
  match a with
  | none => .invalidWord
  | some a =>
    let l := s.sfu.run
    let out := !s.imageIn a
    let barred := out && (match a.space with | .host => true | _ => false)
    let badImage := l.kind && !out && !imageOk (s.readBytes l.c.toNat a (s.imageLen a))
    firstRefusal (((out && !barred) || badImage, .invalidWord) :: s.sfuRefusals barred)

/-- The image as the shadow copy of its table or function on one tile; it commits at once where no program
runs (R154). -/
def Tile.shadow (x : Tile) (l : SfuReq) (bs : List Byte) : Tile :=
  let i := l.index.toNat
  let x : Tile :=
    if l.kind then
      let u : UserFn := Tab.get {} x.fns i
      { x with fns := Tab.set x.fns i { u with shadow := some (parseImage bs) } }
    else
      let u : UserTbl := Tab.get {} x.tbls i
      { x with tbls := Tab.set x.tbls i { u with
          shadow := some ((List.range l.count.toNat).map (fun k => BitVec.ofNat 32 (leAt bs (4 * k) 4))) } }
  if x.prog.isNone then x.commitShadows else x

/-- The end of a load with a status. -/
def Dev.sfuEnd (s : Dev) (st : Status) : Dev :=
  { s with sfu := { s.sfu with state := if st = Status.done then 2 else 3, status := st.byte } }

/-- The load runs, its image having been read. -/
def Dev.sfuFinish (s : Dev) (a : Option Addr) : Dev :=
  let st := s.sfuStatus a
  match a with
  | none => s.sfuEnd st
  | some a =>
    if st = Status.done then
      let l := s.sfu.run
      let bs := s.readBytes l.c.toNat a (s.imageLen a)
      (l.tiles.foldl (fun s t => s.modTile l.c.toNat t (fun x => x.shadow l bs)) s).sfuEnd .done
    else s.sfuEnd st

/-- A load in progress goes on: the source is read, once the host caches none of its lines and host memory can
be reached. -/
def Dev.sfuRun (s : Dev) : Dev :=
  if s.sfu.state ≠ 1 then s
  else
    match parseAddr s.sfu.run.src.toNat with
    | none => s.sfuFinish none
    | some a =>
      match a.space with
      | .hbm =>
        if s.imageIn a then
          let lines := linesOf ((s.ctx s.sfu.run.c.toNat).pool a.off) (s.imageLen a)
          s.withPool lines lines (fun s => s.sfuFinish (some a))
        else s.sfuFinish (some a)
      | .host => if s.hif.hostUp then s.sfuFinish (some a) else s
      | _ => s.sfuFinish (some a)

/-- A write to SFU_LOAD_CTL. Its fields are written at any time; GO starts a load, and is ignored while one is in
progress (R153, R168). -/
def Dev.sfuLoad (s : Dev) (v : U64) : Dev :=
  let w := v.toNat
  let r : SfuReq := { s.sfu.regs with
    c := BitVec.ofNat 6 (fld w 37 32), kind := bit w 28, index := BitVec.ofNat 8 (fld w 27 20)
    count := BitVec.ofNat 11 w }
  let s := { s with sfu := { s.sfu with regs := r } }
  if bit w 31 && s.sfu.state != 1 then ({ s with sfu := { s.sfu with run := r, state := 1 } } : Dev).sfuRun else s

def execSfuLoad (ctl : U64) (s : State) : Host.Outcome State Fault Refusal :=
  s.onBar (fun d => d.sfuLoad ctl)

end Sys2Proof.Machine
end

