-- ==== Sys2Proof/Machine/Memory.lean ====
section
/-! DEFINITION. The memory subsystem (chapter 9): placement over the channels, ECC, scrub, repair and
retirement, the CXL.mem window with its snoop filter, the HDM decoder, and the registers MEM_ALLOT and
MEM_STG. -/
namespace Sys2Proof.Machine
open Sys2Proof

/-! ## Accesses of the pool -/

/-- The pool answers accesses (R213, R228, R372). -/
def Dev.memReady (s : Dev) : Bool := s.mem.ready && s.hbmRunning

/-! ## Patrol scrub, row repair, channel retirement (R220 to R222) -/

def Dev.patrolScrub (s : Dev) (line : Nat) (found : LineCheck) : Dev :=
  if !s.mem.scrubEn || !s.memReady || s.mem.capacity ≤ 64 * line then s
  else
    match found with
    | .clean => s.meetLine line
    | .corrected => ({ s with mem := s.mem.upset line false } : Dev).meetLine line
    | .uncorrectable => ({ s with mem := s.mem.upset line true } : Dev).meetLine line

def execPatrolScrub (line : Nat) (found : LineCheck) (s : State) : Host.Outcome State Fault Refusal :=
  s.onDev (fun d => d.patrolScrub line found)

/-- A scrub period in nanoseconds (Table 9.7). -/
def MemBlk.period (m : MemBlk) : Nat := m.scrubPeriod.toNat * 3600 * 10 ^ 9

/-- A row is to be repaired: 3 corrected errors within one scrub period, or one uncorrectable error (R221).
DESIGN CHOICE, log entry 23. -/
def Dev.rowFails (s : Dev) (h : Chan) (bank row : Nat) : Bool :=
  h.rowUnc.contains (bank, row) ||
    decide (3 ≤ (h.rows.filter (fun e => e.1 == bank && e.2.1 == row &&
      decide (s.time.ns.toNat < e.2.2 + s.mem.period))).length)

/-- Soft repair of a row, with its entry in the repair log; a bank whose spare rows are exhausted keeps the row in
service (R221). -/
def State.rowRepair (s : State) (ch bank row : Nat) (spareLeft : Bool) : State :=
  let h := s.dev.mem.chan ch
  if h.retired || !s.dev.memReady || !s.dev.rowFails h bank row then s
  else if !spareLeft then { s with dev := { s.dev with mem := s.dev.mem.setChan ch { h with
    spent := if h.spent.contains bank then h.spent else h.spent ++ [bank] } } }
  else
    let h := { h with
      ppr := satAdd h.ppr 1
      repairAt := some s.dev.time.ns.toNat
      rows := h.rows.filter (fun e => !(e.1 == bank && e.2.1 == row))
      rowUnc := h.rowUnc.filter (fun e => e != (bank, row))
      repaired := h.repaired ++ [(bank, row)] }
    { s with
      dev := { s.dev with mem := s.dev.mem.setChan ch h }
      rst := { s.rst with repairLog := s.rst.repairLog ++ [(ch, bank, row)] } }

def execRowRepair (ch : Fin 256) (bank row : Nat) (spareLeft : Bool) (s : State) :
    Host.Outcome State Fault Refusal :=
  .next (s.rowRepair ch.val bank row spareLeft)

/-- The bytes of an allotment fit in the pool (R215). -/
def fitsPool (m : MemBlk) (base size : Nat) : Bool := decide ((base + size) * 2 ^ 28 ≤ m.capacity)

/-- Allotments that no longer fit are disabled (R222 step 5). -/
def Dev.dropAllots (s : Dev) : Dev :=
  allCtx.foldl (fun s c =>
    let x := s.ctx c
    if x.allotEn && !fitsPool s.mem x.allotBase.toNat x.allotSize.toNat then
      s.setCtx c { x with allotEn := false }
    else s) s

/-- A channel has yielded an uncorrectable error in a row that cannot be repaired (R222). -/
def Chan.mustRetire (h : Chan) : Bool := h.rowUnc.any (fun r => h.spent.contains r.1)

/-- The six steps of a retirement: the pool is re-established over the other channels (R222, R323).
DEDUCED, log entry 23. -/
def Dev.loseChannel (s : Dev) (ch : Nat) : Dev :=
  let s := s.deviceFault 0x04
  let m := s.mem.setChan ch { s.mem.chan ch with retired := true }
  let m := { m with nch := m.nch - 1, pool := [], poison := [], latent := [], short := true, ready := true }
  ({ s with mem := m, farr := { s.farr with hbmShort := true } } : Dev).dropAllots

/-- A channel in service is retired where R222 calls for it. -/
def Dev.retireChannel (s : Dev) (ch : Nat) : Dev :=
  let h := s.mem.chan ch
  if h.retired || s.mem.nch == 0 || !h.mustRetire then s else s.loseChannel ch

def execChannelRetirement (ch : Fin 256) (s : State) : Host.Outcome State Fault Refusal :=
  s.onDev (fun d => d.retireChannel ch.val)

/-! ## The CXL.mem window (R228 to R231, R342) -/

def windowSize : Nat := 2 ^ 39
def snoopLimit : Nat := 4194304

/-- The decoder takes byte `a` of the window: link up, decoder committed, the byte inside the committed size (R342). -/
def Dev.windowHolds (s : Dev) (a : Nat) : Bool :=
  s.up.cxl && s.hif.up && !s.hif.flit68 && s.hif.hdmCommitted && decide (a < s.hif.hdmSize)

/-- An access the window rejects is counted (R228). -/
def Dev.rejectWindow (s : Dev) : Dev := { s with mem := { s.mem with winRej := satAdd s.mem.winRej 1 } }

/-- The host caches a line; a full filter gives up the line it has tracked longest and back-invalidates it (R229). -/
def MemBlk.track (m : MemBlk) (line : Nat) : MemBlk :=
  let old := m.snoop.filter (· != line)
  if old.length < snoopLimit then { m with snoop := old ++ [line] }
  else { m.invalidate (old.take 1) with snoop := old.drop 1 ++ [line] }

/-- A host read of the line at window byte `a`. -/
def Dev.windowRead (s : Dev) (a : Nat) (cached : Bool) : Dev :=
  if !s.windowHolds a then s
  else if !s.memReady || s.mem.capacity ≤ a then
    (({ s with hif := { s.hif with winData := zeros 64, winPoison := true } } : Dev)).rejectWindow
  else
    let l := a / 64
    let s := s.meetLine l
    let s := { s with hif := { s.hif with
      winData := Mem.readN s.mem.pool (64 * l) 64, winPoison := s.mem.poison.contains l } }
    if cached then { s with mem := s.mem.track l } else s

/-- DESIGN CHOICE, log entry 113. -/
def execHostWindowRead (a : Nat) (cached : Bool) (s : State) : Host.Outcome State Fault Refusal :=
  if windowSize ≤ a then .fault (.noSuchAddress a) else s.onDev (fun d => d.windowRead a cached)

/-- A host write of bytes of one line at window byte `a`. -/
def Dev.windowWrite (s : Dev) (a : Nat) (data : List Byte) : Dev :=
  if !s.windowHolds a then s
  else if !s.memReady || s.mem.capacity ≤ a then s.rejectWindow
  else { s with mem := s.mem.poolWrite (cellsAt a data) }

/-- DESIGN CHOICE, log entry 113. -/
def execHostWindowWrite (a : Nat) (data : List Byte) (s : State) : Host.Outcome State Fault Refusal :=
  if windowSize ≤ a then .fault (.noSuchAddress a)
  else if data.isEmpty || decide (64 < a % 64 + data.length) then
    .refused (.illFormed "a window write covers bytes of one line")
  else s.onDev (fun d => d.windowWrite a data)

/-- A snoop unanswered for 100 ms is a device fault with CAUSE 0x3F (R342). -/
def Dev.biTimeout (s : Dev) (line : Nat) : Dev :=
  if s.mem.biWait.contains line then
    ({ s with mem := { s.mem with biWait := s.mem.biWait.filter (· != line) } } : Dev).deviceFault 0x3F
  else s

def execBackInvalidateTimeout (line : Nat) (s : State) : Host.Outcome State Fault Refusal :=
  s.onDev (fun d => d.biTimeout line)

/-- The host answers a back-invalidate snoop: it holds the line no longer (R229). -/
def Dev.biResponse (s : Dev) (line : Nat) : Dev :=
  if s.mem.biWait.contains line then
    ({ s with mem := { s.mem with
        biWait := s.mem.biWait.filter (· != line), snoop := s.mem.snoop.filter (· != line) } } : Dev).sfuRun
  else s

def execBackInvalidateResponse (line : Nat) (s : State) : Host.Outcome State Fault Refusal :=
  s.onDev (fun d => d.biResponse line)

/-- The granularity of the decoder, which interleaves one way (R342). -/
def hdmGrain : Nat := 2 ^ 28

/-- The host commits the HDM decoder, whose base and size are whole numbers of 256 MiB (R342).
DESIGN CHOICE, log entry 42. -/
def Dev.hdmCommit (s : Dev) (base size : Nat) (bi : Bool) : Dev :=
  let whole (n : Nat) : Nat := n / hdmGrain * hdmGrain
  if !s.barOpen || s.hif.flit68 then s
  else if decide (windowSize < size) || !bi then { s with hif := { s.hif with hdmCommitted := false, mem := false } }
  else { s with hif := { s.hif with
    hdmCommitted := true, hdmBase := whole base, hdmSize := whole size, biEn := true, mem := true } }

/-- DESIGN CHOICE, log entry 42. -/
def execHdmCommit (base size : Nat) (backInvalidate : Bool) (s : State) : Host.Outcome State Fault Refusal :=
  s.onDev (fun d => d.hdmCommit base size backInvalidate)

/-! ## MEM_ALLOT and MEM_STG (R215, R227, R232) -/

/-- Ranges [a, a+n) and [b, b+m) share a unit. -/
def rangesMeet (a n b m : Nat) : Bool :=
  decide (0 < n) && decide (0 < m) && decide (a < b + m) && decide (b < a + n)

/-- The status of a write to MEM_ALLOT (R215, R415). -/
def Dev.allotStatus (s : Dev) (c : Nat) (v : Nat) : Status :=
  let en := bit v 0
  let base := fld v 11 1
  let size := fld v 43 32
  firstRefusal
    [(en && (!fitsPool s.mem base size || decide (size * 2 ^ 28 < saveArea (s.ctx c).ntile.toNat + 2 ^ 28)), .range),
     (en && (allCtx.any (fun k => k != c && (s.ctx k).allotEn
        && rangesMeet base size (s.ctx k).allotBase.toNat (s.ctx k).allotSize.toNat)), .overlap),
     (!s.idle c, .notIdle)]

def Dev.memStatus (s : Dev) (st : Status) : Dev := { s with mem := { s.mem with status := st.byte } }

def Dev.memAllotWrite (s : Dev) (c : Nat) (v : U64) : Dev :=
  if s.mem.pend then s
  else
    let st := s.allotStatus c v.toNat
    let s := if st == .done then s.modCtx c (fun x => { x with
        allotEn := bit v.toNat 0, allotBase := BitVec.ofNat 11 (fld v.toNat 11 1),
        allotSize := BitVec.ofNat 12 (fld v.toNat 43 32) }) else s
    s.memStatus st

def execMemAllotWrite (c : CtxId) (v : U64) (s : State) : Host.Outcome State Fault Refusal :=
  s.onBar (fun d => d.memAllotWrite c.val v)

/-- The status of a write to MEM_STG (R227). -/
def Dev.stgStatus (s : Dev) (c die : Nat) (v : Nat) : Status :=
  let meets (k : Nat) : Bool :=
    let r := Tab.get {} (s.ctx k).stg die
    k != c && r.en && rangesMeet (fld v 13 1) (fld v 45 32) r.base.toNat r.size.toNat
  firstRefusal [(allCtx.any meets, .overlap), (!s.idle c, .notIdle)]

def Dev.memStgWrite (s : Dev) (c die : Nat) (v : U64) : Dev :=
  if s.mem.pend then s
  else
    let st := s.stgStatus c die v.toNat
    let s := if st == .done then s.modCtx c (fun x => { x with
        stg := Tab.set x.stg die { en := bit v.toNat 0, base := BitVec.ofNat 13 (fld v.toNat 13 1),
                                   size := BitVec.ofNat 14 (fld v.toNat 45 32) } }) else s
    s.memStatus st

def execMemStgWrite (c : CtxId) (d : DieId) (v : U64) (s : State) : Host.Outcome State Fault Refusal :=
  s.onBar (fun x => x.memStgWrite c.val d.val v)

end Sys2Proof.Machine
end

