-- ==== Sys2Proof/Machine/ControlCore.lean ====
section
/-! DEFINITION. The control core of a tile: WORD_ISSUE (R45 to R53, R63 to R65, R154), the hitch slot
(R44, R207) and the completion of slots (R49). -/
namespace Sys2Proof.Machine
open Sys2Proof

/-! ## The scalar slot (R36) -/

/-- The iteration index of the loop at a nesting level, 0 outermost.
DESIGN CHOICE, log entry 39. -/
def Prog.level (g : Prog) (k : Nat) : Option U32 := (g.loops.reverse[k]?).map (·.iter)

/-- Source B of a scalar operation. -/
def scalarB (h : Nat) (x : Tile) : U64 :=
  if bit h 26 then BitVec.ofInt 64 (sext 32 (fld h 63 32)) else x.reg (fld h 25 20)

/-- The result of an arithmetic scalar operation (Table 2.4). -/
def scalarArith (op : Nat) (a b : U64) : U64 :=
  match op with
  | 0x01 => a + b
  | 0x02 => a - b
  | 0x03 => a * b
  | 0x04 => a &&& b
  | 0x05 => a ||| b
  | 0x06 => a ^^^ b
  | 0x07 => a <<< (b.toNat % 64)
  | 0x08 => a >>> (b.toNat % 64)
  | 0x09 => a.sshiftRight (b.toNat % 64)
  | 0x0A => if a.slt b then a else b
  | _ => if a.slt b then b else a

/-- The register a scalar slot writes, with its value; none for LOOP. An ITER whose loop the program has
not entered takes an open value (log entry 20).
DESIGN CHOICE, log entry 39. -/
def Dev.scalarResult (s : Dev) (t : Nat) (x : Tile) (g : Prog) (h : Nat) : Option (Nat × U64) :=
  let dst := fld h 13 8
  let op := fld h 7 0
  match op with
  | 0x10 => none
  | 0x11 =>
    match g.level (fld h 63 32 % 4) with
    | some i => some (dst, i.zeroExtend 64)
    | none => some (dst, Config.openAt [g.step.toNat, t, g.ord, 0])
  | 0x12 => some (dst, s.time.ns)
  | 0x0C => some (dst, scalarB h x)
  | 0x0D => some (dst, BitVec.ofNat 64 (at' (fld h 63 32) 32 + (x.reg dst).toNat % 2 ^ 32))
  | _ => some (dst, scalarArith op (x.reg (fld h 19 14)) (scalarB h x))

/-- The loop count that an LSTART word takes (R53, Table 2.4). -/
def loopCount (h : Nat) (x : Tile) : U32 :=
  if bit h 26 then BitVec.ofNat 32 (fld h 63 32) else (x.reg (fld h 19 14)).truncate 32

/-! ## Where the program goes next (R51 to R53) -/

/-- The program after word `w` at its fetch position. A LEND word reached with no open loop (a start inside a loop body)
closes none, and the core goes on to the next word.
DEDUCED, log entry 117. -/
def Prog.advance (g : Prog) (w : RawWord) (x : Tile) : Prog :=
  let after := g.off + 16 * w.len
  let loops := match w.lstart && !g.returning, w.scalar with
    | true, some h => (⟨g.off, g.count.getD (loopCount h x), 0⟩ : Loop) :: g.loops
    | _, _ => g.loops
  let g := { g with wait1 := .unasked, wait2 := .unasked, held := [], count := none, current := false, returning := false, ord := g.ord + 1 }
  match w.lend, loops with
  | true, l :: r =>
    let l := { l with iter := l.iter + 1 }
    if l.iter < l.count then { g with loops := l :: r, off := l.start, returning := true }
    else { g with loops := r, off := after, stopped := w.last }
  | _, _ => { g with loops := loops, off := after, stopped := w.last }

/-- The count of a loop is latched once, when the core comes to its LSTART word (R53). -/
def Prog.latch (g : Prog) (w : RawWord) (x : Tile) : Prog :=
  match w.lstart && !g.returning && g.count.isNone, w.scalar with
  | true, some h => { g with count := some (loopCount h x) }
  | _, _ => g

/-- The program after a loop of count 0 is skipped (R52); a loop that ends with the LAST word ends it. -/
def Prog.skip (g : Prog) (p : Page) : Prog :=
  let g := { g with count := none }
  match p.skips.find? (fun e => e.1 = g.off) with
  | some (_, some n) => { g with off := n, current := false }
  | _ => { g with stopped := true }

/-! ## Hitch-slot waits (R46, R201) -/

/-- One hitch-slot wait of the next word: `none` when the word goes on to the next point. -/
def Dev.askWait (s : Dev) (c t : Nat) (second : Bool) (en : Bool) (vid : Nat) : Option Dev × Dev :=
  match (s.tile c t).prog with
  | none => (some s, s)
  | some g =>
    let st := if second then g.wait2 else g.wait1
    if !en || st == .granted then (none, s)
    else if st == .asleep then (some s, s)
    else
      match s.translate c vid false true with
      | (some _, _) => (none, s)
      | (none, none) => (none, s)
      | (none, some h) =>
        let (r, s') := s.wait h.key h.amount (.word c t second)
        let mark (w : WaitState) (held : List HRef) : Dev :=
          s'.modTile c t (fun x => { x with prog := x.prog.map (fun g =>
            let g : Prog := { g with held := g.held ++ held }
            if second then { g with wait2 := w } else { g with wait1 := w }) })
        match r with
        | .taken => (none, mark .granted [h])
        | .sleeps => (some (mark .asleep []), s)
        | .lost => (some (s.runJobs [.endWord c t .ownerLost]), s)
        | .discarded => (some (s.runJobs [.endWord c t .faultDiscarded]), s)
        | .never => (some s, s)

/-- The waits of the hitch slot in order: the state where the word still waits, or that in which it is
checked. -/
def Dev.askWaits (s : Dev) (c t : Nat) (w : RawWord) : Option Dev × Dev :=
  match w.slots.find? (fun r => r.num = 7) with
  | none => (none, s)
  | some r =>
    match s.askWait c t false r.we r.waitId with
    | (some d, s) => (some d, s)
    | (none, s) => s.askWait c t true (bit r.w2 16) (fld r.w2 15 0)

/-! ## Issue -/

/-- The core stalls on a third entry into a barrier group until it has been made: a word with BARRIER has not entered,
and the tile has two outstanding entries in its group, or had them while the word waited (R207).
DEDUCED, log entry 38. -/
def Dev.barrierStall (s : Dev) (c t : Nat) (x : Tile) : Bool :=
  x.words.any (fun w =>
    match w.hitch with
    | some h => h.barrier && !h.entered && !h.fin &&
        (h.stalled || h.group.any (fun g => decide (2 ≤ ((s.hitch g.key).entriesOf c t).length)))
    | none => false)

/-- The fetch at the program's position meets an older generation or a page that holds no words (R64). -/
def Tile.fetchStale (x : Tile) (g : Prog) : Bool :=
  let p := x.page (g.off / 4096)
  decide (65536 ≤ g.off) || p.st == .empty || p.chain ||
    !(g.gens.any (fun e => e.1 = g.off / 4096 && e.2 = p.gen))

/-- Every queue that the word targets has a free entry (R47). -/
def Tile.roomFor (x : Tile) (w : RawWord) : Bool :=
  w.slots.all (fun r => r.num = 0 || r.num = 7 || decide ((x.queue r.num).length < queueDepth r.num))

/-- The program stops at its next word with a failure of its launch (R50, R64, R65). -/
def Dev.failWord (s : Dev) (c t : Nat) (pos : U32) (f : Failure) (giveBack : Bool) : Dev :=
  let (s, js) := s.stopProgram c t giveBack
  (s.failLaunch c pos f).runJobs (js ++ [.sweep c t])

/-- The word passed its checks: its scalar result is written and its slots are queued. -/
def Dev.placeWord (s : Dev) (c t : Nat) (g : Prog) (w : RawWord) (val : Option (Nat × U64))
    (slots : List ISlot) (hitch : Option HSlot) : Dev :=
  let s := s.modTile c t (fun x =>
    let g' := g.advance w x
    let x := match val with
      | some (r, v) => x.setReg r v
      | none => x
    let word : IWord := { seq := x.nextSeq, pos := g.pos, step := g.step, tag := w.tag, ord := g.ord, slots := slots, hitch := hitch }
    let x := slots.foldl (fun x y => x.noteOp y.op) x
    { x with words := x.words ++ [word], nextSeq := x.nextSeq + 1, prog := some g' })
  s.runJobs (slots.map (fun y => Job.arm c t y.num) ++ [.sweep c t])

/-- The check of a word under R45 with the scalar slot's result in place, in the state of its functions and
tables at the word boundary (R46, R154). A word that passes is placed once every queue it targets has a free entry;
until then the core stalls before it (R47).
DEDUCED, log entry 117. -/
def Dev.checkAndPlace (s : Dev) (c t : Nat) (g : Prog) (w : RawWord) : Dev :=
  let x := s.tile c t
  let w' := if w.lstart && g.returning then { w with slots := w.slots.filter (fun r => r.num != 0) } else w
  let val := match w'.scalar with
    | some h => s.scalarResult t x g h
    | none => none
  let reg (r : Nat) : U64 := match val with
    | some (d, v) => if r = d then v else x.reg r
    | none => x.reg r
  let fail (st : Status) (slot : Option Nat) : Dev := s.failWord c t g.pos ⟨st, t, some w.tag, slot⟩ false
  match w.staticFail 4 with
  | some slot => fail .invalidWord slot
  | none =>
    let s2 := s.modTile c t Tile.commitShadows
    match s2.checkWord c t reg w' with
    | (some (slot, st), _, _) => fail st (some slot)
    | (none, slots, hitch) => if x.roomFor w then s2.placeWord c t g w val slots hitch else s

/-- The control core handles its next word (R45 to R48). An abort that stops the word is a failure of the launch on this
tile, as any other.
DEDUCED, log entry 117. -/
def Dev.wordIssue (s : Dev) (c t : Nat) : Dev :=
  let x := s.tile c t
  match x.prog with
  | none => s
  | some g =>
    if g.stopped || (s.ctx c).resid != .resident || s.barrierStall c t x then s
    else
      let p := x.page (g.off / 4096)
      if !x.committed && (p.st == .loading || p.st == .closing) then s
      else if !x.committed && x.fetchStale g then s.failWord c t g.pos ⟨.stalePage, t, none, none⟩ true
      else
        let w := x.fetch g.off
        let g := g.latch w x
        let s := s.modTile c t (fun x => { x with prog := some g })
        let aborting := match s.launch? c g.pos with
          | some l => l.abort
          | none => false
        let zero := w.lstart && !g.returning && g.count == some 0
        if aborting && w.abortPt then s.failWord c t g.pos ⟨.aborted, t, some w.tag, none⟩ true
        else if zero then
          (s.modTile c t (fun x => { x with prog := some (g.skip p) })).runJobs [.sweep c t]
        else
          match s.askWaits c t w with
          | (some d, _) => d
          | (none, s) =>
            match (s.tile c t).prog with
            | none => s
            | some g =>
              let lines := s.wordLines c t w
              s.withPool lines lines (fun s => s.checkAndPlace c t g w)

def execWordIssue (c : CtxId) (t : TileId) (s : State) : Host.Outcome State Fault Refusal :=
  s.onDev (fun d => d.wordIssue c.val t.val)

/-! ## The hitch slot (R44, R207) -/

/-- Every other slot of the word has completed. -/
def IWord.slotsDone (w : IWord) : Bool := w.slots.all (fun y => y.st == .ended && y.fail.isNone)

/-- WAIT_SIGNAL: the word's signals are raised once every other slot has completed. -/
def Dev.waitSignal (s : Dev) (c t seq : Nat) : Dev :=
  match (s.tile c t).word? seq with
  | none => s
  | some w =>
    match w.hitch with
    | none => s
    | some h =>
      if h.barrier || h.fin || !w.slotsDone || (s.ctx c).away then s
      else
        (s.modTile c t (fun x => x.modWord seq (fun w => { w with hitch := some { h with fin := true } }))).runJobs
          (raiseJobs c [h.sig1, h.sig2] ++ [.sweep c t])

def execWaitSignal (c : CtxId) (t : TileId) (w : Nat) (s : State) : Host.Outcome State Fault Refusal :=
  s.onDev (fun d => d.waitSignal c.val t.val w)

/-- BARRIER: the word enters its group once every other slot has completed. -/
def Dev.barrier (s : Dev) (c t seq : Nat) : Dev :=
  match (s.tile c t).word? seq with
  | none => s
  | some w =>
    match w.hitch, w.hitch.bind (·.group) with
    | some h, some g =>
      if !h.barrier || h.fin || h.entered || !w.slotsDone || (s.ctx c).away then s
      else
        let marked := s.modTile c t (fun x => x.modWord seq (fun w => { w with hitch := some { h with entered := true } }))
        match marked.enterBarrier c t seq g.key with
        | (true, s') => s'
        | (false, _) => s
    | _, _ => s

def execBarrier (c : CtxId) (t : TileId) (w : Nat) (s : State) : Host.Outcome State Fault Refusal :=
  s.onDev (fun d => d.barrier c.val t.val w)

/-! ## Completion of slots (R49, R83, R253) -/

/-- The value that a remote operation returned goes to its register (R253). -/
def Tile.takeResult (x : Tile) (res : Option (Nat × U64)) : Tile :=
  match res with
  | some (r, v) => x.setReg r v
  | none => x

/-- Working values committed to the accumulator banks (R109).
DESIGN CHOICE, log entry 118. -/
def Tile.commit (x : Tile) (ws : List (Nat × U32)) : Tile :=
  { x with banks := ws.foldl (fun b e => Tab.set b e.1 e.2) x.banks }

/-- The partition of an MMA. -/
def SlotOp.part? (o : SlotOp) : Option Nat :=
  match o with
  | .mma _ _ _ _ _ _ _ _ _ _ _ _ part => some part
  | _ => none

/-- An MMA before word `seq` in the matrix queue, on a region that overlaps `part`, has not completed (R99, R104). -/
def Tile.mmaBefore (x : Tile) (seq part : Nat) : Bool :=
  x.words.any (fun w => decide (w.seq < seq) && w.slots.any (fun y =>
    y.st != .ended && y.op.part?.any (fun p => partsOverlap p part)))

/-- A performed slot may not complete yet: a remote slot before one ahead of it in its queue (R255), an MMA before an
earlier one on a region that overlaps its own (R99, R104). -/
def Tile.mustWait (x : Tile) (seq : Nat) (y : ISlot) : Bool :=
  match y.num, y.op.part? with
  | 6, _ => (x.queue 6).head?.any (fun e => e.1 != seq)
  | _, some part => x.mmaBefore seq part
  | _, none => false

/-- A performed slot completes: an MMA commits its region, the slot's flags are posted, its returned value is written,
its SIG is raised (R49, R83, R109, R253). -/
def Dev.slotComplete (s : Dev) (c t seq num : Nat) : Dev :=
  match (s.tile c t).slot? seq num with
  | none => s
  | some y =>
    if y.st != .performed || (s.ctx c).away || (s.tile c t).mustWait seq y then s
    else
      let s := s.modTile c t (fun x => ((x.takeResult y.res).commit y.work).modSlot seq num (fun z =>
        { z with st := .ended, work := [] }))
      (s.postFlags c y.flags).runJobs (raiseJobs c [y.sig] ++ [.arm c t num, .sweep c t])

def execSlotComplete (c : CtxId) (t : TileId) (w : Nat) (slot : Fin 8) (s : State) :
    Host.Outcome State Fault Refusal :=
  s.onDev (fun d => d.slotComplete c.val t.val w slot.val)

end Sys2Proof.Machine
end

