-- ==== Sys2Proof/Machine/Layout.lean ====
section
/-! DEFINITION. The start of an engine's next entry with the outcome of the hardware's error checks, and the
moves of the layout engine (R183 to R189). -/
namespace Sys2Proof.Machine
open Sys2Proof

/-! ## Entries of engine queues -/

/-- The entry at the head of queue `num` when it may start (R48): its wait is satisfied and its operation is
the one wanted. -/
def Dev.headReady (s : Dev) (c t num : Nat) (p : SlotOp → Bool) : Option (IWord × ISlot) :=
  if (s.ctx c).resid != .resident then none
  else
    let x := s.tile c t
    match x.headOf num with
    | none => none
    | some (seq, y) =>
      if (y.wait.isNone || y.waiting == .granted) && p y.op then (x.word? seq).map (fun w => (w, y)) else none

/-- The operation of a slot has been performed: its flags wait for its completion, and the next entry of the
queue reaches its wait. -/
def Dev.endPerform (s : Dev) (c t seq num : Nat) (f : Flags) : Dev :=
  (s.modTile c t (fun x => x.modSlot seq num (fun y => { y with st := .performed, flags := f }))).runJobs
    [.arm c t num]

/-- What the error checks report while a slot runs (R141, R217, R219, R226; log entry 9): the state, and
whether a device fault has discarded the slot. `reads` are the pool lines it reads, `stores` the tiles whose stores it
reads. -/
def Dev.meetUpset (s : Dev) (c t : Nat) (u : Upset) (reads stores : List Nat) (staging : Bool) : Dev × Bool :=
  let s := (s.bringUpset c u).meetLines reads
  if s.mem.poisoned reads then (s.deviceFault 0x03, true)
  else
    let (s, bad) := s.meetStores c stores
    if bad || u == .tileUncorrectable then (s.deviceFault 0x01, true)
    else if u == .stagingUncorrectable && staging then (s.deviceFault 0x02, true)
    else if u == .accumCorrected then (s.modTile c t (fun x => { x with eccAccum := satAdd x.eccAccum 1 }), false)
    else (s, false)

/-! ## Elements -/

/-- A source element: code, scale entry and position in its block. -/
abbrev Code := Nat × Nat × Nat

/-- Values of source elements as a conversion reads them, with the flags of the reads. -/
def readCodes (fmt : Nat) (ks : List Code) : List Num × Flags :=
  let vs := ks.map (fun e => readElem fmt e.1 e.2.1 e.2.2)
  (vs.map Prod.fst, vs.foldl (fun f v => f ||| v.2) 0)

/-- Elements of one slice of a tensor (R185). -/
def Desc.sliceLen (d : Desc) : Nat := d.lext.dropLast.foldl (· * ·) 1

/-- Logical indices of the slice at outermost index `j`. -/
def Desc.sliceIdx (d : Desc) (j : Nat) : List (List Nat) := (indices d.lext.dropLast).map (· ++ [j])

/-- Cells that a list of elements leaves at a list of logical indices of a destination (R87, R88). -/
def Desc.putCells (d : Desc) (conv : Option Conv) (step : U64) (ls : List (List Nat)) (fmt : Nat)
    (ks : List Code) : List Host.Cell × Flags :=
  match conv with
  | none => (d.copyCells (ls.zip (ks.map (fun k => (k.1, k.2.1)))), 0)
  | some v =>
    let (xs, f) := readCodes fmt ks
    let (cs, g) := d.quantCells v.scl (fun i => rndOf v.sr (step.truncate 32) d.tid i 0) ls.length (ls.zip xs)
    (cs, f ||| g)

/-! ## Indices (R188) -/

/-- The slice an index entry selects, of `x` slices. -/
def pickIndex (wrap : Bool) (x : Nat) (i : Int) : Option Nat :=
  let j := if wrap && decide (i < 0) then i + x else i
  if 0 ≤ j ∧ j < x then some j.toNat else none

/-- The entries of an index tensor. -/
def Dev.indexOf (s : Dev) (c : Nat) (d : Desc) : List Int := (s.codes c d).map (fun k => sext 32 k.1)

/-- The fill value as the source element it stands for.
DEDUCED, log entry 46. -/
def fillNum (fmt fill : Nat) : Num :=
  if isIntFmt fmt then
    let hi := 2 ^ (fmtBits fmt - 1)
    match fill with
    | 2 => .fin true hi 0
    | 3 => .fin false (hi - 1) 0
    | _ => .fin false 0 0
  else
    match fill with
    | 0 => .fin false 0 0
    | 1 => .nan qNaN
    | 2 => .inf true
    | _ => .inf false

/-- The fill value moved unconverted into a slice of `n` elements.
DEDUCED, log entry 46. -/
def fillCodes (fmt fill n : Nat) : List (Nat × Nat) :=
  if isBlock fmt then
    let (e, ks, _) := quantBlock fmt false (List.replicate 32 (fillNum fmt fill)) (fun _ => .rne)
    List.replicate n (ks.getD 0 0, e)
  else List.replicate n ((encodeElem fmt (fillNum fmt fill) .rne).1, 0)

/-! ## Accumulation (R187) -/

/-- Two values added exactly and rounded once to a floating-point format.
DEDUCED, log entry 45. -/
def accFloat (fmt : Nat) (old x : Num) (rnd : Rnd) : Nat × Flags :=
  match old, x with
  | .nan a, .nan b =>
    let (k, f) := narrowNaN fmt a
    (k, f ||| (if isSNaN b then fInvalid else 0))
  | .nan a, _ => narrowNaN fmt a
  | _, .nan b => narrowNaN fmt b
  | .inf a, .inf b => if a = b then encodeElem fmt (.inf a) rnd else ((narrowNaN fmt qNaN).1, fInvalid)
  | .inf a, _ => encodeElem fmt (.inf a) rnd
  | _, .inf b => encodeElem fmt (.inf b) rnd
  | .fin sa ma ea, .fin sb mb eb =>
    let d := (Num.toDy (.fin sa ma ea)).add (Num.toDy (.fin sb mb eb))
    if d.m = 0 then encodeElem fmt (.fin (sa && sb) 0 0) rnd
    else encodeElem fmt (.fin (decide (d.m < 0)) d.m.natAbs d.e) rnd

/-- A contribution rounded to INT32 (R77, R88) and added with saturation. -/
def accInt (old : Nat) (x : Num) (rnd : Rnd) : Nat × Flags :=
  let (k, f) := encodeElem 0xB x rnd
  let sum := sext 32 old + sext 32 k
  let r : Int := max (-(2 ^ 31 : Nat)) (min ((2 ^ 31 : Nat) - 1) sum)
  (toBits 32 r, if r = sum then f else f ||| fIntSat)

/-- One contribution added to the destination element at a logical index. -/
def Dev.accElem (c : Nat) (d : Desc) (sr : Bool) (step : U64) (st : Dev × Flags) (e : List Nat × Num) :
    Dev × Flags :=
  let s := st.1
  let j := d.memIdx e.1
  let (k, en) := d.codeAt (s.readByte c d.base.space) j
  let rnd := rndOf sr (step.truncate 32) d.tid (linear d.lext e.1) 0
  let (code, f) :=
    if d.fmt = 0xB then accInt k e.2 rnd
    else
      let (old, g) := readElem d.fmt k en (blockPos j)
      let (z, h) := accFloat d.fmt old e.2 rnd
      (z, g ||| h)
  (s.writeCells c d.base.space (d.elemCells j code), st.2 ||| f)

/-- Contributions added in order. -/
def Dev.accAll (s : Dev) (c : Nat) (d : Desc) (conv : Option Conv) (step : U64) (els : List (List Nat × Num)) :
    Dev × Flags :=
  els.foldl (Dev.accElem c d (conv.any (·.sr)) step) (s, 0)

/-! ## The moves -/

/-- An out-of-range index is counted and flagged. -/
def Dev.countIdx (s : Dev) (c t n : Nat) : Dev × Flags :=
  if n = 0 then (s, 0)
  else (s.modTile c t (fun x => { x with idxRange := satAdd x.idxRange n }), fIdxRange)

/-- COPY: element λ to element λ (R183). -/
def Dev.moveCopy (s : Dev) (c : Nat) (step : U64) (conv : Option Conv) (src dst : Desc) : Dev × Flags :=
  let (cs, f) := dst.putCells conv step (indices dst.lext) src.fmt (s.codes c src)
  (s.writeCells c dst.base.space cs, f)

/-- MULTICAST: every receiving tile receives the same bytes (R184). -/
def Dev.moveMulticast (s : Dev) (c : Nat) (step : U64) (conv : Option Conv) (src dst : Desc) : Dev × Flags :=
  let inner := dst.mcInner 0
  let (cs, f) := inner.putCells conv step (indices inner.lext) src.fmt (s.codes c src)
  (dst.mcTiles.foldl (fun s t => s.writeCells c (.tile t.toNat) cs) s, f)

/-- GATHER: slice i of the destination from the source slice that entry i selects (R185, R188). -/
def Dev.moveGather (s : Dev) (c t : Nat) (step : U64) (conv : Option Conv) (src dst idx : Desc) : Dev × Flags :=
  let n := src.sliceLen
  let x := src.lext.getLastD 1
  let ks := s.codes c src
  let picks := (s.indexOf c idx).map (pickIndex idx.idxWrap x)
  let (s, fi) := s.countIdx c t (picks.filter (·.isNone)).length
  let ls := indices dst.lext
  match conv with
  | none =>
    let els := picks.flatMap (fun p =>
      match p with
      | some j => ((ks.drop (j * n)).take n).map (fun k => (k.1, k.2.1))
      | none => fillCodes src.fmt idx.fill n)
    (s.writeCells c dst.base.space (dst.copyCells (ls.zip els)), fi)
  | some v =>
    let got := picks.map (fun p =>
      match p with
      | some j => readCodes src.fmt ((ks.drop (j * n)).take n)
      | none => (List.replicate n (fillNum src.fmt idx.fill), 0))
    let (cs, f) := dst.quantCells v.scl (fun i => rndOf v.sr (step.truncate 32) dst.tid i 0) ls.length
      (ls.zip (got.flatMap Prod.fst))
    (s.writeCells c dst.base.space cs, fi ||| f ||| got.foldl (fun a g => a ||| g.2) 0)

/-- The source slices of a scatter with the destination slice each goes to, in index order. -/
def scatterPairs (n : Nat) (picks : List (Option Nat)) (ks : List Code) : List (Nat × List Code) :=
  ((List.range picks.length).zip picks).filterMap (fun e => e.2.map (fun j => (j, (ks.drop (e.1 * n)).take n)))

/-- SCATTER: each source slice to the destination slice its entry selects, a later one over an earlier
(R186, R188). -/
def Dev.moveScatter (s : Dev) (c t : Nat) (step : U64) (conv : Option Conv) (src dst idx : Desc) : Dev × Flags :=
  let x := dst.lext.getLastD 1
  let picks := (s.indexOf c idx).map (pickIndex idx.idxWrap x)
  let pairs := scatterPairs src.sliceLen picks (s.codes c src)
  let (s, fi) := s.countIdx c t (picks.filter (·.isNone)).length
  pairs.foldl (fun (st : Dev × Flags) e =>
    let (cs, f) := dst.putCells conv step (dst.sliceIdx e.1) src.fmt e.2
    (st.1.writeCells c dst.base.space cs, st.2 ||| f)) (s, fi)

/-- SCATTER_ADD: each source slice is added into the destination slice its entry selects (R186, R187). -/
def Dev.moveScatterAdd (s : Dev) (c t : Nat) (step : U64) (conv : Option Conv) (src dst idx : Desc) : Dev × Flags :=
  let x := dst.lext.getLastD 1
  let picks := (s.indexOf c idx).map (pickIndex idx.idxWrap x)
  let pairs := scatterPairs src.sliceLen picks (s.codes c src)
  let (s, fi) := s.countIdx c t (picks.filter (·.isNone)).length
  pairs.foldl (fun (st : Dev × Flags) e =>
    let (vs, f) := readCodes src.fmt e.2
    let (s', g) := st.1.accAll c dst conv step ((dst.sliceIdx e.1).zip vs)
    (s', st.2 ||| f ||| g)) (s, fi)

/-- ACCUMULATE: element λ of the source into element λ of the destination (R187). -/
def Dev.moveAccumulate (s : Dev) (c : Nat) (step : U64) (conv : Option Conv) (src dst : Desc) : Dev × Flags :=
  let (vs, f) := readCodes src.fmt (s.codes c src)
  let (s, g) := s.accAll c dst conv step ((indices dst.lext).zip vs)
  (s, f ||| g)

/-- The effect of a move on memory, by queue and opcode, and its flags. -/
def Dev.moveEffect (s : Dev) (c t : Nat) (step : U64) (store : Bool) (op : Nat) (conv : Option Conv)
    (src dst : Desc) (idx : Option Desc) : Dev × Flags :=
  match store, op, idx with
  | false, 2, _ => s.moveMulticast c step conv src dst
  | false, 3, some i => s.moveGather c t step conv src dst i
  | true, 4, some i => s.moveScatter c t step conv src dst i
  | true, 5, some i => s.moveScatterAdd c t step conv src dst i
  | true, 6, _ => s.moveAccumulate c step conv src dst
  | _, _, _ => s.moveCopy c step conv src dst

def Desc.inHost (d : Desc) : Bool :=
  match d.base.space with
  | .host => true
  | _ => false
/-- The logical tile whose store the tensor lies in. -/
def Desc.storeTile (d : Desc) : Option Nat :=
  match d.base.space with
  | .tile t => some t
  | _ => none

def Desc.inStaging (d : Desc) : Bool :=
  match d.base.space with
  | .staging _ => true
  | _ => false

def Desc.inTile (d : Desc) : Bool :=
  match d.base.space with
  | .tile _ => true
  | _ => false

/-- Lines of tile stores that a tensor touches, each with its tile; `mc` for a MULTICAST destination. -/
def Desc.storeLines (d : Desc) (mc : Bool) : List (Nat × Nat) :=
  let of (d : Desc) (t : Nat) : List (Nat × Nat) := (d.places.flatten.map (fun a => (t, a / 64))).eraseDups
  if mc then d.mcTiles.flatMap (fun (t : Int) => of (d.mcInner t.toNat) t.toNat)
  else
    match d.storeTile with
    | some t => of d t
    | none => []

/-- Two distinct lines of one tile store among the lines lie in the same of its 64 banks (R181). -/
def bankClash : List (Nat × Nat) → Bool
  | [] => false
  | l :: r => r.any (fun k => k.1 == l.1 && k.2 != l.2 && k.2 % 64 == l.2 % 64) || bankClash r

/-- LAY_EVENTS.CONFLICT after a move: the beats it lost to bank conflicts (R181). A move whose lines in a tile store all
lie in distinct banks loses none. The spec does not state which lines one beat requests, so otherwise their number is a
free value.
DESIGN CHOICE, log entry 115. -/
def Dev.lostBeats (s : Dev) (c t : Nat) (ls : List (Nat × Nat)) : Dev :=
  if bankClash ls then
    let (v, s) := s.fresh
    s.modTile c t (fun x => { x with conflict := satAdd x.conflict (v.toNat % 2 ^ 32) })
  else s

/-- A slot's operation is the move named. -/
def isMove (store : Bool) (op : Nat) (o : SlotOp) : Bool :=
  match o with
  | .move st k _ _ _ _ => st == store && k == op
  | _ => false

/-- A move of the wanted kind at the head of its queue is performed.
DESIGN CHOICE, log entry 115. -/
def Dev.runMove (s : Dev) (c t : Nat) (store : Bool) (op : Nat) (u : Upset) : Dev :=
  let num := if store then 5 else 1
  match s.headReady c t num (isMove store op) with
  | none => s
  | some (w, y) =>
    match y.op with
    | .move _ _ conv src dst idx =>
      let ds := [src, dst] ++ idx.toList
      if ds.any Desc.inHost && !s.hif.hostUp then s
      else
        let accum := store && (op == 5 || op == 6)
        let rd := ([src] ++ idx.toList ++ (if accum then [dst] else [])).flatMap (s.descLines c)
        s.withPool (rd ++ s.descLines c dst) rd (fun s =>
          match s.meetUpset c t u rd (ds.filterMap Desc.storeTile) (ds.any Desc.inStaging) with
          | (s, true) => s
          | (s, false) =>
            let (s, f) := s.moveEffect c t w.step store op conv src dst idx
            let ls := (src :: idx.toList).flatMap (fun d => d.storeLines false) ++ dst.storeLines (!store && op == 2)
            (s.lostBeats c t ls).endPerform c t w.seq num f)
    | _ => s

def execLoadCopy (c : CtxId) (t : TileId) (u : Upset) (s : State) : Host.Outcome State Fault Refusal :=
  s.onDev (fun d => d.runMove c.val t.val false 1 u)
def execMulticast (c : CtxId) (t : TileId) (u : Upset) (s : State) : Host.Outcome State Fault Refusal :=
  s.onDev (fun d => d.runMove c.val t.val false 2 u)
def execGather (c : CtxId) (t : TileId) (u : Upset) (s : State) : Host.Outcome State Fault Refusal :=
  s.onDev (fun d => d.runMove c.val t.val false 3 u)
def execStoreCopy (c : CtxId) (t : TileId) (u : Upset) (s : State) : Host.Outcome State Fault Refusal :=
  s.onDev (fun d => d.runMove c.val t.val true 1 u)
def execScatter (c : CtxId) (t : TileId) (u : Upset) (s : State) : Host.Outcome State Fault Refusal :=
  s.onDev (fun d => d.runMove c.val t.val true 4 u)
def execScatterAdd (c : CtxId) (t : TileId) (u : Upset) (s : State) : Host.Outcome State Fault Refusal :=
  s.onDev (fun d => d.runMove c.val t.val true 5 u)
def execAccumulate (c : CtxId) (t : TileId) (u : Upset) (s : State) : Host.Outcome State Fault Refusal :=
  s.onDev (fun d => d.runMove c.val t.val true 6 u)

end Sys2Proof.Machine
end

