-- ==== Sys2Proof/Machine/Spares.lean ====
section
/-! DEFINITION. Retirement of a tile and its substitution by a spare (R13, R320 to R323). -/
namespace Sys2Proof.Machine
open Sys2Proof

/-- The spares left on a die. -/
def Dev.sparesOn (s : Dev) (die : Nat) : List Nat :=
  (List.range physTiles).filter (fun p => dieOfPhys p == die && (s.ptile p).role == .spare)

/-- A spare is eligible only while its domain runs (R320). -/
def Dev.eligible (s : Dev) (die : Nat) : Option Nat := (s.sparesOn die).find? (fun p => s.domRunning (tileDom p))

/-- The state in which a spare enters service in place of a tile (R321). -/
def Tile.fresh (old : Tile) : Tile :=
  { pages := (List.range 16).map (fun p => (p, ({ gen := (old.page p).gen + 1 } : Page))) }

/-- A spare takes over a position and backs the logical tile. -/
def Dev.substitute (s : Dev) (c t spare position : Nat) (old : Tile) : Dev :=
  let s := s.setPtile spare { role := .active, position := position, tile := old.fresh }
  s.modCtx c (fun x => { x with backs := Tab.set x.backs t spare })

/-- A physical tile leaves service. -/
def Dev.dropTile (s : Dev) (p : Nat) : Dev := s.setPtile p { s.ptile p with role := .retired }

/-- The logical tile is unbacked. -/
def Dev.unback (s : Dev) (c t : Nat) : Dev := s.modCtx c (fun x => { x with backs := Tab.del x.backs t })

/-- The device enters the short-team state of tiles through a device fault (R317, R323). -/
def Dev.tilesShort (s : Dev) : Dev :=
  let s := s.deviceFault 0x05
  { s with farr := { s.farr with tileShort := true } }

/-- Substitutions that wait for power on a die with no spare left: each enters the short-team state, and its logical
tile stays unbacked (R323).
DEDUCED, log entry 89. -/
def Dev.giveUpSpares (s : Dev) : Dev :=
  s.farr.wanting.foldl (fun (s : Dev) w =>
    if (s.sparesOn (dieOfPhys w.2.2)).isEmpty then
      let wanting := s.farr.wanting.filter (· != w)
      { s with farr := { s.farr with wanting := wanting, noPwr := !wanting.isEmpty } }.tilesShort
    else s) s

/-- The tile that backs a logical tile is retired: an eligible spare of its die takes over (R321); a spare
without power leaves the tile wanting one (R320); with no spare left the device is short (R323). -/
def Dev.retireTile (s : Dev) (c t : Nat) : Dev :=
  match s.phys c t with
  | none => s
  | some p =>
    let die := dieOfPhys p
    let short := (s.sparesOn die).isEmpty
    let s := if short then s.tilesShort else s.deviceFault 0x01
    let old := (s.ptile p).tile
    let pos := (s.ptile p).position
    let s := s.dropTile p
    match s.eligible die with
    | some q => (s.substitute c t q pos old).giveUpSpares
    | none =>
      let s := s.unback c t
      if short then s
      else { s with farr := { s.farr with noPwr := true, wanting := s.farr.wanting ++ [(c, t, p)] } }

end Sys2Proof.Machine
end

