-- ==== Sys2Proof/Machine/Matrix.lean ====
section
/-! DEFINITION. The matrix engine: the product of an MMA (R92 to R95), the held stationary block (R100,
R101), partition faults (R105, R106) and the self-test of fenced quadrants (R107). -/
namespace Sys2Proof.Machine
open Sys2Proof

/-! ## Operands -/

/-- An operand element; a signalling NaN keeps its quiet bit clear. -/
def operand (fmt code entry j : Nat) : Num :=
  match exactElem fmt code entry j with
  | (.nan b, f) => .nan (if f = 0 then b else b &&& 0xFFBFFFFF)
  | (x, _) => x

/-- The operand element at logical dimensions 0 and 1, the others 0 (R97). -/
def Dev.operandAt (s : Dev) (c : Nat) (d : Desc) (i0 i1 : Nat) : Num :=
  let j := d.memIdx ((i0 :: i1 :: List.replicate 3 0).take d.rank)
  let (k, e) := d.codeAt (s.readByte c d.base.space) j
  operand d.fmt k e (blockPos j)

/-- The stored block of an MMA by stored row: dimension 1 counts rows, dimension 0 columns (R92). -/
def Dev.storedBlock (s : Dev) (c : Nat) (d : Desc) (axis : Bool) (m k : Nat) : List (List Num) :=
  let (rows, cols) := if axis then (k, m) else (m, k)
  (List.range rows).map (fun r => (List.range cols).map (fun q => s.operandAt c d q r))

/-- Element A[m][k] of the held block (R92). -/
def blockElem (b : List (List Num)) (axis : Bool) (m k : Nat) : Num :=
  let (r, q) := if axis then (k, m) else (m, k)
  (b.getD r []).getD q (.fin false 0 0)

/-! ## The product (R93, R95) -/

def Num.neg' (x : Num) : Bool :=
  match x with
  | .fin s _ _ => s
  | .inf s => s
  | .nan _ => false
def Num.isInf' (x : Num) : Bool :=
  match x with
  | .inf _ => true
  | _ => false
/-- A signalling NaN operand sets INVALID (R95). -/
def Num.snan (x : Num) : Flags :=
  match x with
  | .nan b => if isSNaN b then fInvalid else 0
  | _ => 0

/-- The NaN a pair contributes: the stationary operand's first. -/
def pairNaN (p : Num × Num) : Option F32 :=
  match p.1, p.2 with
  | .nan a, _ => some (quiet a)
  | _, .nan b => some (quiet b)
  | _, _ => none

/-- One group of products summed exactly (R93, R95). -/
def groupSum (ps : List (Num × Num)) : ESum × Flags :=
  let sn := ps.foldl (fun f p => f ||| p.1.snan ||| p.2.snan) (0 : Flags)
  match ps.findSome? pairNaN with
  | some v => (.special v, sn)
  | none =>
    let bad := ps.any (fun p => (p.1.isInf' && p.2.isZero) || (p.2.isInf' && p.1.isZero))
    let infs := ps.filter (fun p => p.1.isInf' || p.2.isInf')
    let sgn (p : Num × Num) : Bool := p.1.neg' != p.2.neg'
    if bad || (infs.any sgn && infs.any (fun p => !sgn p)) then (.special qNaN, fInvalid)
    else
      match infs with
      | p :: _ => (.special (infF (sgn p)), 0)
      | [] => (.exact (ps.foldl (fun d p => d.add (p.1.toDy.mul p.2.toDy)) Dy.zero)
                (!ps.isEmpty && ps.all (fun p => (p.1.isZero || p.2.isZero) && sgn p)), 0)

/-- One element of C: groups of 32 added to the running value with one rounding each. -/
def mmaElem (acc : F32) (a b : List Num) : F32 × Flags :=
  (groupsOf 32 (a.zip b)).foldl (fun (st : F32 × Flags) g =>
    let (e, f) := groupSum g
    let (r, f2) := addSum st.1 e
    (r, st.2 ||| f ||| f2)) (acc, 0)

/-! ## Accumulator banks -/

/-- Key of a 32-bit word of a bank. -/
def accKey (bank w : Nat) : Nat := 16384 * bank + w
/-- Word of element (m, n) of a region (R120). -/
def accWord (aoff rows m n : Nat) : Nat := 16 * aoff + n * rows + m
def Tile.acc (x : Tile) (bank w : Nat) : U32 := Tab.get 0 x.banks (accKey bank w)

/-- The results of an MMA, column by column: bank word, value, flags. -/
def mmaResults (x : Tile) (acc : Bool) (bank aoff m n : Nat) (rows cols : List (List Num)) :
    List (Nat × F32 × Flags) :=
  ((List.range n).zip cols).flatMap (fun nb =>
    ((List.range m).zip rows).map (fun ma =>
      let w := accWord aoff m ma.1 nb.1
      let (v, f) := mmaElem (if acc then x.acc bank w else 0) ma.2 nb.2
      (w, v, f)))

/-- The stationary block of an MMA: the one it loads, or with KEEP the one the partition holds (R101). -/
def Dev.mmaBlock (s : Dev) (c t : Nat) (keep axis : Bool) (td : Option Desc) (m k part : Nat) : List (List Num) :=
  match keep, td with
  | false, some d => s.storedBlock c d axis m k
  | _, _ => Tab.get [] (s.tile c t).blocks part

/-- What an MMA leaves in the array: the working values of its region by bank key, the block in the active layer of its
partition, and its flags. Nothing is committed before the MMA completes (R109). -/
def Dev.mmaWork (s : Dev) (c t : Nat) (acc keep axis : Bool) (sd : Desc) (td : Option Desc)
    (bank m n k aoff part : Nat) : List (Nat × U32) × Tile × Flags :=
  let x := s.tile c t
  let block := s.mmaBlock c t keep axis td m k part
  let rows := (List.range m).map (fun i => (List.range k).map (blockElem block axis i))
  let cols := (List.range n).map (fun j => (List.range k).map (fun i => s.operandAt c sd i j))
  let rs := mmaResults x acc bank aoff m n rows cols
  (rs.map (fun r => (accKey bank r.1, r.2.1)), { x with blocks := if keep then x.blocks else Tab.set x.blocks part block },
    rs.foldl (fun f r => f ||| r.2.2) 0)

/-- The MMA has run: its working values wait in its slot for the commit.
DESIGN CHOICE, log entry 118. -/
def Dev.startMma (s : Dev) (c t seq : Nat) (acc keep axis : Bool) (sd : Desc) (td : Option Desc)
    (bank m n k aoff part : Nat) : Dev × Flags :=
  let (ws, x, f) := s.mmaWork c t acc keep axis sd td bank m n k aoff part
  (s.setTile c t (x.modSlot seq 2 (fun y => { y with work := ws })), f)

/-! ## Partition faults (R105, R106) -/

def Health.quad (x : Health) (q : Nat) : QuadState := Tab.get .inService x.quads q

/-- Some quadrant of the partition is out of service. -/
def Health.fencedPart (x : Health) (part : Nat) : Bool := (quadsOf part).any (fun q => x.quad q != .inService)

/-- CAUSE of MTX_FAULT_LOG for an event of R105. -/
def partitionCause (u : Upset) : Option Nat :=
  match u with
  | .planeEcc => some 1
  | .residue => some 2
  | .streamParity => some 3
  | _ => none

/-- The array once a partition has faulted: quadrants fenced and a self-test owed.
DEDUCED, log entry 31. -/
def Health.fence (x : Health) (part : Nat) : Health :=
  { x with
    quads := (quadsOf part).foldl (fun t q => Tab.set t q .fenced) x.quads
    selfTest := true
    faultCnt := satAdd x.faultCnt 1 }

/-- The plane records of the fenced quadrants become invalid (R100). -/
def Tile.dropPlanes (x : Tile) (part : Nat) : Tile :=
  { x with planes := (List.range 7).foldl (fun ps p =>
      if partsOverlap p part then Tab.set ps p (x.planeRec p).drop else ps) x.planes }

/-- Queued MMAs that name a fenced quadrant. -/
def Tile.fencedMmas (x : Tile) (h : Health) : List Nat :=
  (x.queue 2).filterMap (fun e => if e.2.op.part?.any h.fencedPart then some e.1 else none)

def Dev.logFault (s : Dev) (tag : U16) (c t part cause : Nat) : Dev :=
  if s.mtxLog.valid then s
  else
    let mask := (quadsOf part).foldl (fun m q => m + 2 ^ (q - 3)) 0
    let log : FaultLog := ⟨tag, BitVec.ofNat 6 c, BitVec.ofNat 7 t, BitVec.ofNat 4 mask, BitVec.ofNat 3 part,
      BitVec.ofNat 4 cause, true⟩
    { s with mtxLog := log }

/-- A partition faults during an MMA (R106): it and every queued MMA on the fenced quadrants are discarded. The fault is
a failure of its launch of its own, what it discards is not (R67).
DEDUCED, log entry 31. -/
def Dev.partitionFault (s : Dev) (c t : Nat) (w : IWord) (part cause : Nat) : Dev :=
  let s := ((s.modTile c t (fun x => x.dropPlanes part)).modHealth c t (fun x => x.fence part)).logFault w.tag c t part cause
  let s := s.failLaunch c w.pos ⟨.faultDiscarded, t, some w.tag, some 2⟩
  let rest := ((s.tile c t).fencedMmas (s.health c t)).filter (· != w.seq)
  s.runJobs (Job.endSlot c t w.seq 2 .faultDiscarded :: rest.map (fun q => Job.endSlot c t q 2 .faultDiscarded))

/-! ## The command -/

def isMma (o : SlotOp) : Bool :=
  match o with
  | .mma _ _ _ _ _ _ _ _ _ _ _ _ _ => true
  | _ => false

/-- An MMA that runs and has not committed writes words of the bank region that starts at word `w0` (R105). -/
def Tile.bankBusy (x : Tile) (bank w0 n : Nat) : Bool :=
  x.words.any (fun w => w.slots.any (fun y =>
    y.work.any (fun e => decide (accKey bank w0 ≤ e.1) && decide (e.1 < accKey bank w0 + n))))

/-- The MMA at the head of the matrix queue. One whose bank region overlaps that of an MMA in progress begins only after
that one has committed (R105). -/
def Dev.runMma (s : Dev) (c t : Nat) (u : Upset) : Dev :=
  match s.headReady c t 2 isMma with
  | none => s
  | some (w, y) =>
    match y.op with
    | .mma _ _ bank acc keep axis sd td m n k aoff part =>
      if (s.health c t).fencedPart part then s.runJobs [.endSlot c t w.seq 2 .faultDiscarded]
      else if (s.tile c t).bankBusy bank (16 * aoff) (m * n) then s
      else
        match partitionCause u with
        | some cause => s.partitionFault c t w part cause
        | none =>
          match s.meetUpset c t u [] [t] false with
          | (s, true) => s
          | (s, false) =>
            let s := if u == .planeCorrected then s.modTile c t (fun x => { x with eccPlane := satAdd x.eccPlane 1 }) else s
            let (s, f) := s.startMma c t w.seq acc keep axis sd td bank m n k aoff part
            s.endPerform c t w.seq 2 f
    | _ => s

def execMma (c : CtxId) (t : TileId) (u : Upset) (s : State) : Host.Outcome State Fault Refusal :=
  s.onDev (fun d => d.runMma c.val t.val u)

/-! ## Self-test of fenced quadrants (R107) -/

/-- The array after the test of its fenced quadrants; bit i of `pass` is the result of PART 3 + i. -/
def Health.selfTested (x : Health) (pass : BitVec 4) : Health :=
  [3, 4, 5, 6].foldl (fun x q =>
    if x.quad q != .fenced then x
    else if bit pass.toNat (q - 3) then
      { x with quads := Tab.set x.quads q .inService, passCnt := satAdd x.passCnt 1 }
    else { x with quads := Tab.set x.quads q .retired }) { x with selfTest := false }

/-- The Farrier tests the fenced quadrants once the faulted launch's program has ended; a quadrant that fails
retires the tile. -/
def Dev.partitionSelfTest (s : Dev) (c t : Nat) (pass : BitVec 4) : Dev :=
  if !(s.health c t).selfTest || (s.tile c t).prog.isSome || (s.phys c t).isNone then s
  else
    let s := s.modHealth c t (fun x => x.selfTested pass)
    if [3, 4, 5, 6].any (fun q => (s.health c t).quad q == .retired) then s.retireTile c t else s

/-- Code of a quadrant in MTX_PART_STATE (Table 4.5): a fenced one is under test once the program of the faulted launch
has ended and until PARTITION_SELF_TEST (R107).
DESIGN CHOICE, log entry 118. -/
def Dev.quadCode (s : Dev) (c t q : Nat) : Nat :=
  match (s.health c t).quad q with
  | .inService => 0
  | .fenced => if (s.tile c t).prog.isNone then 2 else 1
  | .retired => 3
def execPartitionSelfTest (c : CtxId) (t : TileId) (pass : BitVec 4) (s : State) :
    Host.Outcome State Fault Refusal :=
  s.onDev (fun d => d.partitionSelfTest c.val t.val pass)

end Sys2Proof.Machine
end

