-- ==== Sys2Proof/Machine/Vector.lean ====
section
/-! DEFINITION. Vector slots (R112, R119 to R121, R141) and function slots (R157): the rows of a slot
through its stages, and the writes that follow. -/
namespace Sys2Proof.Machine
open Sys2Proof

/-! ## The tensors of a stage -/

/-- A stage with the elements of its side or row tensor, and of its carry, count or mask tensor, read in
ascending λ. -/
structure ReadStage where
  st : Stage
  els : List (U32 × Flags) := []
  aux : List Num := []

/-- An element as it enters a lane of type `ty`, with the flags of its read and conversion (R114, R119). BF16 enters a
packed lane as it stands (R124). -/
def laneRead (ty : LTy) (fmt : Nat) (k : Code) : U32 × Flags :=
  if ty == .p && fmt == 0x7 then (BitVec.ofNat 32 (k.1 * 2 ^ 16), 0)
  else
    let (x, f) := readElem fmt k.1 k.2.1 k.2.2
    let (y, g) := numToLane ty x
    (y, f ||| g)

/-- The elements of a tensor as lane values in ascending λ. -/
def Dev.laneVals (s : Dev) (c : Nat) (ty : LTy) (d : Desc) : List (U32 × Flags) :=
  (s.codes c d).map (laneRead ty d.fmt)

/-- Lane type in which a stage takes the elements of its tensor: ROPE takes positions as INT32 (R166). -/
def Stage.tensTy (st : Stage) : LTy := if st.op = 0x66 then .i else st.tb

/-- Reads the tensors a stage names. The flags of a side or row element are raised where the stage acts on it (R125).
DEDUCED, log entry 47. -/
def Dev.readStage (s : Dev) (c : Nat) (st : Stage) : ReadStage :=
  let es := match st.b with
    | .side d => s.laneVals c st.tensTy d
    | .row d => s.laneVals c st.tensTy d
    | _ => []
  let xs := match st.aux with
    | some d => (s.values c d).1
    | none => []
  { st := st, els := es, aux := xs }

def numF32 (x : Num) : F32 := x.toF32.1
def numInt (x : Num) : Int :=
  match x with
  | .fin s m _ => if s then -(m : Int) else m
  | _ => 0
def numZero : Num := .fin false 0 0

/-- Operand B for row `row` of `rows` rows of `n` elements; a DIVB that names a carry tensor takes entry 1
(R165). -/
def ReadStage.rowB (r : ReadStage) (rows row n : Nat) : RowB :=
  match r.st.b with
  | .none => .none
  | .scalarF v => .scalarF v
  | .scalarI v => .scalarI v
  | .side _ => .side ((r.els.drop (row * n)).take n)
  | .row _ => .row (r.els.getD (if r.els.length = 2 * rows then 2 * row + 1 else row) (0, 0))
  | .held k => .held k
  | .imm v => .imm v
  | .x0 => .x0

/-- The stage prepared for one row. -/
def ReadStage.forRow (r : ReadStage) (rows n row : Nat) : RowStage :=
  let st := r.st
  { op := st.op, creg := st.creg, hw := st.hw, hreg := st.hreg, pk := st.pk, pm := st.pm, rev := st.rev,
    ci := st.ci, b := r.rowB rows row n, fn := st.fn, theta := st.theta, tx := st.tx, tb := st.tb,
    carry := (numF32 (r.aux.getD (2 * row) numZero), numF32 (r.aux.getD (2 * row + 1) numZero)),
    mask := if st.op = 0x49 then ((r.aux.drop (row * n)).take n).map numInt else [],
    aux := st.aux.isSome, rowIdx := row }

/-! ## Input and output -/

/-- The working value of a bank word under an MMA that has not committed. -/
def Tile.working (x : Tile) (key : Nat) : Option U32 :=
  x.words.findSome? (fun w => w.slots.findSome? (fun y => (y.work.find? (fun e => e.1 == key)).map Prod.snd))

/-- A word of a bank as a vector read finds it: where a commit may overlap the read, the value from before or after it,
for each element separately (R110). -/
def Tile.accSeen (x : Tile) (pick : Bool) (bank w : Nat) : U32 :=
  match x.working (accKey bank w) with
  | some v => if pick then v else x.acc bank w
  | none => x.acc bank w

/-- Extents and values of a slot's input, with the flags of the reads.
DESIGN CHOICE, log entry 118. -/
def Dev.vecInput (s : Dev) (c t : Nat) (lane0 : LTy) (i : VecIn) : List Nat × List (U32 × Flags) :=
  match i with
  | .desc d => (d.lext, s.laneVals c lane0 d)
  | .bank b aoff m n =>
    let x := s.tile c t
    let pick (k : Nat) : Bool := bit (Config.freeValue (s.freeCtr + k)).toNat 0
    ([m, n], (List.range (m * n)).map (fun k => (x.accSeen (pick k) b (16 * aoff + k), 0)))

/-- A lane value as the value its output conversion starts from. -/
def laneNum (ty : LTy) (x : U32) : Num :=
  match ty with
  | .i => .fin (decide (x.toInt < 0)) x.toInt.natAbs 0
  | _ => F32.num x

/-- Elements that saturate in an integer output, each under the rounding it is converted with (Table 5.10). -/
def satOut (fmt : Nat) (rnd : Nat → Rnd) (vs : List Num) : Nat :=
  if isIntFmt fmt then
    (((List.range vs.length).zip vs).filter (fun v => (encodeElem fmt v.2 (rnd v.1)).2 &&& fIntSat != 0)).length
  else 0

/-- What every row of a slot leaves, in row order. -/
def runRows (scm : Bool) (key : List Nat) (rs : List ReadStage) (rows n : Nat) (vals : List (U32 × Flags)) :
    List RowOut :=
  (List.range rows).map (fun r =>
    let xs := (vals.drop (r * n)).take n
    let open' (k : Nat) : U32 := (Config.openAt (key ++ [r, k])).truncate 32
    let o := rowChain scm open' (xs.map (fun x => Elem.enter x.1)) (rs.map (fun q => q.forRow rows n r))
    { o with flags := xs.foldl (fun f x => f ||| x.2) o.flags })

/-- Cells of the carry or count entries that the rows write. -/
def auxCells (st : Stage) (outs : List RowOut) : List Host.Cell :=
  match st.aux with
  | none => []
  | some d =>
    let idx := indices d.lext
    let put (k : Nat) (v : Nat) : List Host.Cell := d.elemCells (d.memIdx (idx.getD k [])) v
    ((List.range outs.length).zip outs).flatMap (fun e =>
      if st.op = 0x48 then
        match e.2.count with
        | some n => put e.1 n
        | none => []
      else if st.op = 0x49 then []
      else
        match e.2.carry with
        | some (a, b) => put (2 * e.1) a.toNat ++ put (2 * e.1 + 1) b.toNat
        | none => [])

/-- A vector slot's effect: its writes and counters, and its flags. `key` names the slot's place in its program, behind the
values it leaves open (R27, log entry 20). -/
def Dev.vecEffect (s : Dev) (c t : Nat) (key : List Nat) (step : U64) (inline : Bool) (stages : List Stage) (fmtIn : Nat)
    (sr scm : Bool) (srtid : U32) (inp : VecIn) (out : Desc) (tyOut : LTy) : Dev × Flags :=
  let lane0 := inputLane inline fmtIn ((stages.head?.map (·.pk)).getD false)
  let (ext, vals) := s.vecInput c t lane0 inp
  let n := listGet ext 0
  let rows := (ext.drop 1).foldl (· * ·) 1
  let rd := stages.map (s.readStage c)
  let outs := runRows scm key rd rows n vals
  let res := outs.flatMap (fun o => o.els.map (fun e => laneNum tyOut e.x))
  let rnd (i : Nat) : Rnd := rndOf sr (step.truncate 32) srtid i 0
  let (cs, f1) := out.laneCells (tyOut == .p) rnd res
  let aux := stages.flatMap (fun st => auxCells st outs)
  let sum (p : RowOut → Nat) : Nat := (outs.map p).foldl (· + ·) 0
  let s := s.writeCells c out.base.space (cs ++ aux)
  let s := s.modTile c t (fun x => { x with
    emptyRows := satAdd x.emptyRows (sum (·.empty))
    satElem := satAdd x.satElem (sum (·.sat) + satOut out.fmt rnd res)
    varClamp := satAdd x.varClamp (sum (·.clamp))
    posRange := satAdd x.posRange (sum (·.pos)) })
  ({ s with freeCtr := s.freeCtr + n * rows }, outs.foldl (fun f o => f ||| o.flags) f1)

/-- A slot's operation is a vector slot, in-line or a chain's. -/
def isVec (inline : Bool) (o : SlotOp) : Bool :=
  match o with
  | .vec i _ _ _ _ _ _ _ _ _ _ => i == inline
  | _ => false

/-- The vector slot at the head of its queue is performed. -/
def Dev.runVec (s : Dev) (c t : Nat) (inline : Bool) (u : Upset) : Dev :=
  match s.headReady c t 3 (isVec inline) with
  | none => s
  | some (w, y) =>
    match y.op with
    | .vec _ stages fmtIn _ sr scm srtid inp out tyOut _ =>
      match s.meetUpset c t u [] [t] false with
      | (s, true) => s
      | (s, false) =>
        let (s, f) := s.vecEffect c t (w.key t 3) w.step inline stages fmtIn sr scm srtid inp out tyOut
        s.endPerform c t w.seq 3 f
    | _ => s

def execInline (c : CtxId) (t : TileId) (u : Upset) (s : State) : Host.Outcome State Fault Refusal :=
  s.onDev (fun d => d.runVec c.val t.val true u)
def execChain (c : CtxId) (t : TileId) (u : Upset) (s : State) : Host.Outcome State Fault Refusal :=
  s.onDev (fun d => d.runVec c.val t.val false u)

/-! ## Function slots -/

/-- A function applied to every element of the input (R157). -/
def Dev.fnEffect (s : Dev) (c : Nat) (f : FnRef) (inp out : Desc) : Dev × Flags :=
  let (xs, f0) := s.valuesF32 c inp
  let ys := xs.map f.run
  let (cs, f1) := out.laneCells false (fun _ => .rne) (ys.map (fun y => F32.num y.1))
  (s.writeCells c out.base.space cs, ys.foldl (fun g y => g ||| y.2) (f0 ||| f1))

def isFn (o : SlotOp) : Bool :=
  match o with
  | .fn _ _ _ _ => true
  | _ => false

/-- The function slot at the head of its queue is performed. -/
def Dev.runFn (s : Dev) (c t : Nat) (u : Upset) : Dev :=
  match s.headReady c t 4 isFn with
  | none => s
  | some (w, y) =>
    match y.op with
    | .fn _ f inp out =>
      match s.meetUpset c t u [] [t] false with
      | (s, true) => s
      | (s, false) =>
        let (s, fl) := s.fnEffect c f inp out
        s.endPerform c t w.seq 4 fl
    | _ => s

def execApply (c : CtxId) (t : TileId) (u : Upset) (s : State) : Host.Outcome State Fault Refusal :=
  s.onDev (fun d => d.runFn c.val t.val u)

end Sys2Proof.Machine
end

