-- ==== Sys2Proof/Machine/Fabric.lean ====
section
/-! DEFINITION. The Dunind fabric below the packets' meaning: flits and CRC (R236), routing (R246, R248),
transmission (R237, R247), link states (R239 to R243) and handover (R241). -/
namespace Sys2Proof.Machine
open Sys2Proof

/-! ## CRC-32C (R236) -/

/-- Eight shifts of the reflected CRC register. -/
def crcShift (n : Nat) (c : U32) : U32 :=
  match n with
  | 0 => c
  | k + 1 => crcShift k (if c.getLsbD 0 then (c >>> 1) ^^^ 0x82F63B78 else c >>> 1)

def crc32c (bs : List Byte) : U32 :=
  ~~~(bs.foldl (fun c b => crcShift 8 (c ^^^ b.zeroExtend 32)) (BitVec.allOnes 32))

/-! ## Flits (Table 10.2) -/

structure FlitHdr where
  seq : BitVec 12
  ack : BitVec 12
  type : Nat
  vc : Nat
  cred : Nat
  plen : Nat
  zero : Nat
  deriving DecidableEq, Repr

def parseFlit (bs : List Byte) : FlitHdr :=
  let x := leAt bs 0 12
  { seq := BitVec.ofNat 12 (fld x 95 84), ack := BitVec.ofNat 12 (fld x 83 72), type := fld x 71 68,
    vc := fld x 67 64, cred := fld x 63 28, plen := fld x 27 23, zero := fld x 22 0 }

/-- The valid payload units. -/
def flitPayload (bs : List Byte) (h : FlitHdr) : List Byte := (bs.drop 12).take (8 * h.plen)

/-- The last four bytes are the CRC of those before them (R236). -/
def flitCrcOk (bs : List Byte) : Bool := decide (leAt bs 252 4 = (crc32c (bs.take 252)).toNat)

/-- A known TYPE and reserved fields of zero (R237).
DEDUCED, log entry 55. -/
def flitFieldsOk (bs : List Byte) : Bool :=
  let h := parseFlit bs
  decide (h.type ≤ 3) && h.zero == 0 && decide (h.plen ≤ 30) && (if h.type = 0 then decide (h.vc ≤ 8) else h.vc == 0)
    && (((bs.take 252).drop (12 + 8 * h.plen)).all (· == 0))

/-- A flit that passes its CRC, with a known TYPE and its reserved fields zero (R236, R237).
DEDUCED, log entry 55. -/
def flitOk (bs : List Byte) : Bool := flitCrcOk bs && flitFieldsOk bs

/-- Credits returned for a virtual channel. -/
def FlitHdr.credit (h : FlitHdr) (v : Nat) : Nat := h.cred / 16 ^ v % 16

/-! ## Packets (Table 10.7) -/

def Packet.dst (p : Packet) : BitVec 24 := BitVec.ofNat 24 (fld p.h0.toNat 63 40)
def Packet.src (p : Packet) : BitVec 24 := BitVec.ofNat 24 (fld p.h0.toNat 39 16)
def Packet.ctx (p : Packet) : Nat := fld p.h0.toNat 15 10
def Packet.op (p : Packet) : Nat := fld p.h0.toNat 7 0
def Packet.isResponse (p : Packet) : Bool := decide (0x80 ≤ p.op) && decide (p.op < 0xC0)
def Packet.isMgmt (p : Packet) : Bool := decide (0xC0 ≤ p.op)
def Packet.txid (p : Packet) : U16 := BitVec.ofNat 16 (fld p.h1.toNat 63 48)
def Packet.win (p : Packet) : Nat := fld p.h1.toNat 47 44
def Packet.rse (p : Packet) : Bool := bit p.h1.toNat 43
def Packet.off (p : Packet) : Nat := fld p.h1.toNat 32 0
def Packet.rhitch (p : Packet) : Nat := fld p.h2.toNat 63 48
def Packet.len (p : Packet) : Nat := fld p.h2.toNat 31 0
/-- Fields of a response. -/
def Packet.status (p : Packet) : Nat := fld p.h1.toNat 47 40
def Packet.ovf (p : Packet) : Bool := bit p.h1.toNat 39
def Packet.ovbits (p : Packet) : Nat := fld p.h1.toNat 38 32

/-- H0 of a packet. -/
def packetHead (dst src : BitVec 24) (c op : Nat) : U64 :=
  BitVec.ofNat 64 (at' dst.toNat 40 + at' src.toNat 16 + at' c 10 + op)

/-- Bytes of data that follow a header, by OP and length field. -/
def dataLen (op reqLen respLen : Nat) : Nat :=
  if op = 0x01 ∨ op = 0x03 ∨ op = 0x06 then reqLen
  else if op = 0x82 ∨ op = 0x84 then respLen
  else 0

/-- Bytes of a packet on the wire: header, then data padded to whole units. -/
def Packet.bytes (p : Packet) : List Byte :=
  let data := p.data ++ zeros (alignUp 8 p.data.length - p.data.length)
  if p.isResponse then leBytes 8 p.h0.toNat ++ leBytes 8 p.h1.toNat ++ data
  else leBytes 8 p.h0.toNat ++ leBytes 8 p.h1.toNat ++ leBytes 8 p.h2.toNat ++ leBytes 8 p.h3.toNat ++ data

/-- The packet at the front of a byte stream, with what follows it; `none` while it is not whole. -/
def takePacket (bs : List Byte) : Option (Packet × List Byte) :=
  let w (i : Nat) : U64 := BitVec.ofNat 64 (leAt bs (8 * i) 8)
  let p0 : Packet := ⟨w 0, w 1, w 2, w 3, []⟩
  let hdr := if p0.isResponse then 16 else 32
  let n := dataLen p0.op p0.len (fld p0.h1.toNat 31 0)
  let total := hdr + alignUp 8 n
  if bs.length < 16 ∨ bs.length < total then none
  else
    let p : Packet := { p0 with data := (bs.drop hdr).take n }
    some (if p0.isResponse then { p with h2 := 0, h3 := 0 } else p, bs.drop total)

/-- Every whole packet at the front of a stream. -/
def takePackets : Nat → List Byte → List Packet × List Byte
  | 0, bs => ([], bs)
  | n + 1, bs =>
    match takePacket bs with
    | none => ([], bs)
    | some (p, r) => let (ps, e) := takePackets n r; (p :: ps, e)

/-! ## Links, gangs and neighbours (R233, R243 to R245) -/

def Dev.link (s : Dev) (l : Nat) : Link := Tab.get {} s.fab.links l
def Dev.setLink (s : Dev) (l : Nat) (v : Link) : Dev := { s with fab := { s.fab with links := Tab.set s.fab.links l v } }
def Dev.gang (s : Dev) (g : Nat) : Gang := Tab.get {} s.fab.gangs g
def Dev.setGang (s : Dev) (g : Nat) (v : Gang) : Dev := { s with fab := { s.fab with gangs := Tab.set s.fab.gangs g v } }

def gangLinks (g : Nat) : List Nat := [4 * g, 4 * g + 1, 4 * g + 2, 4 * g + 3]
/-- The gang that faces gang `g` at the other end. -/
def mirror (g : Nat) : Nat := if g % 2 = 0 then g + 1 else g - 1

def Dev.activeLinks (s : Dev) (g : Nat) : List Nat := (gangLinks g).filter (fun l => (s.link l).st == .active)
def Dev.gangUp (s : Dev) (g : Nat) : Bool := !(s.activeLinks g).isEmpty

/-- The domain of a link's gang (R234). -/
def linkDom (l : Nat) : Nat := 76 + l / 8
/-- The link's electronics run: Dunind domain released, link domain running, device not withdrawn (R234,
Table 13.5). -/
def Dev.linkPowered (s : Dev) (l : Nat) : Bool := s.up.fab && s.domRunning (linkDom l) && s.farr.kind != 3

/-- The own coordinate with component `d` moved by `k`. -/
def moveCoord (f : Fab) (d : Nat) (k : Nat) : BitVec 24 :=
  let x := (coordDim f.coord d + k) % f.extent d
  BitVec.ofNat 24 ((List.range 4).foldl (fun a i => a + at' (if i = d then x else coordDim f.coord i) (6 * i)) 0)

/-- The coordinate of the device a gang faces; none for an unused or REMOUNT gang (R244). -/
def Dev.neighbour (s : Dev) (g : Nat) : Option (BitVec 24) :=
  let c := s.gang g
  let f := s.fab
  match c.role.toNat with
  | 1 =>
    let d := g / 2
    if f.extent d = 1 then none else some (moveCoord f d (if g % 2 = 0 then 1 else f.extent d - 1))
  | 2 =>
    let d := c.dim.toNat
    if f.extent d % 2 = 0 && decide (4 ≤ f.extent d) then some (moveCoord f d (f.extent d / 2)) else none
  | _ => none

/-! ## Routing (R246, R248) -/

/-- Where a packet goes from a router. -/
inductive Hop where
  | deliver
  | toSt (gang vc : Nat)
  | drop
  deriving DecidableEq, Repr

/-- The EXPRESS gang of a dimension that has an ACTIVE link.
DEDUCED, log entry 54. -/
def Dev.expressGang (s : Dev) (d : Nat) : Option Nat :=
  (List.range 8).find? (fun g => (s.gang g).role == 2 && (s.gang g).dim.toNat == d && s.gangUp g)

/-- The dimension in which a packet that arrived on a gang travelled. -/
def Dev.gangDim (s : Dev) (g : Nat) : Nat := if (s.gang g).role == 2 then (s.gang g).dim.toNat else g / 2

/-- The packet crosses the dateline when it leaves by a TORUS gang of dimension `d`. -/
def Fab.crosses (f : Fab) (d g : Nat) : Bool :=
  if g % 2 = 0 then coordDim f.coord d == f.extent d - 1 else coordDim f.coord d == 0

/-- The way out of the router: for a packet that came in by gang `arrived` on virtual channel `vc`, and has used an
express hop where `used`. A packet on a detour channel keeps its direction, and so does a management packet that goes
the longer way round (R248).
DEDUCED, log entry 54. -/
def Dev.nextHop (s : Dev) (dst : BitVec 24) (arrived : Option Nat) (vc : Nat) (used response : Bool) : Hop :=
  let f := s.fab
  let base := if response then 4 else 0
  let mgmt := vc == 8
  let out (g v : Nat) : Hop := .toSt g (if mgmt then 8 else base + v)
  let inDim := arrived.map s.gangDim
  let inTorus := arrived.any (fun g => (s.gang g).role != 2)
  let delta (d : Nat) : Nat := (coordDim dst d + f.extent d - coordDim f.coord d) % f.extent d
  match (List.range 4).find? (fun d => delta d != 0) with
  | none => .deliver
  | some d =>
    let e := f.extent d
    let k := delta d
    let low := if inDim = some d && inTorus && !mgmt then vc % 2 else 0
    let hi (g : Nat) : Nat := if f.crosses d g then 1 else low
    let short := 2 * d + (if 2 * k ≤ e then 0 else 1)
    let ahead := arrived.map mirror
    let detouring := inDim == some d && inTorus && (if mgmt then ahead != some short else vc / 2 % 2 == 1)
    if detouring then
      match ahead with
      | some a => if s.gangUp a then out a (2 + hi a) else .drop
      | none => .drop
    else
      let express := if used || decide (4 * min k (e - k) ≤ e) then none else s.expressGang d
      match express with
      | some g => out g 0
      | none =>
        if s.gangUp short then out short (hi short)
        else if s.gangUp (mirror short) then out (mirror short) (2 + hi (mirror short))
        else .drop

/-! ## Receive buffers (R247) -/

/-- `n` units leave a receive buffer: the flits that are wholly gone, and what stays. -/
def drainUnits : Nat → List Nat → Nat × List Nat
  | _, [] => (0, [])
  | n, h :: r => if h ≤ n then let (c, q) := drainUnits (n - h) r; (c + 1, q) else (0, (h - n) :: r)

/-- Payload units of a packet. -/
def Packet.units (p : Packet) : Nat := p.bytes.length / 8

/-- A packet leaves the receive buffer of the link it came in by, which owes the credits of the flits that are gone. -/
def Dev.release (s : Dev) (r : Routed) : Dev :=
  match r.link with
  | none => s
  | some l =>
    let k := s.link l
    let (n, q) := drainUnits r.pkt.units (Tab.get [] k.rxHeld r.vc)
    s.setLink l { k with
      rxHeld := Tab.set k.rxHeld r.vc q
      crDue := if n = 0 then k.crDue else Tab.set k.crDue r.vc (Tab.get 0 k.crDue r.vc + n) }

/-- A packet with no path is dropped and counted (R248). -/
def Dev.dropPacket (s : Dev) : Dev := { s with fab := { s.fab with drop := satAdd s.fab.drop 1 } }

/-- A packet at this router: delivered, queued for a gang, or dropped and counted (R248); a management packet with
an OP outside Table 10.22 is dropped where it ends (R261). -/
def Dev.routeOn (s : Dev) (r : Routed) : Dev :=
  let arrived := r.link.map (· / 4)
  let used := r.express || arrived.any (fun g => (s.gang g).role == 2)
  let p := r.pkt
  match s.nextHop p.dst arrived r.vc used p.isResponse with
  | .deliver =>
    let s := s.release r
    if (r.vc == 8 || p.isMgmt) && !(0xC0 ≤ p.op && p.op ≤ 0xC4) then s.dropPacket
    else { s with fab := { s.fab with inbox := s.fab.inbox ++ [p] } }
  | .toSt g v => { s with fab := { s.fab with outbox := s.fab.outbox ++ [(g, v, { r with express := used })] } }
  | .drop => (s.release r).dropPacket

/-- A packet that this device meets for the first time: received on a link, or its own. -/
def Dev.route (s : Dev) (p : Packet) (link : Option Nat) (vc : Nat) : Dev :=
  ({ s with fab := { s.fab with nextPkt := s.fab.nextPkt + 1 } } : Dev).routeOn ⟨s.fab.nextPkt, p, link, vc, false⟩

/-! ## Transmission (R236 to R238, R247) -/

/-- Credits of a virtual channel when they are initialised: the peer's receive buffer. -/
def fullCredit (v : Nat) : Nat := if v = 8 then 8 else 24

def Link.credit (k : Link) (v : Nat) : Nat := Tab.get (fullCredit v) k.credits v

/-- Credits that the next flit returns for a virtual channel. -/
def Link.owed (k : Link) (v : Nat) : Nat := min 15 (Tab.get 0 k.crDue v)

/-- A flit as it goes on the wire (Table 10.2): header, payload padded with zeros, CRC. -/
def flitBytes (seq ack : BitVec 12) (type vc : Nat) (cred : Nat → Nat) (payload : List Byte) : List Byte :=
  let creds := (List.range 9).foldl (fun a v => a + at' (cred v) (28 + 4 * v)) 0
  let body := padTo 252 (leBytes 12 (at' seq.toNat 84 + at' ack.toNat 72 + at' type 68 + at' vc 64 + creds
    + at' (payload.length / 8) 23) ++ payload)
  body ++ leBytes 4 (crc32c body).toNat

/-- A flit sent on an ACTIVE link, with the acknowledgement and the credits that are due. A flit that is no DATA flit
carries the next sequence number. -/
def Link.emit (k : Link) (seq : BitVec 12) (type vc : Nat) (payload : List Byte) : Link :=
  { k with
    wire := k.wire ++ [flitBytes seq (k.rxSeq - 1) type vc k.owed payload]
    crDue := Tab.mapV (fun n => n - min 15 n) k.crDue |>.filter (fun e => e.2 != 0)
    ackDue := false }

/-- The bytes for one flit of a virtual channel, with the packets they belong to, and what stays queued. -/
def takeUnits (vc : Nat) : Nat → List (Nat × Routed × List Byte) → List Byte × List Routed × List (Nat × Routed × List Byte)
  | _, [] => ([], [], [])
  | room, (v, r, bs) :: q =>
    if v ≠ vc ∨ room = 0 then let (d, ps, q') := takeUnits vc room q; (d, ps, (v, r, bs) :: q')
    else if bs.length ≤ room then
      let (d, ps, q') := takeUnits vc (room - bs.length) q
      (bs ++ d, r :: ps, q')
    else (bs.take room, [r], (v, r, bs.drop room) :: q)

/-- One DATA flit of a virtual channel goes into the retry buffer and on the wire.
DESIGN CHOICE, log entry 53. -/
def Link.push (k : Link) (vc : Nat) : Link :=
  let (data, ps, q) := takeUnits vc 240 k.txq
  let k' : Link := { k with
    buffer := k.buffer ++ [⟨k.txSeq, vc, data, ps⟩], txSeq := k.txSeq + 1, txq := q
    credits := Tab.set k.credits vc (k.credit vc - 1) }
  k'.emit k.txSeq 0 vc data

/-- The virtual channel served next: management, then responses, then requests, in rotation within each group; one with
units queued and a credit (R247). -/
def Link.serves (k : Link) : Option Nat :=
  let ready (v : Nat) : Bool := k.txq.any (fun e => e.1 == v) && decide (0 < k.credit v)
  let rot (base last : Nat) : List Nat := (List.range 4).map (fun i => base + (last + 1 + i) % 4)
  ([8] ++ rot 4 k.turns.1 ++ rot 0 k.turns.2).find? ready

/-- Flits sent while the retry buffer has room and a channel is ready (R238, R247). -/
def Link.fill : Nat → Link → Link
  | 0, k => k
  | n + 1, k =>
    if 512 ≤ k.buffer.length then k
    else
      match k.serves with
      | none => k
      | some v =>
        let k := k.push v
        Link.fill n { k with turns := if v = 8 then k.turns else if 4 ≤ v then (v, k.turns.2) else (k.turns.1, v) }

/-- The ACTIVE link whose turn it is (R248).
DESIGN CHOICE, log entry 53. -/
def Dev.turn (s : Dev) (g vc : Nat) : Option Nat :=
  let ls := s.activeLinks g
  let next := Tab.get 0 s.fab.nextLink (16 * g + vc)
  (ls.find? (fun l => next ≤ l)).orElse (fun _ => ls.head?)

/-- A queued packet goes to the ACTIVE link whose turn it is; one whose gang has none stays. -/
def Dev.assignLink (s : Dev) (e : Nat × Nat × Routed) : Dev :=
  match s.turn e.1 e.2.1 with
  | none => { s with fab := { s.fab with outbox := s.fab.outbox ++ [e] } }
  | some l =>
    let k := s.link l
    let s := s.setLink l { k with txq := k.txq ++ [(e.2.1, e.2.2, e.2.2.pkt.bytes)] }
    { s with fab := { s.fab with nextLink := Tab.set s.fab.nextLink (16 * e.1 + e.2.1) (l + 1) } }

/-- A link sends what it may; packets that are wholly in flits leave their receive buffers. -/
def Dev.sendLink (s : Dev) (l : Nat) : Dev :=
  let k := s.link l
  if k.st != .active || k.txq.isEmpty then s
  else
    let k' := Link.fill 512 k
    let gone := k.txq.filter (fun e => !k'.txq.any (fun q => q.2.1.id == e.2.1.id))
    gone.foldl (fun s e => s.release e.2.1) (s.setLink l k')

/-- A link with an acknowledgement or credits to return and no DATA flit ready sends an IDLE flit (R237). -/
def Dev.sendReturns (s : Dev) (l : Nat) : Dev :=
  let k := s.link l
  if k.st == .active && (k.ackDue || k.crDue.any (fun e => e.2 != 0)) then s.setLink l (k.emit k.txSeq 1 0 []) else s

def allLinks : List Nat := List.range 32

/-- Queued packets are sent as far as links, buffers and credits allow, and what is due to peers is returned.
DESIGN CHOICE, log entry 53. -/
def Dev.flush (s : Dev) : Dev :=
  let q := s.fab.outbox
  let s := q.foldl Dev.assignLink { s with fab := { s.fab with outbox := [] } }
  allLinks.foldl Dev.sendReturns (allLinks.foldl Dev.sendLink s)

/-- A packet that this device originates. -/
def Dev.send (s : Dev) (p : Packet) : Dev := (s.route p none (if p.isMgmt then 8 else 0)).flush

/-- A management packet of Table 10.22. -/
def Dev.sendMgmt (s : Dev) (dst : BitVec 24) (c op : Nat) (h1 : Nat) : Dev :=
  s.send ⟨packetHead dst s.fab.coord c op, BitVec.ofNat 64 h1, 0, 0, []⟩

/-- Every coordinate of the team, dimension 0 fastest. -/
def Fab.coords (f : Fab) : List (BitVec 24) :=
  let r (i : Nat) : List Nat := List.range (f.extent i)
  (r 3).flatMap (fun d => (r 2).flatMap (fun c => (r 1).flatMap (fun b => (r 0).map (fun a =>
    BitVec.ofNat 24 (a + at' b 6 + at' c 12 + at' d 18)))))

/-! ## Link states -/

def LinkState.code : LinkState → Nat
  | .down => 0 | .detect => 1 | .equalise => 2 | .align => 3 | .waitId => 4 | .identify => 5
  | .active => 6 | .retrain => 7 | .miswired => 8

/-- WIDTH of FAB_LINK_STATE for a number of working lanes (R240).
DEDUCED, log entry 41. -/
def widthOf (lanes : Nat) : Nat := if 4 ≤ lanes then 3 else if 2 ≤ lanes then 2 else min lanes 1

/-- A LINK event (Table 14.8). -/
def Dev.linkEvent (s : Dev) (l : Nat) : Dev :=
  let k := s.link l
  s.eventAll 0x09 (BitVec.ofNat 64 (l + at' k.st.code 8 + at' k.width 12)) 0

/-- Packets of a link's queue that no flit of its buffer holds a part of, and the rest. -/
def Link.unbegun (k : Link) : List (Nat × Routed × List Byte) × List (Nat × Routed × List Byte) :=
  k.txq.partition (fun e => !k.buffer.any (fun f => f.pkts.any (fun r => r.id == e.2.1.id)))

/-- Packets queued for a gang without an ACTIVE link are routed again, from where they came in (R248). -/
def Dev.reroute (s : Dev) (g : Nat) : Dev :=
  if s.gangUp g then s.flush
  else
    let (mine, rest) := s.fab.outbox.partition (fun e => e.1 == g)
    (mine.foldl (fun s e => s.routeOn e.2.2) ({ s with fab := { s.fab with outbox := rest } } : Dev)).flush

/-- A link that stops carrying traffic gives up the packets it has not begun to its gang's other links, or to other
ways (R239, R240, R248). -/
def Dev.giveUp (s : Dev) (l : Nat) : Dev :=
  let k := s.link l
  let (fresh, rest) := k.unbegun
  let s := s.setLink l { k with txq := rest }
  ({ s with fab := { s.fab with outbox := fresh.map (fun e => (l / 4, e.1, e.2.1)) ++ s.fab.outbox } } : Dev).reroute (l / 4)

/-- A link enters DOWN: its received part packets are dropped, a handover record goes to the peer, and its
own unacknowledged flits wait for one (R241), also where it was training again. -/
def Dev.linkDown (s : Dev) (l : Nat) : Dev :=
  let k := s.link l
  if k.st == .down then s
  else
    let carried := k.st == .active || k.st == .retrain
    let held := carried || k.wasUp
    let (fresh, _) := k.unbegun
    let s := s.setLink l { k with
      st := .down, width := 0, rx := [], rxSeq := 0, txSeq := 0, nakPending := false, credits := [], peer := none,
      rxHeld := [], crDue := [], ackDue := false, txq := [], wasUp := false
      downHold := held && !k.buffer.isEmpty, buffer := if held then k.buffer else [] }
    let s := if carried then { s with side := s.side.raise 4 } else s
    let s := s.linkEvent l
    let s := ({ s with fab := { s.fab with
      outbox := fresh.map (fun e => (l / 4, e.1, e.2.1)) ++ s.fab.outbox } } : Dev).reroute (l / 4)
    match held, (k.peer.map (·.coord)).orElse (fun _ => s.neighbour (l / 4)) with
    | true, some x => s.sendMgmt x 0 0xC0 (at' l 16 + (k.rxSeq - 1).toNat)
    | _, _ => s

/-- A link retrains with its retry buffer kept; the fourth retrain within one second takes it DOWN (R239). -/
def Dev.retrain (s : Dev) (l : Nat) : Dev :=
  let k := s.link l
  let now := s.time.ns
  let recent := k.retrainAt.filter (fun t => decide (now.toNat < t.toNat + 1000000000))
  let s := s.setLink l { k with
    st := .retrain, retrainCnt := satAdd k.retrainCnt 1, retrainAt := recent ++ [now], replays := 0, uncAt := [], wasUp := true }
  if recent.length + 1 ≥ 4 then s.linkDown l else s.giveUp l

/-- Flits of the buffer sent again, each with the acknowledgement and credits then due. -/
def Link.resend (k : Link) (fs : List Flight) : Link := fs.foldl (fun k f => k.emit f.seq 0 f.vc f.data) k

/-- The flits of the buffer are replayed from the oldest (R238, R239). -/
def Link.replayed (k : Link) : Link :=
  match k.buffer with
  | [] => k
  | f :: _ =>
    ({ k with replay := satAdd k.replay 1, replaySeq := f.seq,
              replays := if k.replays != 0 && k.replaySeq == f.seq then k.replays + 1 else 1 } : Link).resend k.buffer

/-! ## Identity (R243, R330, R332) -/

/-- The identity record of an IDLE payload; `none` when a reserved field is nonzero (Table 10.20). -/
def parseIdent (bs : List Byte) : Option Ident :=
  let w := leAt bs 8 8
  let kind := fld w 7 0
  let i : Ident := {
    teamId := BitVec.ofNat 64 (leAt bs 0 8), coord := BitVec.ofNat 24 (fld w 63 40),
    epoch := BitVec.ofNat 16 (fld w 39 24), gang := fld w 23 21, role := fld w 20 18, dim := fld w 17 16,
    standby := fld w 15 8, kind := kind }
  if ((bs.take 32).drop 16).all (· == 0) && (kind == 1 || kind == 2)
      && (i.role == 2 || i.dim == 0) && (kind == 2 || i.standby == 0)
      && (kind == 1 || (i.coord == 0 && i.epoch == 0)) then some i else none

/-- The identity record that a link of gang `g` sends (Table 10.20, R330, R332); none without an assignment. -/
def Dev.identBytes (s : Dev) (g : Nat) : Option (List Byte) :=
  let member := s.farr.kind == 2
  let c := s.gang g
  if !s.fab.teamValid || !(member || s.farr.kind == 1) then none
  else some (leBytes 8 s.fab.teamId.toNat
    ++ leBytes 8 ((if member then at' s.fab.coord.toNat 40 + at' s.farr.epoch.toNat 24 else at' s.farr.standby.toNat 8)
        + at' g 21 + at' c.role.toNat 18 + (if c.role == 2 then at' c.dim.toNat 16 else 0) + (if member then 1 else 2))
    ++ zeros 16)

/-- The IDLE flit that a link sends whenever no DATA flit is ready (R237, R261): with the identity record in WAIT_ID,
IDENTIFY and MISWIRED. Other states before ACTIVE carry no flits. -/
def Dev.idleOut (s : Dev) (l : Nat) : Option (List Byte) :=
  let k := s.link l
  let flit (payload : List Byte) : List Byte := flitBytes k.txSeq (k.rxSeq - 1) 1 0 k.owed payload
  match k.st with
  | .waitId | .identify | .miswired => some (flit ((s.identBytes (l / 4)).getD []))
  | .active => some (flit [])
  | _ => none

def Dev.epochOf (s : Dev) (x : BitVec 24) : U16 := Tab.get 0 s.farr.epochs x.toNat
/-- Epoch `a` is later than `b` (R330). -/
def laterEpoch (a b : U16) : Bool := let d := (a - b).toNat; 1 ≤ d && d ≤ 32767

/-- The peer's record agrees with what the gang requires (R243, R330). -/
def Dev.identOk (s : Dev) (l : Nat) (p : Ident) : Bool :=
  let g := l / 4
  p.kind == 1 && p.teamId == s.fab.teamId && s.neighbour g == some p.coord && p.gang == mirror g
    && !laterEpoch (s.epochOf p.coord) p.epoch
    && (gangLinks g).all (fun k => k == l || (s.link k).st != .active ||
        (s.link k).peer.any (fun q => q.coord == p.coord && !laterEpoch q.epoch p.epoch))

/-- A REMOUNT notice to every coordinate of the team (R331).
DEDUCED, log entry 58. -/
def Dev.sendRemount (s : Dev) (x : BitVec 24) (e : U16) : Dev :=
  s.fab.coords.foldl (fun s d => s.sendMgmt d 0 0xC4 (at' x.toNat 40 + e.toNat)) s

/-- A link becomes ACTIVE, and replays what its buffer kept while it retrained; what waited for a handover record that
never came is gone. A later epoch is recorded and announced, as is the device's own when nonzero; a
link of the gang that faces an earlier epoch is no longer accepted (R330, R331).
DEDUCED, log entry 57; DEDUCED, log entry 58. -/
def Dev.activate (s : Dev) (l : Nat) (p : Ident) : Dev :=
  let later := laterEpoch p.epoch (s.epochOf p.coord)
  let k := s.link l
  let k := if k.downHold then { k with buffer := [], downHold := false } else k
  let s := s.setLink l { ({ k with rxHeld := [], crDue := [] } : Link).replayed with
    st := .active, credits := [], replays := 0, wasUp := true }
  let s := (gangLinks (l / 4)).foldl (fun s k =>
    if k != l && (s.link k).st == .active && (s.link k).peer.any (fun q => laterEpoch p.epoch q.epoch) then
      ((s.setLink k { s.link k with st := .miswired }).linkEvent k).giveUp k
    else s) s
  let s := if later then
      ({ s with farr := { s.farr with epochs := Tab.set s.farr.epochs p.coord.toNat p.epoch } } : Dev).sendRemount
        p.coord p.epoch
    else s
  let s := if s.farr.epoch != 0 then s.sendRemount s.fab.coord s.farr.epoch else s
  s.flush

/-! ## Training (R242) -/

/-- A link in IDENTIFY goes on once the peer's record has come. -/
def Dev.identify (s : Dev) (l : Nat) : Dev :=
  let k := s.link l
  if (s.gang (l / 4)).role == 3 then s
  else
    match k.peer with
    | none => s
    | some p =>
      if s.identOk l p then s.activate l p
      else (s.setLink l { k with st := .miswired }).linkEvent l

/-- The device may leave WAIT_ID on a gang: it is a member, or a standby on a REMOUNT gang (Table 13.5). -/
def Dev.mayIdentify (s : Dev) (g : Nat) : Bool :=
  (s.farr.kind == 2 && s.fab.teamValid) || (s.farr.kind == 1 && (s.gang g).role == 3)

def Dev.trainingExit (s : Dev) (l : Nat) : Dev :=
  let k := s.link l
  let toSt (st : LinkState) : Dev := s.setLink l { k with st := st }
  if !s.linkPowered l then s
  else
    match k.st with
    | .detect => toSt .equalise
    | .equalise => toSt .align
    | .align => s.setLink l { k with st := .waitId, width := widthOf k.lanes }
    | .waitId => if s.mayIdentify (l / 4) then s.setLink l { k with st := .identify, credits := [] } else s
    | .identify => s.identify l
    | .retrain => (s.setLink l { k.replayed with st := .active, width := widthOf k.lanes, replays := 0 }).flush
    | _ => s

def execTrainingStateExit (l : LinkId) (s : State) : Host.Outcome State Fault Refusal :=
  s.onDev (fun d => d.trainingExit l.val)

/-- A state that outlasts its time limit returns to DETECT. -/
def Dev.trainingTimeout (s : Dev) (l : Nat) : Dev :=
  let k := s.link l
  if !s.linkPowered l then s
  else match k.st with
  | .detect | .equalise | .align | .identify | .retrain => s.setLink l { k with st := .detect, width := 0, peer := none }
  | _ => s

def execTrainingTimeout (l : LinkId) (s : State) : Host.Outcome State Fault Refusal :=
  s.onDev (fun d => d.trainingTimeout l.val)

/-- A DOWN link retries detection (R242). -/
def Dev.detectRetry (s : Dev) (l : Nat) (signal : Bool) : Dev :=
  let k := s.link l
  if k.st == .down && signal && (s.gang (l / 4)).en && s.linkPowered l && decide (0 < k.lanes) then
    s.setLink l { k with st := .detect }
  else s

def execDetectRetry (l : LinkId) (signal : Bool) (s : State) : Host.Outcome State Fault Refusal :=
  s.onDev (fun d => d.detectRetry l.val signal)

/-- The peer's lanes are electrically idle (R234). -/
def execLossOfSignal (l : LinkId) (s : State) : Host.Outcome State Fault Refusal :=
  s.onDev (fun d => d.linkDown l.val)

/-- A lane of a link is failed (R240): the gang's spare takes its place, or the link narrows, with the
short-team fault of R323, or it goes DOWN.
DEDUCED, log entry 41. -/
def Dev.laneFail (s : Dev) (l : Nat) : Dev :=
  let k := s.link l
  let g := s.gang (l / 4)
  let again (s : Dev) : Dev := if (s.link l).st == .active then s.retrain l else s
  if k.lanes = 0 then s
  else if !g.spareUsed then
    again ((s.setGang (l / 4) { g with spareUsed := true }).setLink l { k with spare := true })
  else
    let lanes := k.lanes - 1
    let narrower := widthOf lanes < widthOf k.lanes
    let s := s.setLink l { k with lanes := lanes }
    let s := if lanes = 0 then s.linkDown l
             else again (s.setLink l { s.link l with width := min (s.link l).width (widthOf lanes) })
    if narrower then
      let s := if lanes = 0 then s else s.linkEvent l
      ({ s with farr := { s.farr with linkShort := true } } : Dev).deviceFault 0x05
    else s

def execLaneFail (l : LinkId) (s : State) : Host.Outcome State Fault Refusal :=
  s.onDev (fun d => d.laneFail l.val)

/-! ## Received flits (R236 to R239) -/

/-- Flits that an acknowledgement covers leave the buffer (R238). -/
def Link.acked (k : Link) (ack : BitVec 12) : Link :=
  { k with buffer := k.buffer.filter (fun f => decide (2048 ≤ (ack - f.seq).toNat)) }

/-- Acknowledgement and credits of a received flit. -/
def Link.returns (k : Link) (h : FlitHdr) : Link :=
  let k := k.acked h.ack
  { k with credits := (List.range 9).foldl (fun t v =>
      if h.credit v = 0 then t else Tab.set t v (min (fullCredit v) (k.credit v + h.credit v))) k.credits }

/-- A NAK flit goes out: it asks for the flits after the last one received in order (R237). -/
def Link.askAgain (k : Link) : Link :=
  { (k.emit k.txSeq 2 0 [] : Link) with nakPending := true, sendNak := k.sendNak + 1 }

/-- A flit is discarded; the first discard sends one NAK (R238). -/
def Dev.discardFlit (s : Dev) (l : Nat) : Dev :=
  let k := s.link l
  if k.st != .active || k.nakPending then s
  else s.setLink l k.askAgain

/-- A flit in uncorrectable codewords, `fresh` of them not yet counted (R238, R239). -/
def Dev.fecFail (s : Dev) (l fresh : Nat) : Dev :=
  let k := s.link l
  let now := s.time.ns
  let recent := (k.uncAt.filter (fun t => decide (now.toNat < t.toNat + 1000000))) ++ List.replicate (min fresh 16) now
  let s := (s.setLink l { k with fecUnc := satAdd k.fecUnc fresh, uncAt := recent }).discardFlit l
  if k.st == .active && decide (16 ≤ recent.length) then s.retrain l else s

/-- The link is far enough in its training to take in flits. -/
def Link.receives (k : Link) : Bool :=
  k.st == .active || k.st == .waitId || k.st == .identify || k.st == .miswired

/-- A flit arrives: FEC, with at most 8 symbols corrected in each of a block's four codewords (R235), CRC and fields are
checked, then on an ACTIVE link its SEQ against the next expected, its acknowledgement and credits are taken up, and a
flit of the wanted TYPE is acted on (R236 to R238). -/
def Dev.recvFlit (s : Dev) (l : Nat) (flit : List Byte) (fec : Fec) (type : Nat) (act : Dev → FlitHdr → Dev) : Dev :=
  let k := s.link l
  if !k.receives || !s.linkPowered l then s
  else
    match fec with
    | .uncorrectable fresh => s.fecFail l (min fresh fecWords)
    | .decoded n =>
      let s := s.setLink l { k with fecCorr := satAdd k.fecCorr (min n (fecWords * rsLimit)) }
      if !flitOk flit then
        let s := s.setLink l { s.link l with crcErr := satAdd k.crcErr 1 }
        if type = 3 then s else s.discardFlit l
      else
        let h := parseFlit flit
        if h.type ≠ type then s
        else if type ≠ 0 && k.st == .active && h.seq != k.rxSeq then s.discardFlit l
        else
          let s := if k.st == .active then s.setLink l ((s.link l).returns h) else s
          (act s h).flush

/-- A flit of the wrong size is no flit (R236). -/
def State.onFlit (s : State) (flit : List Byte) (f : Dev → Dev) : Host.Outcome State Fault Refusal :=
  if flit.length = 256 then s.onDev f else .refused (.illFormed "a flit is 256 bytes")

/-- A DATA flit that arrives in order is passed on; any other is discarded (R238). A REMOUNT gang carries virtual
channel 8 in IDENTIFY (R332). -/
def Dev.dataFlit (s : Dev) (l : Nat) (flit : List Byte) (h : FlitHdr) : Dev :=
  let k := s.link l
  if k.st != .active && !(k.st == .identify && (s.gang (l / 4)).role == 3 && h.vc == 8) then s
  else if h.seq != k.rxSeq then s.discardFlit l
  else
    let bs := Tab.get [] k.rx h.vc ++ flitPayload flit h
    let (ps, rest) := takePackets bs.length bs
    let s := s.setLink l { k with
      rxSeq := k.rxSeq + 1, nakPending := false, rx := Tab.set k.rx h.vc rest, ackDue := true,
      rxHeld := Tab.set k.rxHeld h.vc ((Tab.get [] k.rxHeld h.vc) ++ [h.plen]) }
    ps.foldl (fun s p => s.route p (some l) h.vc) s

def execDataFlit (l : LinkId) (flit : List Byte) (fec : Fec) (s : State) : Host.Outcome State Fault Refusal :=
  s.onFlit flit (fun d => d.recvFlit l.val flit fec 0 (fun d h => d.dataFlit l.val flit h))

/-- An IDLE flit in training may carry the peer's identity record (R261). -/
def Dev.idleFlit (s : Dev) (l : Nat) (flit : List Byte) (h : FlitHdr) : Dev :=
  let k := s.link l
  if k.st == .active || h.plen = 0 then s
  else
    let bad := s.setLink l { k with crcErr := satAdd k.crcErr 1 }
    if h.plen ≠ 4 then bad
    else
      match parseIdent (flitPayload flit h) with
      | none => bad
      | some p =>
        let again := k.st == .miswired && k.peer != some p
        s.setLink l { k with peer := some p, st := if again then .identify else k.st }

def execIdleFlit (l : LinkId) (flit : List Byte) (fec : Fec) (s : State) : Host.Outcome State Fault Refusal :=
  s.onFlit flit (fun d => d.recvFlit l.val flit fec 1 (fun d h => d.idleFlit l.val flit h))

/-- A NAK: the buffered flits from the one requested are sent again; the eighth replay of one number in a
row retrains the link (R238, R239). -/
def Dev.nakFlit (s : Dev) (l : Nat) : Dev :=
  let k := s.link l
  if k.st != .active || k.buffer.isEmpty then s
  else
    let k := k.replayed
    let s := s.setLink l k
    if 8 ≤ k.replays then s.retrain l else s

def execNakFlit (l : LinkId) (flit : List Byte) (fec : Fec) (s : State) : Host.Outcome State Fault Refusal :=
  s.onFlit flit (fun d => d.recvFlit l.val flit fec 2 (fun d _ => d.nakFlit l.val))

/-- The NAK is sent again while the expected flit has not come (R238). -/
def Dev.nakResend (s : Dev) (l : Nat) : Dev :=
  let k := s.link l
  if k.st == .active && k.nakPending then s.setLink l k.askAgain else s

def execNakResendTimeout (l : LinkId) (s : State) : Host.Outcome State Fault Refusal :=
  s.onDev (fun d => d.nakResend l.val)

/-! ## Handover (R241) -/

/-- The oldest received packet with an OP, and the inbox without it. -/
def takeOp (op : Nat) : List Packet → Option (Packet × List Packet)
  | [] => none
  | p :: r =>
    if p.op = op then some (p, r)
    else
      match takeOp op r with
      | none => none
      | some (q, r') => some (q, p :: r')

/-- A management packet whose reserved fields are zero; `mask` names the bits of H1 that its OP uses (R261).
DEDUCED, log entry 56. -/
def mgmtOk (p : Packet) (mask : Nat) : Bool :=
  fld p.h0.toNat 9 8 == 0 && p.h2 == 0 && p.h3 == 0 && (p.h1 &&& ~~~(BitVec.ofNat 64 mask)) == 0

/-- The oldest management packet with an OP is taken up; an invalid one is dropped and counted.
DEDUCED, log entry 56. -/
def Dev.onMgmt (s : Dev) (op mask : Nat) (act : Dev → Packet → Dev) : Dev :=
  match takeOp op s.fab.inbox with
  | none => s
  | some (p, rest) =>
    let s := { s with fab := { s.fab with inbox := rest } }
    if mgmtOk p mask then act s p else { s with fab := { s.fab with drop := satAdd s.fab.drop 1 } }

/-- The packets of a list of flits, each once, in order. -/
def flightPackets (fs : List Flight) : List Routed :=
  (fs.flatMap (·.pkts)).foldl (fun ps r => if ps.any (fun q => q.id == r.id) then ps else ps ++ [r]) []

/-- A handover record: flits passed on leave the DOWN link, and the packets of the rest are sent again.
DEDUCED, log entry 57. -/
def Dev.handover (s : Dev) (p : Packet) : Dev :=
  let far := fld p.h1.toNat 20 16
  let l := 4 * mirror (far / 4) + far % 4
  let k := s.link l
  if !k.downHold then s
  else
    let left := (k.acked (BitVec.ofNat 12 (fld p.h1.toNat 11 0))).buffer
    let s := s.setLink l { k with buffer := [], downHold := false }
    ((flightPackets left).foldl Dev.routeOn s).flush

def execHandover (s : State) : Host.Outcome State Fault Refusal :=
  s.onDev (fun d => d.onMgmt 0xC0 0x1F0FFF (fun d p => d.handover p))

/-- No handover record came within 1 ms: the packets are dropped. -/
def Dev.handoverTimeout (s : Dev) (l : Nat) : Dev :=
  let k := s.link l
  if k.downHold then s.setLink l { k with buffer := [], downHold := false } else s

def execHandoverTimeout (l : LinkId) (s : State) : Host.Outcome State Fault Refusal :=
  s.onDev (fun d => d.handoverTimeout l.val)

/-! ## Time relay (R259 to R261) -/

def stampAt (bs : List Byte) (i : Nat) : Stamp := ⟨BitVec.ofNat 64 (leAt bs i 8), BitVec.ofNat 16 (leAt bs (i + 8) 2)⟩
def stampBytes (t : Stamp) : List Byte := leBytes 8 t.ns.toNat ++ leBytes 2 t.frac.toNat ++ zeros 6

/-- The payload of a TIME flit has its reserved fields zero (Table 10.21). -/
def timePayloadOk (bs : List Byte) : Bool :=
  ((bs.drop 10).take 6).all (· == 0) && ((bs.drop 26).take 6).all (· == 0) && ((bs.drop 42).take 6).all (· == 0)
    && decide (leAt bs 48 1 ≤ 3) && decide (leAt bs 53 1 ≤ 1) && ((bs.drop 54).take 2).all (· == 0)

/-- A TIME flit updates the link delay and the gang's candidate. -/
def Dev.timeFlit (s : Dev) (l : Nat) (flit : List Byte) (h : FlitHdr) : Dev :=
  let k := s.link l
  let g := l / 4
  let gg := s.gang g
  if k.st != .active && !(k.st == .identify && gg.role == 3) then s
  else
    let bs := flitPayload flit h
    if h.plen ≠ 7 || !timePayloadOk bs then s.setLink l { k with crcErr := satAdd k.crcErr 1 }
    else
      let t3 := stampAt bs 0
      let t1 := stampVal (stampAt bs 16)
      let t2 := stampVal (stampAt bs 32)
      let t4 := s.now
      let (off, delay) := if bit (leAt bs 53 1) 0 then
          let d := ((stampVal t4 - t1) - (stampVal t3 - t2)) / 2 - psUnits gg.asym.toInt
          (t2 - t1 - d, d)
        else (gg.cand.offset, gg.cand.delay)
      let cand : TimeCand := ⟨true, leAt bs 48 1, min 255 (leAt bs 49 1 + 1), BitVec.ofNat 24 (leAt bs 50 3), off, delay⟩
      (s.setGang g { gg with cand := cand, lastRx := some (t3, t4) }).reselect

def execTimeFlit (l : LinkId) (flit : List Byte) (fec : Fec) (s : State) : Host.Outcome State Fault Refusal :=
  s.onFlit flit (fun d => d.recvFlit l.val flit fec 3 (fun d h => d.timeFlit l.val flit h))

/-- The payload this device sends on a gang. -/
def Dev.timePayload (s : Dev) (g : Nat) : List Byte :=
  let (t1, t2, v) := match (s.gang g).lastRx with
    | some (a, b) => (a, b, 1)
    | none => (⟨0, 0⟩, ⟨0, 0⟩, 0)
  stampBytes s.now ++ stampBytes t1 ++ stampBytes t2 ++ leBytes 1 s.fab.timeQual.toNat ++ leBytes 1 s.fab.timeHops.toNat
    ++ leBytes 3 s.fab.timeCoord.toNat ++ leBytes 1 v ++ zeros 2

/-- The link that sends TIME flits: the lowest ACTIVE one, or on a REMOUNT gang the lowest in IDENTIFY (R259, R332). -/
def Dev.timeLink (s : Dev) (g : Nat) : Option Nat :=
  (s.activeLinks g).head?.orElse (fun _ =>
    if (s.gang g).role == 3 then (gangLinks g).find? (fun l => (s.link l).st == .identify) else none)

/-- A TIME flit is sent on a gang. -/
def Dev.timeFlitSend (s : Dev) (g : Nat) : Dev :=
  match s.timeLink g with
  | none => s
  | some l =>
    let gg := s.gang g
    let pay := s.timePayload g
    let k := s.link l
    (s.setLink l (k.emit k.txSeq 3 0 pay)).setGang g { gg with timeSent := gg.timeSent + 1, lastTx := pay }

def execTimeFlitSend (g : GangId) (s : State) : Host.Outcome State Fault Refusal :=
  s.onDev (fun d => d.timeFlitSend g.val)

/-- A gang silent for 1 ms is no candidate. -/
def Dev.gangSilence (s : Dev) (g : Nat) : Dev :=
  let gg := s.gang g
  (s.setGang g { gg with cand := { gg.cand with valid := false } }).reselect

def execGangTimeSilence (g : GangId) (s : State) : Host.Outcome State Fault Refusal :=
  s.onDev (fun d => d.gangSilence g.val)

/-! ## FAB_GANG_CFG and FAB_WIN (R262) -/

def Dev.fabStatus (s : Dev) (st : Status) : Dev := { s with fab := { s.fab with status := st.byte } }

/-- A disabled gang trains no more. -/
def Dev.gangOff (s : Dev) (g : Nat) : Dev := (gangLinks g).foldl Dev.linkDown s

def Dev.gangCfgWrite (s : Dev) (g : Nat) (v : U64) : Dev :=
  if s.fab.pend then s
  else
    let x := v.toNat
    let st := firstRefusal [(decide (3 < fld x 4 2), .invalidWord), (s.gangUp g, .notIdle)]
    let s := if st == .done then
        let s := s.setGang g { s.gang g with
          asym := BitVec.ofNat 16 (fld x 63 48), dim := BitVec.ofNat 2 (fld x 6 5), role := BitVec.ofNat 3 (fld x 4 2),
          en := bit x 0 }
        if bit x 0 then s else s.gangOff g
      else s
    s.fabStatus st

def execFabGangCfgWrite (g : GangId) (v : U64) (s : State) : Host.Outcome State Fault Refusal :=
  s.onBar (fun d => d.gangCfgWrite g.val v)

/-- A window from the words of FAB_WIN (Table 10.18). -/
def parseWin (w0 w1 : Nat) : Win :=
  { base := BitVec.ofNat 27 (fld w0 38 12), space := BitVec.ofNat 2 (fld w0 7 6), patom := bit w0 5, pacc := bit w0 4,
    pput := bit w0 3, pget := bit w0 2, en := bit w0 0, size := BitVec.ofNat 22 (fld w1 21 0) }

def Win.word0 (w : Win) : Nat :=
  at' w.base.toNat 12 + at' w.space.toNat 6 + at' (b2n w.patom) 5 + at' (b2n w.pacc) 4 + at' (b2n w.pput) 3
    + at' (b2n w.pget) 2 + b2n w.en
def Win.word1 (w : Win) : Nat := w.size.toNat

/-- The window has a size of the range, or none while it is disabled, and lies in the context's usable allotment or its
staging range.
DEDUCED, log entry 43. -/
def Ctx.winFits (x : Ctx) (w : Win) : Bool :=
  let b := w.base.toNat * 4096
  let n := w.size.toNat * 4096
  (!w.en || decide (1 ≤ w.size.toNat)) && decide (w.size.toNat ≤ 0x200000) &&
    (if w.space = 0 then decide (b + n ≤ x.usable) else x.stgHolds (w.space.toNat - 1) b n)

/-- DEDUCED, log entry 43. -/
def Dev.winWrite (s : Dev) (c w word : Nat) (v : U64) : Dev :=
  if s.fab.pend then s
  else
    let old := Tab.get {} (s.ctx c).wins w
    let x := v.toNat
    let new := if word = 0 then parseWin x old.word1 else parseWin old.word0 x
    let reserved := if word = 0 then fld x 63 39 != 0 || fld x 11 8 != 0 || bit x 1 else fld x 63 22 != 0
    let st := firstRefusal [(reserved || new.space == 3, .invalidWord), (!(s.ctx c).winFits new, .range)]
    let s := if st == .done then s.modCtx c (fun k => { k with wins := Tab.set k.wins w new }) else s
    s.fabStatus st

def execFabWinWrite (c : CtxId) (w : Fin 16) (word : Fin 2) (v : U64) (s : State) :
    Host.Outcome State Fault Refusal :=
  s.onBar (fun d => d.winWrite c.val w.val word.val v)

end Sys2Proof.Machine
end

