-- ==== Sys2Proof/Machine/Remote.lean ====
section
/-! DEFINITION. Remote operations: their packets at the initiator (R250, R254, R255), the slots that start
them (R251 to R254), and request packets at the target (R17, R204, R252, R253, R256). -/
namespace Sys2Proof.Machine
open Sys2Proof

/-! ## Packets of an operation (R250) -/

/-- Offset and length of each packet's data. -/
def pieces (n : Nat) : List (Nat × Nat) :=
  (List.range (max 1 (ceilDiv n 2048))).map (fun i => (2048 * i, min 2048 (n - 2048 * i)))

/-- What an operation asks for, before it is cut into packets. -/
structure Ask where
  kind : Nat
  dst : BitVec 24
  win : Nat := 0
  off : Nat := 0
  rse : Bool := false
  rhitch : U16 := 0
  /-- Data of PUT and ACC; the compare value of CAS. -/
  data : List Byte := []
  /-- Bytes a GET requests. -/
  len : Nat := 0
  operand : U64 := 0

/-- Bytes of the window that the operation touches. -/
def Ask.span (a : Ask) : Nat :=
  match a.kind with
  | 1 => a.data.length
  | 2 => a.len
  | 3 => a.data.length
  | 7 => 0
  | _ => 8

/-- One request packet, its identifier still zero.
DEDUCED, log entry 60. -/
def Ask.packet (a : Ask) (src : BitVec 24) (c off len : Nat) (data : List Byte) (last : Bool) : Packet :=
  ⟨packetHead a.dst src c a.kind,
   BitVec.ofNat 64 (at' a.win 44 + at' (b2n (last && a.rse)) 43 + at' (b2n last) 42 + off),
   BitVec.ofNat 64 (at' a.rhitch.toNat 48 + len), a.operand, data⟩

def Ask.packets (a : Ask) (src : BitVec 24) (c : Nat) : List Packet :=
  let cut (n : Nat) : List (Nat × Nat × Bool) :=
    let ps := pieces n
    ((List.range ps.length).zip ps).map (fun e => (e.2.1, e.2.2, e.1 + 1 == ps.length))
  match a.kind with
  | 1 | 3 => (cut a.data.length).map (fun e =>
      a.packet src c (a.off + e.1) e.2.1 ((a.data.drop e.1).take e.2.1) e.2.2)
  | 2 => (cut a.len).map (fun e => a.packet src c (a.off + e.1) e.2.1 [] e.2.2)
  | 6 => [a.packet src c a.off 8 a.data true]
  | _ => [a.packet src c a.off 0 [] true]

/-! ## Sending (R254, R255) -/

/-- The remote queue an operation stands in: a tile's, or that of an engine of a die (chapters 11, 12).
DEDUCED, log entry 64. -/
def OpOwner.queue (o : OpOwner) : Nat × Nat × Nat :=
  match o with
  | .slot c t _ _ => (0, c, t)
  | .bucket _ b => (1, b % 2, 0)
  | .upd _ d => (2, d, 0)

def ROp.allAcked (o : ROp) : Bool := o.pkts.all (·.acked)

/-- An earlier operation holds this one back: same destination and window, bytes in common, not acknowledged
(R255). -/
def ROp.blocks (e o : ROp) : Bool :=
  !e.allAcked && e.dst == o.dst && e.win == o.win && decide (0 < e.len) && decide (0 < o.len)
    && rangesMeet e.off e.len o.off o.len

/-- The packets that may be sent now, given the earlier operations of the queue. A contribution record goes after
every earlier operation to its destination, the data it describes among them (R277).
DEDUCED, log entry 64; DEDUCED, log entry 71. -/
def ROp.sendable (before : List ROp) (o : ROp) : List Nat :=
  let behind := before.any (fun e => e.dst == o.dst && !e.allAcked)
  if decide (64 ≤ before.length) || before.any (fun e => e.blocks o) || (o.why == .record && behind) then []
  else
    (List.range o.pkts.length).filter (fun i =>
      match o.pkts[i]? with
      | none => false
      | some p => !p.sent &&
          (!p.pkt.rse ||
            ((List.range o.pkts.length).all (fun j => j == i || (o.pkts[j]?).any (·.acked)) && !behind)))

/-- A transaction identifier that no outstanding packet has.
DEDUCED, log entry 63. -/
def freeTx (used : List U16) : Nat → U16 → Option U16
  | 0, _ => none
  | n + 1, t => if used.contains t then freeTx used n (t + 1) else some t

/-- Identifiers of outstanding packets. -/
def Fab.txids (f : Fab) : List U16 :=
  f.ops.flatMap (fun o => (o.pkts.filter (fun p => p.sent && !p.acked)).map (·.txid))

def Dev.modOp (s : Dev) (id : Nat) (f : ROp → ROp) : Dev :=
  { s with fab := { s.fab with ops := s.fab.ops.map (fun o => if o.id = id then f o else o) } }

def modAt {α : Type} (xs : List α) (i : Nat) (f : α → α) : List α :=
  match xs[i]? with
  | none => xs
  | some x => xs.set i (f x)

def Packet.withTx (p : Packet) (t : U16) : Packet :=
  { p with h1 := BitVec.ofNat 64 (at' t.toNat 48 + p.h1.toNat % 2 ^ 48) }

/-- One packet sent under a fresh identifier.
DEDUCED, log entry 63. -/
def Dev.sendPkt (s : Dev) (id i : Nat) : Dev :=
  match s.fab.ops.find? (fun o => o.id = id) with
  | none => s
  | some o =>
    match o.pkts[i]?, freeTx s.fab.txids 65536 s.fab.nextTx with
    | some p, some t =>
      let q : OutPkt := { p with txid := t, sent := true, pkt := p.pkt.withTx t }
      let s := s.modOp id (fun o => { o with pkts := o.pkts.set i q })
      ({ s with fab := { s.fab with nextTx := t + 1 } } : Dev).send q.pkt
    | _, _ => s

/-- Operations of a pre-empted context that have sent nothing stay (R258). -/
def Dev.mayRun (s : Dev) (o : ROp) : Bool := (s.ctx o.c).resid == .resident || o.pkts.any (·.sent)

def Dev.pumpOps (s : Dev) : List ROp → List ROp → Dev
  | _, [] => s
  | before, o :: r =>
    let mine := before.filter (fun e => e.owner.queue == o.owner.queue)
    let s := if s.mayRun o then (o.sendable mine).foldl (fun s i => s.sendPkt o.id i) s else s
    s.pumpOps (before ++ [o]) r

/-- Every packet that may be sent is sent. -/
def Dev.pump (s : Dev) : Dev := s.pumpOps [] s.fab.ops

/-- An operation joins its queue. -/
def Dev.startOp (s : Dev) (owner : OpOwner) (why : OpWhy) (c : Nat) (a : Ask) (loc : Option Desc) : Dev :=
  let o : ROp := {
    id := s.fab.nextOp, owner := owner, why := why, c := c, kind := a.kind, dst := a.dst, win := a.win,
    off := a.off, len := a.span, loc := loc
    pkts := (a.packets s.fab.coord c).map (fun p => { pkt := p }) }
  { s with fab := { s.fab with ops := s.fab.ops ++ [o], nextOp := s.fab.nextOp + 1 } }

/-! ## Remote slots (R251 to R254) -/

/-- A tensor's bytes packed in ascending λ (R71).
DEDUCED, log entry 59. -/
def Dev.packed (s : Dev) (c : Nat) (d : Desc) : List Byte :=
  packCodes (fmtBits d.fmt) ((s.codes c d).map (fun e => e.1))

/-- Bytes of a tensor's packed elements. -/
def Desc.packedLen (d : Desc) : Nat := d.count * fmtBits d.fmt / 8

def isRem (op : Nat) (o : SlotOp) : Bool :=
  match o with
  | .rem k _ _ _ _ _ _ _ _ _ => k == op
  | _ => false

/-- The data that an operation captures as it starts: the packed tensor of a PUT or an ACC, the compare value of a CAS.
DEDUCED, log entry 59. -/
def Dev.remData (s : Dev) (c k : Nat) (loc : Option Desc) (compare : U64) : List Byte :=
  match k, loc with
  | 1, some d => s.packed c d
  | 3, some d => s.packed c d
  | 6, _ => leBytes 8 compare.toNat
  | _, _ => []

/-- The pool lines of the local tensor. -/
def Dev.remLines (s : Dev) (c : Nat) (loc : Option Desc) : List Nat := loc.elim [] (s.descLines c)

/-- An earlier GET of the queue has not yet written local bytes that this tensor touches (R20). -/
def Dev.getsInto (s : Dev) (c t : Nat) (loc : Option Desc) : Bool :=
  match loc with
  | none => false
  | some d => s.fab.ops.any (fun e => e.owner.queue == (0, c, t) && e.kind == 2 && !e.allAcked
      && e.loc.any (fun l => l.overlaps d))

/-- The head entry of the remote queue starts when it is the operation named. Operations of the queue take effect in
queue order, so it waits for an earlier GET into its local tensor (R20). -/
def Dev.remStart (s : Dev) (c t op : Nat) : Dev :=
  match s.headReady c t 6 (isRem op) with
  | none => s
  | some (w, y) =>
    match y.op with
    | .rem k coord win off rse rhitch loc _ operand compare =>
      let lines := s.remLines c loc
      if s.getsInto c t loc then s
      else
      s.withPool lines (if k = 2 then [] else lines) (fun s =>
        let (s, bad) := s.meetStores c (if k = 2 then [] else (loc.bind Desc.storeTile).toList)
        if bad then s.deviceFault 0x01
        else
        let a : Ask := {
          kind := k, dst := coord, win := win, off := off, rse := rse, rhitch := rhitch
          data := s.remData c k loc compare
          len := loc.elim 0 Desc.packedLen
          operand := if k = 4 ∨ k = 5 ∨ k = 6 then operand else 0 }
        let s := s.modTile c t (fun x => x.modSlot w.seq 6 (fun y => { y with st := .started }))
        ((s.startOp (.slot c t w.seq 6) .slot c a loc).runJobs [.arm c t 6]).pump)
    | _ => s

def execPut (c : CtxId) (t : TileId) (s : State) : Host.Outcome State Fault Refusal :=
  s.onDev (fun d => d.remStart c.val t.val 1)
def execGet (c : CtxId) (t : TileId) (s : State) : Host.Outcome State Fault Refusal :=
  s.onDev (fun d => d.remStart c.val t.val 2)
def execAcc (c : CtxId) (t : TileId) (s : State) : Host.Outcome State Fault Refusal :=
  s.onDev (fun d => d.remStart c.val t.val 3)
def execFadd (c : CtxId) (t : TileId) (s : State) : Host.Outcome State Fault Refusal :=
  s.onDev (fun d => d.remStart c.val t.val 4)
def execSwap (c : CtxId) (t : TileId) (s : State) : Host.Outcome State Fault Refusal :=
  s.onDev (fun d => d.remStart c.val t.val 5)
def execCas (c : CtxId) (t : TileId) (s : State) : Host.Outcome State Fault Refusal :=
  s.onDev (fun d => d.remStart c.val t.val 6)
def execSignal (c : CtxId) (t : TileId) (s : State) : Host.Outcome State Fault Refusal :=
  s.onDev (fun d => d.remStart c.val t.val 7)

/-! ## Requests at the target (R17, R256) -/

def Win.permits (w : Win) (op : Nat) : Bool :=
  match op with
  | 1 => w.pput
  | 2 => w.pget
  | 3 => w.pacc
  | _ => w.patom

/-- Where the `n` bytes a packet names lie, against the window and the context's memory in force; none when
the packet is refused.
DEDUCED, log entry 61. -/
def Dev.target (s : Dev) (p : Packet) (n : Nat) : Option (Space × Nat) :=
  let x := s.ctx p.ctx
  let w : Win := Tab.get {} x.wins p.win
  let a := w.base.toNat * 4096 + p.off
  if !w.en || !w.permits p.op || decide (w.size.toNat * 4096 < p.off + n) then none
  else if w.space = 0 then (if a + n ≤ x.usable then some (.hbm, a) else none)
  else if x.stgHolds (w.space.toNat - 1) a n then some (.staging (w.space.toNat - 1), a) else none

/-- OVF and OVBITS of an ACC response. -/
structure AccOut where
  ovf : Bool := false
  ovbits : Nat := 0

/-- The response to a request (Table 10.7).
DEDUCED, log entry 60. -/
def Dev.respond (s : Dev) (p : Packet) (op : Nat) (st : Status) (v : AccOut) (data : List Byte) : Dev :=
  s.send ⟨packetHead p.src s.fab.coord p.ctx op,
    BitVec.ofNat 64 (at' p.txid.toNat 48 + at' st.code 40 + at' (b2n v.ovf) 39 + at' v.ovbits 32 + data.length),
    0, 0, data⟩

/-- What performing a packet yields: the state, what an ACC reports, and the data returned. -/
structure Done where
  dev : Dev
  acc : AccOut := {}
  data : List Byte := []

/-- RHITCH of a packet with RSE is raised once the packet has been performed; an unmapped or barrier hitch
answers RANGE (R204, R254). -/
def Dev.raiseRemote (s : Dev) (p : Packet) : Status × Dev :=
  if p.rse then
    let (ok, s) := s.signalVid p.ctx p.rhitch
    (if ok then .done else .range, s)
  else (.done, s)

/-- The oldest received request with OP `op`, of `n` bytes: refused with RANGE, or performed and answered with
`rsp`. It waits while the host may cache a line it touches (R229).
DEDUCED, log entry 61; DEDUCED, log entry 62. -/
def Dev.serve' (s : Dev) (op rsp : Nat) (n : Packet → Nat) (reads : Bool) (act : Dev → Packet → Addr → Done) :
    Dev :=
  match takeOp op s.fab.inbox with
  | none => s
  | some (p, rest) =>
    let taken : Dev := { s with fab := { s.fab with inbox := rest } }
    match s.target p (n p) with
    | none =>
      (taken.modCtx p.ctx (fun x => { x with refused := satAdd x.refused 1 })).respond p rsp .range {} []
    | some (sp, a) =>
      let lines := match sp with
        | .hbm => linesOf ((s.ctx p.ctx).pool a) (n p)
        | _ => []
      let cached := s.mem.cached lines
      if !cached.isEmpty then { s with mem := s.mem.invalidate cached }
      else
        let taken := if reads then taken.meetLines lines else taken
        if reads && taken.mem.poisoned lines then taken.deviceFault 0x03
        else
        let d := act taken p ⟨sp, a⟩
        let (st, s) := d.dev.raiseRemote p
        s.respond p rsp st d.acc d.data

def execPutRequest (s : State) : Host.Outcome State Fault Refusal :=
  s.onDev (fun d => d.serve' 0x01 0x81 (fun p => p.data.length) false
    (fun s p a => { dev := s.writeBytes p.ctx a p.data }))

def execGetRequest (s : State) : Host.Outcome State Fault Refusal :=
  s.onDev (fun d => d.serve' 0x02 0x82 Packet.len true
    (fun s p a => { dev := s, data := s.readBytes p.ctx a p.len }))

/-- One INT32 element added with saturation: the sum, and its OVBITS when it saturates (R252). -/
def accAdd (x y : Nat) : Nat × Option Nat :=
  let sum := sext 32 x + sext 32 y
  if sum < -(2 ^ 31 : Int) then (0x80000000, some 1)
  else if (2 ^ 31 : Int) ≤ sum then (0x7FFFFFFF, some 1)
  else (toBits 32 sum, none)

/-- The elements of a packet added into the bytes at its place. -/
def accBytes : Nat → List Byte → List Byte → List Byte × AccOut
  | 0, _, _ => ([], {})
  | n + 1, old, new =>
    let (v, o) := accAdd (leAt old 0 4) (leAt new 0 4)
    let (bs, out) := accBytes n (old.drop 4) (new.drop 4)
    (leBytes 4 v ++ bs, { ovf := o.isSome || out.ovf, ovbits := max (o.getD 0) out.ovbits })

def Dev.accPacket (s : Dev) (p : Packet) (a : Addr) : Done :=
  let n := p.data.length / 4
  let (bs, out) := accBytes n (s.readBytes p.ctx a (4 * n)) p.data
  let s := s.writeBytes p.ctx a bs
  { dev := if out.ovf then s.modCtx p.ctx (fun x => { x with ovfAcc := satAdd x.ovfAcc 1 }) else s, acc := out }

/-- An atomic on 8 bytes: the new value as a function of the old one (R253). -/
def Dev.atomic (s : Dev) (p : Packet) (a : Addr) (f : U64 → U64) : Done :=
  let bs := s.readBytes p.ctx a 8
  { dev := s.writeBytes p.ctx a (leBytes 8 (f (BitVec.ofNat 64 (leNat bs))).toNat), data := bs }

def execFaddRequest (s : State) : Host.Outcome State Fault Refusal :=
  s.onDev (fun d => d.serve' 0x04 0x84 (fun _ => 8) true (fun s p a => s.atomic p a (fun v => v + p.h3)))
def execSwapRequest (s : State) : Host.Outcome State Fault Refusal :=
  s.onDev (fun d => d.serve' 0x05 0x84 (fun _ => 8) true (fun s p a => s.atomic p a (fun _ => p.h3)))
def execCasRequest (s : State) : Host.Outcome State Fault Refusal :=
  s.onDev (fun d => d.serve' 0x06 0x84 (fun _ => 8) true (fun s p a =>
    s.atomic p a (fun v => if v.toNat = leNat p.data then p.h3 else v)))

/-- A signal packet names no window; it is performed by raising its hitch (R204). -/
def Dev.signalPacket (s : Dev) : Dev :=
  match takeOp 0x07 s.fab.inbox with
  | none => s
  | some (p, rest) =>
    let (st, s) := ({ s with fab := { s.fab with inbox := rest } } : Dev).raiseRemote p
    s.respond p 0x81 st {} []

def execSignalRequest (s : State) : Host.Outcome State Fault Refusal :=
  s.onDev Dev.signalPacket

end Sys2Proof.Machine
end

