-- ==== Sys2Proof/Machine/Hitches.lean ====
section
/-! DEFINITION. The registers of the hitch fabric: map writes (R196 to R198, R208) and the operations of
SYNC_HITCH_OP (R210 to R212). -/
namespace Sys2Proof.Machine
open Sys2Proof

/-! ## Map entries (Table 8.1) -/

/-- The entry a 64-bit quantity spells, and whether it is VALID. -/
def parseEntry (v : Nat) : HEntry × Bool :=
  ({ thresh1 := BitVec.ofNat 8 (fld v 55 48), width1 := BitVec.ofNat 8 (fld v 47 40), barrier := fld v 31 30 == 1,
     exported := bit v 29, own := bit v 28, die := bit v 14, phys := BitVec.ofNat 14 (fld v 13 0) }, bit v 15)

def HEntry.word (e : HEntry) : Nat :=
  at' e.thresh1.toNat 48 + at' e.width1.toNat 40 + at' (b2n e.barrier) 30 + at' (b2n e.exported) 29
    + at' (b2n e.own) 28 + at' 1 15 + at' (b2n e.die) 14 + e.phys.toNat

/-- Reserved fields zero, KIND known; a BARRIER entry within its bounds; EXPORT only on an owner (R197).
DEDUCED, log entry 66. -/
def entryWordOk (v : Nat) : Bool :=
  let (e, _) := parseEntry v
  fld v 63 56 == 0 && fld v 39 32 == 0 && fld v 27 16 == 0 && decide (fld v 31 30 ≤ 1)
    && (!e.barrier || (decide (e.phys.toNat < 256) && decide (e.thresh1.toNat ≤ 127) && e.width1 == 0))
    && (e.own || !e.exported)

/-- Map entries of every context for a physical hitch, by context and identifier. -/
def Dev.namers (s : Dev) (key : Nat) (own : Bool) : List (Nat × Nat × HEntry) :=
  s.ctxs.flatMap (fun x => (x.2.hmap.filter (fun e => e.2.key == key && e.2.own == own)).map (fun e => (x.1, e.1, e.2)))

/-- The sharing entries that the translation store of a die holds. -/
def Dev.sharers (s : Dev) (die : Bool) : Nat :=
  (s.ctxs.map (fun x => (x.2.hmap.filter (fun e => !e.2.own && e.2.die == die)).length)).sum

/-- An issued slot of the context names the identifier and has not completed. -/
def IWord.names (w : IWord) (vid : Nat) : Bool :=
  let is (h : Option HRef) : Bool := h.any (fun r => r.vid.toNat == vid)
  w.slots.any (fun y => y.st != .ended && (is y.wait || is y.sig))
    || w.hitch.any (fun h => !h.fin && (is h.sig1 || is h.sig2 || is h.group || h.waits.contains vid))

/-- The entry is in use (R197). -/
def Dev.entryUsed (s : Dev) (c vid : Nat) (e : HEntry) : Bool :=
  !(s.hitch e.key).waiters.isEmpty
    || (s.tilesOf c).any (fun t => (s.tile c t).words.any (fun w => w.names vid))
    || (e.own && e.exported && !(s.namers e.key false).isEmpty)

/-- The status of a map write.
DEDUCED, log entry 66. -/
def Dev.mapStatus (s : Dev) (c vid v : Nat) : Status :=
  let (e, valid) := parseEntry v
  let old := s.mapEntry c vid
  let owners := s.namers e.key true
  let others := owners.filter (fun o => !(o.1 == c && o.2.1 == vid))
  let shared := owners.any (fun o => o.1 != c && o.2.2.exported && o.2.2.barrier == e.barrier)
  let held := s.sharers e.die - b2n (old.any (fun o => !o.own && o.die == e.die))
  firstRefusal
    [(!entryWordOk v, .invalidWord),
     (valid && !e.own && !shared, .range),
     (old.any (s.entryUsed c vid), .busy),
     (valid && e.own && !others.isEmpty, .busy),
     (valid && !e.own && decide (4096 ≤ held), .busy)]

/-- A claimed hitch starts ACTIVE with nothing in it; one that is poisoned stays so until it is unmapped (R210). -/
def Dev.claim (s : Dev) (c : Nat) (e : HEntry) : Dev :=
  if (s.hitch e.key).st == .poisoned then s
  else s.setHitch e.key { st := .active, owner := c, barrier := e.barrier, parts := e.thresh1.toNat + 1 }

/-- An accepted map write. -/
def Dev.mapSet (s : Dev) (c vid v : Nat) : Dev :=
  let (e, valid) := parseEntry v
  let s := match s.mapEntry c vid with
    | some o => if o.own && !(valid && e.own && o.key == e.key) then s.setHitch o.key {} else s
    | none => s
  if valid then
    let s := s.modCtx c (fun x => { x with hmap := Tab.set x.hmap vid e })
    if e.own then s.claim c e else s
  else s.modCtx c (fun x => { x with hmap := Tab.del x.hmap vid })

def Dev.syncStatus (s : Dev) (st : Status) : Dev := { s with sync := { s.sync with status := st.byte } }

def Dev.mapWrite (s : Dev) (v : U64) : Dev :=
  if s.sync.pend then s
  else
    let c := s.sync.selCtx.toNat
    let vid := s.sync.selVid.toNat
    let st := s.mapStatus c vid v.toNat
    (if st == .done then s.mapSet c vid v.toNat else s).syncStatus st

def execMapWrite (entry : U64) (s : State) : Host.Outcome State Fault Refusal :=
  s.onBar (fun d => d.mapWrite entry)

/-! ## SYNC_HITCH_OP (R212) -/

/-- An operation on the selected hitch: refused on an unmapped entry, otherwise performed with a status.
DEDUCED, log entry 67. -/
def Dev.hitchOp (s : Dev) (refuse : HEntry → Option Status) (act : Dev → Nat → HEntry → Dev) : Dev :=
  if s.sync.pend then s
  else
    let c := s.sync.selCtx.toNat
    match s.mapEntry c s.sync.selVid.toNat with
    | none => s.syncStatus .range
    | some e =>
      match refuse e with
      | some st => s.syncStatus st
      | none => (act s c e).syncStatus .done

/-- DEDUCED, log entry 67. -/
def execHostSignal (n : U32) (s : State) : Host.Outcome State Fault Refusal :=
  s.onBar (fun d => d.hitchOp (fun e => failIf e.barrier .invalidWord)
    (fun d c e => d.runJobs [.raise c e.key n.toNat]))

/-- SET on a barrier group: a new generation, no entries; the words cleared retire unsignalled. -/
def Dev.setBarrier (s : Dev) (key : Nat) (g : U16) : Dev :=
  let h := s.hitch key
  let s := h.entries.foldl (Dev.latchStall key) s
  let s := s.setHitch key { h with st := .active, gen := g, entries := [], disc := [] }
  (h.entries.foldl Dev.endBarrierWord s).runJobs (h.entries.map (fun e => Job.sweep e.c e.t))

def Dev.setHitchOp (s : Dev) (key : Nat) (n : U32) : Dev :=
  let h := s.hitch key
  if h.barrier then s.setBarrier key (n.truncate 16)
  else (s.setHitch key { h with st := .active, count := n, disc := [] }).runJobs [.serve key]

def execSet (n : U32) (s : State) : Host.Outcome State Fault Refusal :=
  s.onBar (fun d => d.hitchOp (fun e => failIf ((d.hitch e.key).st == .poisoned) .ownerLost)
    (fun d _ e => d.setHitchOp e.key n))

def execPoison (s : State) : Host.Outcome State Fault Refusal :=
  s.onBar (fun d => d.hitchOp (fun _ => none) (fun d _ e => d.poisonHitch e.key))

end Sys2Proof.Machine
end

