-- ==== Sys2Proof/Machine/RegMap.lean ====
section
/-! DEFINITION. The set-up registers by BAR0 address (R404, Tables 17.1 and 17.2). -/
namespace Sys2Proof.Machine
open Sys2Proof

/-- A set-up register; `w` is the word of one that spans two. -/
inductive Reg where
  -- HIF
  | hifLink | hifOpStatus
  | hifCtxCfg (c : Nat) | hifRing (c r w : Nat) | hifRingPtr (c r : Nat) | hifCtxEvents (c : Nat)
  | hifHostacc (c i w : Nat) | hifCtxCtl (c : Nat)
  -- PWR
  | pwrRail | pwrDomCtl | pwrOpStatus | pwrPace | pwrBeats | pwrMon | pwrPlimit | pwrTherm | pwrDomState (d : Nat)
  -- RST
  | rstCtl | rstCause | rstBlk | rstBlkStatus
  -- TIME
  | timeNow | timeFrac | timeSet | timeOpStatus | timeState | timeFreq | timeCfg | timeBridle (w : Nat) | timeLat
  | timePps | timePpsTs | timeEvents
  -- FAB
  | fabTeam | fabTeamId | fabLinkSel | fabLinkState | fabLinkErr | fabOpStatus | fabOpTimeout | fabTimeState | fabDrop
  | fabGangCfg (g : Nat) | fabEvents (c : Nat) | fabWin (c i w : Nat)
  -- MEM
  | memOpStatus | memPool | memChSel | memChState | memEcc | memScrub | memAllot (c : Nat) | memStg (c d : Nat)
  -- SYNC
  | syncMapSel | syncMapEntry | syncHitchOp | syncOpStatus | syncHitchState | syncEvents (c : Nat)
  -- DISP
  | dispPageSel | dispPageState | dispDbErrors (c : Nat)
  -- MTX, VEC
  | mtxTileSel | mtxPartState | mtxFaultLog | mtxEccCorr
  | vecTileSel | vecBankRec | vecEvents
  -- SFU
  | sfuTileSel | sfuTblState | sfuLoadSrc | sfuLoadTmask (i : Nat) | sfuLoadCtl | sfuLoadStatus | sfuEvents
  -- LAY
  | layTileSel | layEvents | layTilePos | layDtab (c : Nat)
  -- GRX
  | grxBktCtl | grxOpStatus | grxBktState | grxBtab (c : Nat) | grxEvents (c w : Nat)
  -- UPD
  | updBlkCtl | updOpStatus | updList (c w : Nat) | updNormCfg (c w : Nat) | updRootCfg (c w : Nat) | updTabs (c w : Nat)
  | updListState (c : Nat) | updEvents (c : Nat)
  -- TEL
  | telExcFlags (c : Nat)
  -- SEC
  | secState | secOp (w : Nat) | secOpStatus | secAttkey (i : Nat)
  -- FARR
  | farrCtl | farrOpStatus | farrState | farrShort | farrMount | farrCtx (c : Nat)
  deriving DecidableEq, Repr

/-- Index of an offset in an array of `n` registers of a stride, from `base` on.
DEDUCED, log entry 35. -/
def arrIdx (off base stride n : Nat) : Option Nat :=
  if base ≤ off ∧ off < base + stride * n ∧ (off - base) % stride = 0 then some ((off - base) / stride) else none

/-- The first of several answers. -/
def firstSome : List (Option Reg) → Option Reg
  | [] => none
  | some r :: _ => some r
  | none :: xs => firstSome xs

/-- Registers that an offset may name alone. -/
def fixedReg (xs : List (Nat × Reg)) (off : Nat) : Option Reg := (xs.find? (fun e => e.1 == off)).map Prod.snd

def hifReg (o : Nat) : Option Reg :=
  firstSome
    [fixedReg [(0x0, .hifLink), (0x8, .hifOpStatus)] o,
     (arrIdx o 0x100 8 64).map Reg.hifCtxCfg,
     (arrIdx o 0x1000 8 512).map (fun i => .hifRing (i / 8) (i / 2 % 4) (i % 2)),
     (arrIdx o 0x2000 8 256).map (fun i => .hifRingPtr (i / 4) (i % 4)),
     (arrIdx o 0x2800 8 64).map Reg.hifCtxEvents,
     (arrIdx o 0x3000 8 1024).map (fun i => .hifHostacc (i / 16) (i / 2 % 8) (i % 2)),
     (arrIdx o 0x5000 8 64).map Reg.hifCtxCtl]

def pwrReg (o : Nat) : Option Reg :=
  firstSome
    [fixedReg [(0x0, .pwrRail), (0x8, .pwrDomCtl), (0x10, .pwrOpStatus), (0x18, .pwrPace), (0x20, .pwrBeats),
       (0x28, .pwrMon), (0x30, .pwrPlimit), (0x38, .pwrTherm)] o,
     (arrIdx o 0x100 8 80).map Reg.pwrDomState]

def rstReg (o : Nat) : Option Reg :=
  fixedReg [(0x0, .rstCtl), (0x8, .rstCause), (0x10, .rstBlk), (0x18, .rstBlkStatus)] o

def timeReg (o : Nat) : Option Reg :=
  fixedReg [(0x0, .timeNow), (0x8, .timeFrac), (0x10, .timeSet), (0x18, .timeOpStatus), (0x20, .timeState),
    (0x28, .timeFreq), (0x30, .timeCfg), (0x38, .timeBridle 0), (0x40, .timeBridle 1), (0x48, .timeLat), (0x50, .timePps),
    (0x58, .timePpsTs), (0x60, .timeEvents)] o

def fabReg (o : Nat) : Option Reg :=
  firstSome
    [fixedReg [(0x0, .fabTeam), (0x8, .fabTeamId), (0x10, .fabLinkSel), (0x18, .fabLinkState), (0x20, .fabLinkErr),
       (0x28, .fabOpStatus), (0x30, .fabOpTimeout), (0x38, .fabTimeState), (0x40, .fabDrop)] o,
     (arrIdx o 0x100 8 8).map Reg.fabGangCfg,
     (arrIdx o 0x200 8 64).map Reg.fabEvents,
     (arrIdx o 0x1000 8 2048).map (fun i => .fabWin (i / 32) (i / 2 % 16) (i % 2))]

def memReg (o : Nat) : Option Reg :=
  firstSome
    [fixedReg [(0x0, .memOpStatus), (0x8, .memPool), (0x10, .memChSel), (0x18, .memChState), (0x20, .memEcc),
       (0x28, .memScrub)] o,
     (arrIdx o 0x100 8 64).map Reg.memAllot,
     (arrIdx o 0x300 8 128).map (fun i => .memStg (i / 2) (i % 2))]

def syncReg (o : Nat) : Option Reg :=
  firstSome
    [fixedReg [(0x0, .syncMapSel), (0x8, .syncMapEntry), (0x10, .syncHitchOp), (0x18, .syncOpStatus),
       (0x20, .syncHitchState)] o,
     (arrIdx o 0x100 8 64).map Reg.syncEvents]

def dispReg (o : Nat) : Option Reg :=
  firstSome [fixedReg [(0x0, .dispPageSel), (0x8, .dispPageState)] o, (arrIdx o 0x100 8 64).map Reg.dispDbErrors]

def mtxReg (o : Nat) : Option Reg :=
  fixedReg [(0x0, .mtxTileSel), (0x8, .mtxPartState), (0x10, .mtxFaultLog), (0x18, .mtxEccCorr)] o

def vecReg (o : Nat) : Option Reg := fixedReg [(0x0, .vecTileSel), (0x8, .vecBankRec), (0x10, .vecEvents)] o

def sfuReg (o : Nat) : Option Reg :=
  fixedReg [(0x0, .sfuTileSel), (0x8, .sfuTblState), (0x10, .sfuLoadSrc), (0x18, .sfuLoadTmask 0), (0x20, .sfuLoadTmask 1),
    (0x28, .sfuLoadCtl), (0x30, .sfuLoadStatus), (0x38, .sfuEvents)] o

def layReg (o : Nat) : Option Reg :=
  firstSome [fixedReg [(0x0, .layTileSel), (0x8, .layEvents), (0x10, .layTilePos)] o, (arrIdx o 0x100 8 64).map Reg.layDtab]

def grxReg (o : Nat) : Option Reg :=
  firstSome
    [fixedReg [(0x0, .grxBktCtl), (0x8, .grxOpStatus), (0x10, .grxBktState)] o,
     (arrIdx o 0x100 8 64).map Reg.grxBtab,
     (arrIdx o 0x400 8 128).map (fun i => .grxEvents (i / 2) (i % 2))]

def updReg (o : Nat) : Option Reg :=
  firstSome
    [fixedReg [(0x0, .updBlkCtl), (0x8, .updOpStatus)] o,
     (arrIdx o 0x400 8 128).map (fun i => .updList (i / 2) (i % 2)),
     (arrIdx o 0x800 8 128).map (fun i => .updNormCfg (i / 2) (i % 2)),
     (arrIdx o 0xC00 8 128).map (fun i => .updRootCfg (i / 2) (i % 2)),
     (arrIdx o 0x1000 8 128).map (fun i => .updTabs (i / 2) (i % 2)),
     (arrIdx o 0x1400 8 64).map Reg.updListState,
     (arrIdx o 0x1600 8 64).map Reg.updEvents]

def telReg (o : Nat) : Option Reg := (arrIdx o 0x200 8 64).map Reg.telExcFlags

def secReg (o : Nat) : Option Reg :=
  firstSome
    [fixedReg [(0x0, .secState), (0x8, .secOp 0), (0x10, .secOp 1), (0x18, .secOpStatus)] o,
     (arrIdx o 0x100 8 4).map Reg.secAttkey]

def farrReg (o : Nat) : Option Reg :=
  firstSome
    [fixedReg [(0x0, .farrCtl), (0x8, .farrOpStatus), (0x10, .farrState), (0x18, .farrShort), (0x20, .farrMount)] o,
     (arrIdx o 0x100 8 64).map Reg.farrCtx]

/-- The register at a BAR0 address that is a multiple of 8; none where no field table assigns one.
DEDUCED, log entry 35. -/
def regOf (a : Nat) : Option Reg :=
  let o := a % 65536
  match a / 65536 with
  | 0x0 => hifReg o | 0x1 => pwrReg o | 0x2 => rstReg o | 0x3 => timeReg o | 0x4 => fabReg o | 0x5 => memReg o
  | 0x6 => syncReg o | 0x7 => dispReg o | 0x8 => mtxReg o | 0x9 => vecReg o | 0xA => sfuReg o | 0xB => layReg o
  | 0xC => grxReg o | 0xD => updReg o | 0xE => telReg o | 0xF => secReg o | 0x10 => farrReg o
  | _ => none

/-- The windows that decode in recovery (R398): RST and SEC. -/
def inRecoveryWindow (a : Nat) : Bool := a / 65536 == 0x2 || a / 65536 == 0xF

/-- Registers with a single field across bit 32, whose high half a 32-bit read of the low half latches (R406). -/
def Reg.latches : Reg → Bool
  | .timeNow | .timeSet | .timePpsTs | .pwrBeats | .fabTeamId | .sfuLoadSrc | .sfuLoadTmask _ | .syncMapEntry
  | .secAttkey _ => true
  | _ => false

end Sys2Proof.Machine
end

