-- ==== Sys2Proof/Machine/Crypto.lean ====
section
/-! DEFINITION. SHA-512 (FIPS 180-4) and the verification of Ed25519 signatures (RFC 8032), which R394, R396,
R400 and R402 name. -/
namespace Sys2Proof.Machine
open Sys2Proof

/-! ## SHA-512 -/

/-- Round constants: fractions of the cube roots of the first 80 primes. -/
def shaK0 : List U64 := [
   0x428A2F98D728AE22, 0x7137449123EF65CD, 0xB5C0FBCFEC4D3B2F, 0xE9B5DBA58189DBBC,
   0x3956C25BF348B538, 0x59F111F1B605D019, 0x923F82A4AF194F9B, 0xAB1C5ED5DA6D8118,
   0xD807AA98A3030242, 0x12835B0145706FBE, 0x243185BE4EE4B28C, 0x550C7DC3D5FFB4E2,
   0x72BE5D74F27B896F, 0x80DEB1FE3B1696B1, 0x9BDC06A725C71235, 0xC19BF174CF692694]
def shaK1 : List U64 := [
   0xE49B69C19EF14AD2, 0xEFBE4786384F25E3, 0x0FC19DC68B8CD5B5, 0x240CA1CC77AC9C65,
   0x2DE92C6F592B0275, 0x4A7484AA6EA6E483, 0x5CB0A9DCBD41FBD4, 0x76F988DA831153B5,
   0x983E5152EE66DFAB, 0xA831C66D2DB43210, 0xB00327C898FB213F, 0xBF597FC7BEEF0EE4,
   0xC6E00BF33DA88FC2, 0xD5A79147930AA725, 0x06CA6351E003826F, 0x142929670A0E6E70]
def shaK2 : List U64 := [
   0x27B70A8546D22FFC, 0x2E1B21385C26C926, 0x4D2C6DFC5AC42AED, 0x53380D139D95B3DF,
   0x650A73548BAF63DE, 0x766A0ABB3C77B2A8, 0x81C2C92E47EDAEE6, 0x92722C851482353B,
   0xA2BFE8A14CF10364, 0xA81A664BBC423001, 0xC24B8B70D0F89791, 0xC76C51A30654BE30,
   0xD192E819D6EF5218, 0xD69906245565A910, 0xF40E35855771202A, 0x106AA07032BBD1B8]
def shaK3 : List U64 := [
   0x19A4C116B8D2D0C8, 0x1E376C085141AB53, 0x2748774CDF8EEB99, 0x34B0BCB5E19B48A8,
   0x391C0CB3C5C95A63, 0x4ED8AA4AE3418ACB, 0x5B9CCA4F7763E373, 0x682E6FF3D6B2B8A3,
   0x748F82EE5DEFB2FC, 0x78A5636F43172F60, 0x84C87814A1F0AB72, 0x8CC702081A6439EC,
   0x90BEFFFA23631E28, 0xA4506CEBDE82BDE9, 0xBEF9A3F7B2C67915, 0xC67178F2E372532B]
def shaK4 : List U64 := [
   0xCA273ECEEA26619C, 0xD186B8C721C0C207, 0xEADA7DD6CDE0EB1E, 0xF57D4F7FEE6ED178,
   0x06F067AA72176FBA, 0x0A637DC5A2C898A6, 0x113F9804BEF90DAE, 0x1B710B35131C471B,
   0x28DB77F523047D84, 0x32CAAB7B40C72493, 0x3C9EBE0A15C9BEBC, 0x431D67C49C100D4C,
   0x4CC5D4BECB3E42B6, 0x597F299CFC657E2A, 0x5FCB6FAB3AD6FAEC, 0x6C44198C4A475817]
def shaK : List U64 := shaK0 ++ shaK1 ++ shaK2 ++ shaK3 ++ shaK4

/-- Initial hash value: fractions of the square roots of the first 8 primes. -/
def shaInit : List U64 := [
   0x6A09E667F3BCC908, 0xBB67AE8584CAA73B, 0x3C6EF372FE94F82B, 0xA54FF53A5F1D36F1,
   0x510E527FADE682D1, 0x9B05688C2B3E6C1F, 0x1F83D9ABFB41BD6B, 0x5BE0CD19137E2179]

/-- The big-endian number a list of bytes spells. -/
def beNat (bs : List Byte) : Nat := bs.foldl (fun n b => n * 256 + b.toNat) 0
/-- The same number of `n` bytes, big-endian. -/
def beBytes (n x : Nat) : List Byte := (leBytes n x).reverse

/-- The message with its padding: a multiple of 128 bytes. -/
def shaPad (bs : List Byte) : List Byte :=
  let z := (128 - (bs.length + 17) % 128) % 128
  bs ++ [0x80] ++ zeros z ++ beBytes 16 (8 * bs.length)

/-- The message schedule, newest word first, from the 16 words of a block. -/
def shaSchedule : Nat → List U64 → List U64
  | 0, w => w
  | n + 1, w =>
    let a := w.getD 14 0
    let b := w.getD 1 0
    let s0 := a.rotateRight 1 ^^^ a.rotateRight 8 ^^^ (a >>> 7)
    let s1 := b.rotateRight 19 ^^^ b.rotateRight 61 ^^^ (b >>> 6)
    shaSchedule n ((w.getD 15 0 + s0 + w.getD 6 0 + s1) :: w)

/-- One round on the eight working words. -/
def shaRound (v : List U64) (kw : U64 × U64) : List U64 :=
  match v with
  | [a, b, c, d, e, f, g, h] =>
    let t1 := h + (e.rotateRight 14 ^^^ e.rotateRight 18 ^^^ e.rotateRight 41) + ((e &&& f) ^^^ (~~~e &&& g)) + kw.1 + kw.2
    let t2 := (a.rotateRight 28 ^^^ a.rotateRight 34 ^^^ a.rotateRight 39) + ((a &&& b) ^^^ (a &&& c) ^^^ (b &&& c))
    [t1 + t2, a, b, c, d + t1, e, f, g]
  | v => v

/-- One block folded into the hash value. -/
def shaBlock (h : List U64) (block : List Byte) : List U64 :=
  let w := (List.range 16).map (fun i => BitVec.ofNat 64 (beNat ((block.drop (8 * i)).take 8)))
  let ws := (shaSchedule 64 w.reverse).reverse
  let v := (shaK.zip ws).foldl shaRound h
  (h.zip v).map (fun e => e.1 + e.2)

/-- Blocks of 128 bytes taken in order. -/
def shaBlocks : Nat → List U64 → List Byte → List U64
  | 0, h, _ => h
  | n + 1, h, bs => shaBlocks n (shaBlock h (bs.take 128)) (bs.drop 128)

/-- SHA-512 of a list of bytes, 64 bytes.
PRESUMED, log entry 15. -/
def sha512 (bs : List Byte) : List Byte :=
  let p := shaPad bs
  (shaBlocks (p.length / 128) shaInit p).flatMap (fun w => beBytes 8 w.toNat)

/-! ## Ed25519 -/

/-- The field prime and the order of the base point. -/
def edP : Nat := 2 ^ 255 - 19
def edL : Nat := 2 ^ 252 + 27742317777372353535851937790883648493

/-- b^e mod p, over the lowest `n` bits of e. -/
def powMod : Nat → Nat → Nat → Nat
  | 0, _, _ => 1
  | n + 1, b, e =>
    let r := powMod n (b * b % edP) (e / 2)
    if e % 2 = 1 then b * r % edP else r

def edInv (x : Nat) : Nat := powMod 255 x (edP - 2)
def edSub (x y : Nat) : Nat := (x + edP - y) % edP
/-- The curve constant −121665/121666. -/
def edD : Nat := (edP - 121665) * edInv 121666 % edP

/-- A point in extended coordinates. -/
structure EdPoint where
  x : Nat
  y : Nat
  z : Nat
  t : Nat
  deriving DecidableEq, Repr

def EdPoint.zero : EdPoint := ⟨0, 1, 1, 0⟩

def EdPoint.add (d : Nat) (p q : EdPoint) : EdPoint :=
  let a := edSub p.y p.x * edSub q.y q.x % edP
  let b := (p.y + p.x) * (q.y + q.x) % edP
  let c := 2 * p.t * q.t * d % edP
  let dd := 2 * p.z * q.z % edP
  let e := edSub b a
  let f := edSub dd c
  let g := (dd + c) % edP
  let h := (b + a) % edP
  ⟨e * f % edP, g * h % edP, f * g % edP, e * h % edP⟩

/-- k · P over the lowest `n` bits of k. -/
def EdPoint.mul (d : Nat) : Nat → Nat → EdPoint → EdPoint
  | 0, _, _ => EdPoint.zero
  | n + 1, k, p =>
    let r := EdPoint.mul d n (k / 2) (EdPoint.add d p p)
    if k % 2 = 1 then EdPoint.add d p r else r

def EdPoint.same (p q : EdPoint) : Bool :=
  p.x * q.z % edP == q.x * p.z % edP && p.y * q.z % edP == q.y * p.z % edP

/-- The x coordinate of a point from y and its sign bit; `none` when there is none. -/
def edRecover (d y sign : Nat) : Option Nat :=
  if edP ≤ y then none
  else
    let u := edSub (y * y % edP) 1
    let v := (d * (y * y % edP) + 1) % edP
    let v3 := v * v * v % edP
    let v7 := v3 * v3 * v % edP
    let x := u * v3 * powMod 255 (u * v7 % edP) ((edP - 5) / 8) % edP
    let vx := v * x * x % edP
    let r := if vx = u then some x
             else if vx = edSub 0 u % edP then some (x * powMod 255 2 ((edP - 1) / 4) % edP)
             else none
    match r with
    | none => none
    | some x => if x = 0 && sign = 1 then none else some (if x % 2 = sign then x else edSub 0 x)

/-- A point from its 32 bytes. -/
def edDecode (d : Nat) (bs : List Byte) : Option EdPoint :=
  let n := leNat (bs.take 32)
  let y := n % 2 ^ 255
  (edRecover d y (n / 2 ^ 255)).map (fun x => ⟨x, y, 1, x * y % edP⟩)

/-- The base point, y = 4/5. -/
def edBase (d : Nat) : EdPoint :=
  let y := 4 * edInv 5 % edP
  let x := (edRecover d y 0).getD 0
  ⟨x, y, 1, x * y % edP⟩

/-- The signature of 64 bytes verifies under the public key over the message (RFC 8032, 5.1.7).
PRESUMED, log entry 15. -/
def edVerify (key : BitVec 256) (msg sig : List Byte) : Bool :=
  let d := edD
  let kb := leBytes 32 key.toNat
  let s := leNat ((sig.drop 32).take 32)
  match edDecode d kb, edDecode d (sig.take 32) with
  | some a, some r =>
    let k := leNat (sha512 (sig.take 32 ++ kb ++ msg)) % edL
    decide (sig.length = 64) && decide (s < edL) &&
      EdPoint.same (EdPoint.mul d 4 8 (EdPoint.mul d 253 s (edBase d)))
        (EdPoint.mul d 4 8 (EdPoint.add d r (EdPoint.mul d 253 k a)))
  | _, _ => false

/-- A signature of chapter 16: over the SHA-512 digest of the signed bytes. -/
def signedBy (key : BitVec 256) (bytes sig : List Byte) : Bool := edVerify key (sha512 bytes) sig

end Sys2Proof.Machine
end

