-- ==== Sys2Proof/Machine/Power.lean ====
section
/-! DEFINITION. Power (chapter 15): the core rail and its ramp (R369), the power domains (R370 to R374), pace
counters (R376), regulator readings (R378) and the alarm (R379). The thermal trip is in Reset.lean. -/
namespace Sys2Proof.Machine
open Sys2Proof

def Dev.pwrStatus (s : Dev) (st : Status) : Dev := { s with pwr := { s.pwr with status := st.byte } }

/-! ## The core rail (R369) -/

/-- Set points that a write may name (R369). -/
def targetStatus (v : Nat) : Status :=
  firstRefusal [(v % 5 != 0, .invalidWord), (decide (v < 645) || decide (835 < v), .range)]

/-- A write to PWR_RAIL starts a ramp from the last confirmed step; one to the set point in force is done.
DEDUCED, log entry 98. -/
def Dev.railWrite (s : Dev) (v : U64) : Dev :=
  let t := v.toNat % 4096
  if s.pwr.pend then s
  else if targetStatus t = Status.done then
    let p := { s.pwr with target := BitVec.ofNat 12 t, proposed := none }
    if p.actual == p.target then ({ s with pwr := { p with ramp := false } } : Dev).pwrStatus .done
    else { s with pwr := { p with ramp := true } }
  else s.pwrStatus (targetStatus t)

def execPwrRailWrite (v : U64) (s : State) : Host.Outcome State Fault Refusal :=
  s.onBar (fun d => d.railWrite v)

/-- One step of 5 mV toward the target, at most. -/
def stepToward (x t : BitVec 12) : BitVec 12 :=
  if x.toNat < t.toNat then BitVec.ofNat 12 (min (x.toNat + 5) t.toNat)
  else BitVec.ofNat 12 (max (x.toNat - 5) t.toNat)

/-- The island proposes the next step of the ramp. -/
def Dev.rampStep (s : Dev) : Dev :=
  let p := s.pwr
  if !p.ramp then s
  else { s with pwr := { p with proposed := some (stepToward (p.proposed.getD p.actual) p.target) } }

def execRampStep (s : State) : Host.Outcome State Fault Refusal := s.onDev Dev.rampStep

/-- The regulator confirms the step proposed; the final one ends the ramp. -/
def Dev.regulatorConfirm (s : Dev) : Dev :=
  let p := s.pwr
  match p.proposed with
  | none => s
  | some x =>
    if x = p.target then ({ s with pwr := { p with actual := x, proposed := none, ramp := false } } : Dev).pwrStatus .done
    else { s with pwr := { p with actual := x, proposed := none } }

def execRegulatorConfirm (s : State) : Host.Outcome State Fault Refusal := s.onDev Dev.regulatorConfirm

/-- The final step was not confirmed in time. -/
def Dev.rampTimeout (s : Dev) : Dev :=
  let p := s.pwr
  if p.ramp && p.proposed == some p.target then
    ({ s with pwr := { p with ramp := false, proposed := none } } : Dev).pwrStatus .internal
  else s

def execRampTimeout (s : State) : Host.Outcome State Fault Refusal := s.onDev Dev.rampTimeout

/-! ## Power domains (R370 to R374) -/

def Dev.dom (s : Dev) (d : Nat) : Dom := Tab.get {} s.pwr.doms d
def Dev.setDom (s : Dev) (d : Nat) (x : Dom) : Dev := { s with pwr := { s.pwr with doms := Tab.set s.pwr.doms d x } }

/-- The contexts with a logical tile on a physical tile. -/
def Dev.usersOf (s : Dev) (p : Nat) : List Nat := (s.ctxs.filter (fun x => x.2.backs.any (fun b => b.2 == p))).map Prod.fst

/-- A physical tile runs a root job (R306). -/
def Dev.runsRoot (s : Dev) (p : Nat) : Bool :=
  s.ctxs.any (fun x => x.2.upd.jobs.any (fun j =>
    j.ended.isNone && j.tile.any (fun k => Tab.find x.2.backs (listGet x.2.rootTiles k) == some p)))

/-- The work that a domain's leaving would stop. -/
def Dev.domBusy (s : Dev) (d : Nat) : Bool :=
  if d < 68 then
    [2 * d, 2 * d + 1].any (fun p => (s.usersOf p).any (fun c => !s.idle c) || s.runsRoot p)
  else if d < 76 then allCtx.any (fun c => !s.idle c)
  else false

/-- The status of a request to put domain `d` in state `to` (R371).
DEDUCED, log entry 98. -/
def Dev.domStatus (s : Dev) (d : Nat) (toSt : DomState) : Status :=
  if 80 ≤ d then .range
  else if (s.dom d).st = toSt || toSt = DomState.running then .done
  else firstRefusal [(decide (d < 68) && s.farr.repair, .busy), (s.domBusy d, .notIdle)]

/-- A link of a domain that leaves the running state: in Rest its training state is kept, and it goes on from
RETRAIN; in Stand it is lost (Table 15.3).
DEDUCED, log entry 99. -/
def Dev.idleLink (toSt : DomState) (s : Dev) (l : Nat) : Dev :=
  if toSt = DomState.stand then s.linkDown l
  else if (s.link l).st == .active then (s.setLink l { s.link l with st := .retrain }).giveUp l
  else s

/-- A transition begins: the domain leaves the state it holds. -/
def Dev.beginDom (s : Dev) (d : Nat) (toSt : DomState) : Dev :=
  let s := s.setDom d { s.dom d with toSt := some toSt }
  let s := { s with pwr := { s.pwr with pend := true } }
  if 76 ≤ d && toSt ≠ DomState.running then
    ((List.range 8).map (fun i => 8 * (d - 76) + i)).foldl (Dev.idleLink toSt) s
  else s

/-- STAND, REST or RUN of PWR_DOM_CTL. -/
def Dev.domOp (s : Dev) (d : BitVec 7) (toSt : DomState) : Dev :=
  if s.pwr.pend then s
  else
    let st := s.domStatus d.toNat toSt
    let s := { s with pwr := { s.pwr with domSel := if st = Status.done then d else s.pwr.domSel } }
    if st = Status.done && (s.dom d.toNat).st ≠ toSt then s.beginDom d.toNat toSt else s.pwrStatus st

def execStand (d : BitVec 7) (s : State) : Host.Outcome State Fault Refusal := s.onBar (fun x => x.domOp d .stand)
def execRest (d : BitVec 7) (s : State) : Host.Outcome State Fault Refusal := s.onBar (fun x => x.domOp d .rest)
def execRun (d : BitVec 7) (s : State) : Host.Outcome State Fault Refusal := s.onBar (fun x => x.domOp d .running)

/-- A spare that fails its self-test is retired (R322). The test raises no fault; a substitution that waited for the
die's last spare enters the short-team state (R323). -/
def Dev.testSpare (pass : Nat → Bool) (s : Dev) (p : Nat) : Dev :=
  if (s.ptile p).role == .spare && !pass p then (s.dropTile p).giveUpSpares else s

/-- The state of a tile whose domain has been off (R321, Table 15.3).
DEDUCED, log entry 99. -/
def Dev.wipeTile (s : Dev) (p : Nat) : Dev :=
  let x := s.ptile p
  s.setPtile p { x with tile := x.tile.fresh }

/-- The pool is filled with zeros (R222 step 4). -/
def Dev.zeroPool (s : Dev) : Dev := { s with mem := { s.mem with pool := [], poison := [], latent := [] } }

/-- What the end of a transition of domain `d` from `old` to `new` does (Table 15.3). -/
def Dev.endDom (s : Dev) (d : Nat) (old new : DomState) (sparePass : BitVec 2) : Dev :=
  if d < 68 then
    let s := if new = DomState.stand then (s.wipeTile (2 * d)).wipeTile (2 * d + 1) else s
    if old = DomState.stand && new = DomState.running then
      [2 * d, 2 * d + 1].foldl (Dev.testSpare (fun p => sparePass.getLsbD (p % 2))) s
    else s
  else if d < 76 then
    let s := { s with pwr := { s.pwr with hbmLost := s.pwr.hbmLost || decide (new = DomState.stand) } }
    if s.pwr.hbmLost && s.hbmRunning then
      { s.zeroPool with pwr := { s.pwr with hbmLost := false } }
    else s
  else s

/-- A domain transition completes. -/
def Dev.domEnd (s : Dev) (d : Nat) (sparePass : BitVec 2) : Dev :=
  let x := s.dom d
  match x.toSt with
  | none => s
  | some new =>
    let s := s.setDom d { st := new, toSt := none, trans := satAdd x.trans 1 }
    let s := { s with pwr := { s.pwr with pend := false } }
    (s.pwrStatus .done).endDom d x.st new sparePass

def execDomainTransitionEnd (d : Fin 80) (sparePass : BitVec 2) (s : State) : Host.Outcome State Fault Refusal :=
  s.onDev (fun x => x.domEnd d.val sparePass)

/-! ## Readings (R376, R378, R379) -/

/-- The pace counters of both dies, and the beats of the slower one, over a millisecond. -/
def Dev.paceUpdate (s : Dev) (near off : U16) (beats : U64) : Dev :=
  let p := s.pwr
  { s with pwr := { p with
    pace0 := near, pace1 := off, beats := p.beats + beats
    pmin := BitVec.ofNat 16 (min p.pmin.toNat (min near.toNat off.toNat)) } }

def execPaceUpdate (near off : U16) (beats : U64) (s : State) : Host.Outcome State Fault Refusal :=
  s.onDev (fun d => d.paceUpdate near off beats)

def Dev.regulatorPoll (s : Dev) (power icore : U16) (vcore : BitVec 12) : Dev :=
  let p := s.pwr
  { s with pwr := { p with
    power := power, icore := icore, vcore := vcore, isOver := p.isOver || decide (p.plimit.toNat < power.toNat) } }

def execRegulatorPoll (power icore : U16) (vcore : BitVec 12) (s : State) : Host.Outcome State Fault Refusal :=
  s.onDev (fun d => d.regulatorPoll power icore vcore)

/-- The hottest of the readings and its sensor, the lowest on equality.
DEDUCED, log entry 100. -/
def hottest (xs : List (Nat × U16)) : Option (Nat × U16) :=
  xs.foldl (fun b x =>
    match b with
    | none => some x
    | some y => if y.2.toInt < x.2.toInt then some x else b) none

/-- 115 °C in units of 1/8 °C. -/
def tripPoint : Int := 920

/-- PWR_THERM after a reading of the sensors. -/
def Dev.thermRead (s : Dev) (xs : List (Nat × U16)) : Dev :=
  match hottest xs with
  | none => s
  | some (n, t) =>
    let p := s.pwr
    { s with pwr := { p with
      tjMax := t, sensor := BitVec.ofNat 8 n, alarm := p.alarm || decide (p.thresh.toInt ≤ t.toInt)
      hot := (xs.filter (fun x => decide (tripPoint ≤ x.2.toInt))).map Prod.fst } }

end Sys2Proof.Machine
end

