-- ==== Sys2Proof/Machine/Boot.lean ====
section
/-! DEFINITION. The option store (R394), the firmware image (R396) and the release order (R390, Table 16.3). -/
namespace Sys2Proof.Machine
open Sys2Proof

/-! ## Option store (Tables 16.7 to 16.9) -/

/-- The option state that records build: applied options, and records skipped. -/
structure OptRun where
  opts : Opts := {}
  skipped : Nat := 0
  /-- The vendor key that the records verify under. -/
  vendor : BitVec 256
  deriving DecidableEq, Repr

/-- Signatures that a SIGNER code calls for. -/
def signerCount (signer : Nat) : Nat := if signer = 3 then 2 else if signer = 1 || signer = 2 then 1 else 0

/-- The SIGNER that a record type requires under the present key (Table 16.9); `none` for an unknown type or
one that no signer satisfies.
DEDUCED, log entry 105. -/
def signerFor (type : Nat) (key : Option (BitVec 256)) : Option Nat :=
  match type, key with
  | 1, none => some 1
  | 1, some _ => some 3
  | 2, some _ => some 3
  | 3, none => some 1
  | 3, some _ => some 2
  | 4, none => some 1
  | 4, some _ => some 2
  | _, _ => none

/-- The body has the length of its type, and its reserved fields are zero. -/
def optBodyOk (type : Nat) (body : List Byte) : Bool :=
  match type with
  | 1 => body.length == 32
  | 2 => body.isEmpty
  | 3 => body.length == 16 && (body.take 9).all (fun b => decide (b.toNat < 128)) && (body.drop 9).all (· == 0)
  | 4 => body.length == 8 && decide (leNat body < 2)
  | _ => false

/-- Each signature of a record verifies under the key of its place.
DEDUCED, log entry 105. -/
def optSigned (signer : Nat) (vkey : BitVec 256) (key : Option (BitVec 256)) (signed sigs : List Byte) : Bool :=
  let vendor (s : List Byte) : Bool := signedBy vkey signed s
  let oper (s : List Byte) : Bool := match key with | some k => signedBy k signed s | none => false
  match signer with
  | 1 => vendor (sigs.take 64)
  | 2 => oper (sigs.take 64)
  | 3 => vendor (sigs.take 64) && oper ((sigs.drop 64).take 64)
  | _ => false

/-- One record applied to the shadow. -/
def Opts.apply (o : Opts) (type : Nat) (body raw : List Byte) : Opts :=
  let o := { o with records := o.records ++ raw }
  match type with
  | 1 => { o with opKey := some (BitVec.ofNat 256 (leNat body)) }
  | 2 => { o with opKey := none }
  | 3 => { o with pmbus := (body.take 9).map BitVec.toNat }
  | _ => { o with ide := bit (leNat body) 0 }

/-- Records taken in order from the record bytes; one that the bytes cut short is skipped and ends them. -/
def runOptions : Nat → List Byte → OptRun → OptRun
  | 0, _, r => r
  | n + 1, bs, r =>
    let w := leAt bs 0 8
    let blen := fld w 31 16
    let signer := fld w 39 32
    let len := 16 + blen + 64 * signerCount signer
    if bs.length < len || bs.length < 16 then { r with skipped := r.skipped + 1 }
    else
      let type := fld w 15 0
      let body := (bs.drop 16).take blen
      let ok := fld w 63 40 == 0 && leAt bs 8 8 == 0 && blen % 8 == 0 && decide (blen ≤ 4096)
        && signerFor type r.opts.opKey == some signer && optBodyOk type body
        && optSigned signer r.vendor r.opts.opKey (bs.take (16 + blen)) (bs.drop (16 + blen))
      let r := if ok then { r with opts := r.opts.apply type body (bs.take len) } else { r with skipped := r.skipped + 1 }
      runOptions n (bs.drop len) r

/-- SEQ of a copy whose MAGIC and CHECK are valid, with COUNT and the record bytes. -/
def optHeader (read : Nat → Nat → List Byte) : Option (Nat × Nat × List Byte) :=
  let h := read 0 64
  let len := leAt h 12 4
  let recs := read 64 len
  if leAt h 0 4 == 0x4F505453 && decide (len ≤ 262080) && recs.length == len && (sha512 recs).take 32 == (h.drop 16).take 32
  then some (leAt h 4 4, leAt h 8 4, recs) else none

def readMem (m : Mem) (a n : Nat) : List Byte := Mem.readN m a n

/-- Bytes of an image in hand. -/
def readList (bs : List Byte) (a n : Nat) : List Byte := (bs.drop a).take n

/-- The copy chosen at step 2: whether it is B, and its header. -/
def Rst.chooseCopy (r : Rst) : Option (Bool × Nat × Nat × List Byte) :=
  match optHeader (readMem r.optA), optHeader (readMem r.optB) with
  | some a, some b => if a.1 < b.1 then some (true, b) else some (false, a)
  | some a, none => some (false, a)
  | none, some b => some (true, b)
  | none, none => none

/-- The options that step 2 applies. -/
def Rst.loadOptions (r : Rst) : Opts :=
  match r.chooseCopy with
  | none => { dflt := true }
  | some (b, _, count, recs) =>
    let x := runOptions count recs { vendor := r.vendorKey }
    { x.opts with skipped := satAdd 0 x.skipped, copyB := b }

/-! ## Firmware image (Table 16.10) -/

/-- Header and body of the image that a reader gives. -/
def fwImage (read : Nat → Nat → List Byte) : List Byte :=
  let h := read 0 4096
  h ++ read 4096 (leAt h 12 4)

/-- The image is accepted (R396), but for its SVN. -/
def fwValid (vendor : BitVec 256) (img : List Byte) (opKey : Option (BitVec 256)) : Bool :=
  let h := img.take 4096
  let body := img.drop 4096
  let len := leAt h 12 4
  let signed := h.take 64 ++ body
  h.length == 4096 && leAt h 0 4 == 0x4657434B && len % 64 == 0 && decide (len ≤ 2 ^ 24 - 4096) && body.length == len
    && ((h.drop 24).take 40).all (· == 0) && (h.drop 192).all (· == 0)
    && signedBy vendor signed ((h.drop 64).take 64)
    && (match opKey with
        | none => true
        | some k => (h.drop 128).take 64 != zeros 64 && signedBy k signed ((h.drop 128).take 64))

def fwSvn (img : List Byte) : U32 := BitVec.ofNat 32 (leAt img 8 4)

/-! ## Release (Table 16.3) -/

/-- A release begins with its first step: the source of the reset is recorded (R387).
DEDUCED, log entry 101. -/
def Rst.begin' (r : Rst) : Rst :=
  match r.why with
  | none => r
  | some (c, k) => { r with cause := c, core := if c = 3 then k else r.core, why := none }

/-- Step `n` of the release, when it is the next one. -/
def State.release (s : State) (n : Nat) (act : State → State) : State :=
  if s.rst.nextStep = n then act { s with rst := s.rst.begin' } else s

/-- Step `n` is complete and step `next` comes next. -/
def Rst.done (r : Rst) (n next : Nat) : Rst := { r with boot := n, nextStep := next }

/-- Step 1; not while THERMTRIP_N holds the reset (R389). -/
def State.alwaysOn (s : State) : State :=
  if s.dev.pwr.tripN then s else s.release 1 (fun s => { s with rst := s.rst.done 1 2 })

def execAlwaysOnRelease (s : State) : Host.Outcome State Fault Refusal := .next s.alwaysOn

/-- Step 2 (R394); SEC_STATE.COUNTER is read from MRAM. -/
def State.optionLoading (s : State) : State :=
  s.release 2 (fun s =>
    { s with rst := { s.rst.done 2 3 with opts := s.rst.loadOptions, counter := s.rst.rollback } })

def execOptionLoading (s : State) : Host.Outcome State Fault Refusal := .next s.optionLoading

def State.groomCores (s : State) : State := s.release 3 (fun s => { s with rst := s.rst.done 3 4 })

def execGroomCoresRelease (s : State) : Host.Outcome State Fault Refusal := .next s.groomCores

/-- Step 4 (R396): the firmware runs with a new attestation key, or the device enters recovery (R398). -/
def State.verify (s : State) : State :=
  s.release 4 (fun s =>
    let r := s.rst
    let img := fwImage (readMem r.fwStore)
    if fwValid r.vendorKey img r.opts.opKey && decide (r.rollback.toNat ≤ (fwSvn img).toNat) then
      { s with
        rst := { r.done 4 5 with
          fwRunning := true, fwOk := true, runSvn := fwSvn img, runImage := img
          attKey := Config.attestationKey r.boots, boots := r.boots + 1 }
        dev := { s.dev with up := { s.dev.up with recovery := false } } }
    else
      { s with
        rst := { r with nextStep := 7 }
        dev := { s.dev with up := { s.dev.up with recovery := true } } })

def execFirmwareVerification (s : State) : Host.Outcome State Fault Refusal := .next s.verify

/-- Step 5, after the ramp of VCORE to its boot set point (R390). -/
def State.hbmRelease (s : State) : State :=
  if s.dev.pwr.ramp then s
  else s.release 5 (fun s =>
    { s with rst := s.rst.done 5 6, dev := { s.dev with up := { s.dev.up with hbm := true } } })

def execHbmRelease (s : State) : Host.Outcome State Fault Refusal := .next s.hbmRelease

/-- Stack initialisation ends: the repairs of the log are made permanent, the pool is filled with zeros and READY set
(R213, R221, R387); each channel that fails training is retired, which is a device fault and leaves the device short
(R222, R317, R323).
DEDUCED, log entry 103. -/
def State.hbmInit (s : State) (failed : List Nat) : State :=
  if !s.dev.up.hbm || s.dev.mem.ready then s
  else
    let chans : Tab Chan := (List.range 256).map (fun c =>
      (c, { repaired := (s.rst.repairLog.filter (fun e => e.1 == c)).map (fun e => (e.2.1, e.2.2)) }))
    let m := { s.dev.mem with
      chans := chans, nch := 256, pool := [], poison := [], latent := [], ready := true, short := false }
    let d := { s.dev with mem := m }
    { s with dev := ((List.range 256).filter (fun c => failed.contains c)).foldl Dev.loseChannel d }

def execHbmInitDone (failed : List (Fin 256)) (s : State) : Host.Outcome State Fault Refusal :=
  .next (s.hbmInit (failed.map Fin.val))

/-- Step 6; step 7 is passed over in a warm release. -/
def State.dunindRelease (s : State) : State :=
  s.release 6 (fun s =>
    { s with
      rst := s.rst.done 6 (if s.rst.warmRelease then 8 else 7)
      dev := { s.dev with up := { s.dev.up with fab := true } } })

def execDunindRelease (s : State) : Host.Outcome State Fault Refusal := .next s.dunindRelease

/-- Step 7; alone in recovery, where BOOT stays at 3 (R398). -/
def State.cxlRelease (s : State) : State :=
  s.release 7 (fun s =>
    { s with
      rst := if s.dev.up.recovery then { s.rst with nextStep := 9 } else s.rst.done 7 8
      dev := { s.dev with up := { s.dev.up with cxl := true } } })

def execCxlRelease (s : State) : Host.Outcome State Fault Refusal := .next s.cxlRelease

/-- The eight spare tiles (R194), in the order of the self-test results. -/
def spareTiles : List Nat := [64, 65, 66, 67, 132, 133, 134, 135]

/-- Step 8: the tiles are released and the spares tested (R322).
DEDUCED, log entry 103. -/
def State.tilesRelease (s : State) (sparePass : Byte) : State :=
  s.release 8 (fun s =>
    let d := { s.dev with up := { s.dev.up with tiles := true } }
    { s with
      rst := { s.rst.done 8 9 with warmRelease := false }
      dev := spareTiles.foldl (Dev.testSpare (fun p => sparePass.getLsbD (spareTiles.idxOf p))) d })

def execTilesRelease (sparePass : Byte) (s : State) : Host.Outcome State Fault Refusal :=
  .next (s.tilesRelease sparePass)

end Sys2Proof.Machine
end

