-- ==== Sys2Proof/Machine/Buckets.lean ====
section
/-! DEFINITION. Buckets of the gradient exchange: descriptors (R263 to R265), ENABLE and its checks (R266),
DISABLE and RESCALE_RESET (R295), the exchange area (R276), and the engine's accesses to memory. -/
namespace Sys2Proof.Machine
open Sys2Proof

/-! ## Engine accesses to memory -/

/-- Line `l` of the pool lies in one of the ranges (pool address, length). -/
def inRanges (rs : List (Nat × Nat)) (l : Nat) : Bool :=
  rs.any (fun r => decide (r.1 < 64 * l + 64) && decide (64 * l < r.1 + r.2))

/-- A command of an engine of a die over the pool ranges it touches: it waits while the host may cache a line
of them (R229), and reading a poisoned line is a device fault (R219).
DEDUCED, log entry 69. -/
def Dev.withRanges (s : Dev) (touch reads : List (Nat × Nat)) (act : Dev → Dev) : Dev :=
  let cached := (s.mem.snoop ++ s.mem.biWait).filter (inRanges touch)
  if !cached.isEmpty then { s with mem := s.mem.invalidate cached }
  else
    let s := if s.mem.latent.isEmpty then s
      else (s.mem.latent.filter (fun e => inRanges reads e.1)).foldl (fun s e => s.meetLine e.1) s
    if s.mem.poison.any (inRanges reads) then s.deviceFault 0x03 else act s

/-- A pool range for bytes of a context's space; none outside the HBM space. -/
def Ctx.range (x : Ctx) (a : Addr) (n : Nat) : List (Nat × Nat) :=
  match a.space with
  | .hbm => [(x.pool a.off, n)]
  | _ => []

/-- The place of an offset in one of the device's own windows. -/
def Dev.ownWin (s : Dev) (c w off : Nat) : Addr :=
  let x : Win := Tab.get {} (s.ctx c).wins w
  ⟨if x.space = 0 then .hbm else .staging (x.space.toNat - 1), x.base.toNat * 4096 + off⟩

/-- `n` bytes at a window offset may be reached with a permission; none otherwise (R17, R19). -/
def Dev.ownTarget (s : Dev) (c w off n op : Nat) : Option Addr :=
  let p : Packet := ⟨packetHead 0 0 c op, BitVec.ofNat 64 (at' w 44 + off % 2 ^ 33), 0, 0, []⟩
  if 2 ^ 33 ≤ off then none else (s.target p n).map (fun e => ⟨e.1, e.2⟩)

/-! ## The descriptor (Table 11.1) -/

/-- Words of an entry are well-formed: reserved fields zero, fields and combinations inside Tables 11.1 and
11.2. -/
def bucketWordsOk (w : List Nat) : Bool :=
  let f (i hi lo : Nat) := fld (listGet w i) hi lo
  let mode := f 0 47 46
  let ring := bit (listGet w 0) 45
  let ch := f 0 35 31
  let param := f 0 30 25
  let col := f 0 24 20
  let r := param + 1
  f 0 19 1 == 0 && bit (listGet w 0) 0 && f 1 11 0 == 0 && f 4 47 39 == 0 && f 5 63 37 == 0
    && listGet w 6 == 0 && listGet w 7 == 0
    && (ring || f 0 44 43 == 0) && (!ring || f 1 39 28 == 0)
    && f 0 38 37 != 3 && decide (10 ≤ ch) && decide (ch ≤ 16) && f 4 63 48 != 0
    && (match mode with
        | 0 => param == 0 && col == 0
        | 1 => ring && bit (listGet w 0) 42 && decide (col ≤ ch)
                && decide (2 * r ≤ min (2 ^ (ch - col)) (2 ^ col))
        | 2 => !ring && col == 0
        | _ => !ring && param == 0 && col == 0)

/-- The descriptor that eight words spell, with the tensors they name. -/
def parseBucket (w : List Nat) (g o : Desc) : BktDesc :=
  let f (i hi lo : Nat) := fld (listGet w i) hi lo
  let v16 (i hi lo : Nat) : U16 := BitVec.ofNat 16 (f i hi lo)
  { tag := v16 0 63 48, mode := f 0 47 46, ring := bit (listGet w 0) 45, rdim := f 0 44 43,
    mean := bit (listGet w 0) 42, head := f 0 41 39, effmt := f 0 38 37, srq := bit (listGet w 0) 36,
    chLog2 := f 0 35 31, param := f 0 30 25, colLog2 := f 0 24 20, ncm1 := f 1 39 28, xhitch := v16 1 27 12,
    first := f 2 63 32, n := f 2 31 16 + 1, starth := v16 2 15 0, cdoneh := v16 3 63 48, odoneh := v16 3 47 32,
    step := BitVec.ofNat 32 (f 3 31 0), deadline := f 4 63 48, efoff := f 4 38 0, xwin := f 5 36 33, xoff := f 5 32 0,
    g := g, o := o }

/-- Elements of a chunk, of the bucket, and of a low-rank factor's sides. -/
def BktDesc.chunk (d : BktDesc) : Nat := 2 ^ d.chLog2
def BktDesc.total (d : BktDesc) : Nat := d.n * d.chunk
def BktDesc.cols (d : BktDesc) : Nat := 2 ^ d.colLog2
def BktDesc.rows (d : BktDesc) : Nat := 2 ^ (d.chLog2 - d.colLog2)
def BktDesc.rank (d : BktDesc) : Nat := d.param + 1

/-- Expected contributors P (R270). -/
def Dev.parties (s : Dev) (d : BktDesc) : Nat := if d.ring then s.fab.extent d.rdim else d.ncm1 + 1
/-- ℓ = ceil(log₂ P). -/
def ceilLog2 (p : Nat) : Nat := if p ≤ 1 then 0 else log2 (p - 1) + 1

/-! ## The exchange area (Table 11.3) -/

structure Area where
  close : Nat
  owner : Nat
  accum : Nat
  contrib : Nat
  landing : Nat
  slots : Nat
  lrr : Nat
  size : Nat

/-- Bytes of a chunk's integers. -/
def BktDesc.cb (d : BktDesc) : Nat := 4 * d.chunk
/-- Size of a contribution record. -/
def BktDesc.sr (d : BktDesc) : Nat := 64 * ceilDiv (64 + 4 * d.n) 64
/-- Data sent per chunk in the landing modes (Table 11.2). -/
def BktDesc.lc (d : BktDesc) : Nat :=
  match d.mode with
  | 2 => 8 * (d.param + 1) * d.chunk / 256
  | 3 => d.chunk / 32 * 8
  | _ => 0

def BktDesc.area (d : BktDesc) : Area :=
  let p := d.ncm1 + 1
  let next (off size : Nat) : Nat := alignUp 64 (off + size)
  let close := if d.ring then 0 else 64
  let owner := next close (16 * d.n)
  let accum := next owner (64 * d.n)
  let contrib := next accum (if d.ring then 0 else d.n * d.cb)
  let landing := next contrib (if d.ring then 0 else p * d.sr)
  let slots := next landing (if d.ring then 0 else p * d.n * d.lc)
  let lrr := next slots (if d.ring then 4 * (d.cb + 64) else 0)
  ⟨close, owner, accum, contrib, landing, slots, lrr, next lrr (if d.mode = 1 then d.n * d.cb else 0)⟩

/-- Bytes of the exchange area. -/
def Dev.xRead (s : Dev) (c : Nat) (d : BktDesc) (off n : Nat) : List Byte :=
  s.readBytes c (s.ownWin c d.xwin (d.xoff + off)) n
def Dev.xWrite (s : Dev) (c : Nat) (d : BktDesc) (off : Nat) (bs : List Byte) : Dev :=
  s.writeBytes c (s.ownWin c d.xwin (d.xoff + off)) bs

/-! ## Owners (R264, R190) -/

/-- An owner-table entry (Table 7.7). -/
structure OwnerEnt where
  coord : BitVec 24
  win : Nat
  off : Nat

def ownerEnt (w : Nat) : OwnerEnt := ⟨BitVec.ofNat 24 (fld w 63 40), fld w 39 36, fld w 32 0⟩

/-- Entries of the owner table. -/
def ownerCount (o : Desc) : Nat := ceilDiv o.count (2 ^ o.blkLog2)

/-- The owner table's entry of an element of ODESC. -/
def Dev.ownerAt (s : Dev) (c : Nat) (o : Desc) (elem : Nat) : OwnerEnt :=
  ownerEnt (leNat (s.readBytes c ⟨.hbm, o.base.off + 8 * (elem / 2 ^ o.blkLog2)⟩ 8))

/-- The first element of a chunk in ODESC. -/
def BktDesc.elem (d : BktDesc) (ch : Nat) : Nat := d.first + ch * d.chunk

def Dev.chunkOwner (s : Dev) (c : Nat) (d : BktDesc) (ch : Nat) : BitVec 24 := (s.ownerAt c d.o (d.elem ch)).coord

/-- The chunks that a device owns. -/
def Dev.ownedBy (s : Dev) (c : Nat) (d : BktDesc) (x : BitVec 24) : List Nat :=
  (List.range d.n).filter (fun ch => s.chunkOwner c d ch == x)

/-! ## The error-feedback region (R269) -/

/-- Element format of the region: FP32, BF16 or KF8. -/
def BktDesc.efFmt (d : BktDesc) : Nat :=
  match d.effmt with
  | 0 => 0x9
  | 1 => 0x7
  | _ => 0xD

/-- Bytes of the elements with their scale entries, and of the whole region with Q. -/
def BktDesc.efBytes (d : BktDesc) : Nat :=
  match d.effmt with
  | 0 => 4 * d.total
  | 1 => 2 * d.total
  | _ => d.total + d.total / 16
def BktDesc.qOff (d : BktDesc) : Nat := alignUp 64 d.efBytes
def BktDesc.efSize (d : BktDesc) : Nat :=
  if d.mode = 1 then d.qOff + 4 * (d.n * d.cols * d.rank) else d.efBytes

/-! ## ENABLE (R266) -/

/-- The operation register of the exchange. -/
def Dev.grxStatusSet (s : Dev) (st : Status) : Dev := { s with grxStatus := st.byte }

/-- The bucket's entry in the context's table; none while the table is off or outside the allotment.
DEDUCED, log entry 68. -/
def Dev.bucketWords (s : Dev) (c b : Nat) : Option (List Nat) :=
  let x := s.ctx c
  let a := x.btabBase.toNat * 4096
  if !x.btabEn || decide (x.usable < a + 65536) then none
  else some (descWords (s.readBytes c ⟨.hbm, a + 64 * b⟩ 64))

def anySpace (_ : Space) : Bool := true

/-- A hitch of the four of XHITCH: COUNT kind, one credit a wait and one a signal. -/
def Dev.unitHitch (s : Dev) (c vid : Nat) : Bool :=
  match s.mapEntry c vid with
  | none => false
  | some e => !e.barrier && e.thresh1 == 0 && e.width1 == 0

/-- What R266 requires of the device besides the descriptor's own words. -/
def Dev.enableRange (s : Dev) (c : Nat) (d : BktDesc) : Bool :=
  let x := s.ctx c
  let w : Win := Tab.get {} x.wins d.xwin
  let mapped (v : U16) : Bool := (s.mapEntry c v.toNat).isSome
  let offLine (ch : Nat) : Bool :=
    (List.range 4).any (fun i => i != d.rdim && coordDim (s.chunkOwner c d ch) i != coordDim s.fab.coord i)
  decide (d.o.blkLog2 < d.chLog2) || decide (d.o.count < d.first + d.total)
    || decide (65536 < ownerCount d.o) || decide (x.usable < d.o.base.off + 8 * ownerCount d.o)
    || d.g.count != d.total || !stagingHbm d.g.base.space
    || decide (x.usable < d.efoff + d.efSize)
    || !w.en || decide (w.size.toNat * 4096 < d.xoff + d.area.size)
    || !(w.pget && w.pput && w.pacc && w.patom)
    || !(mapped d.starth && mapped d.cdoneh && mapped d.odoneh)
    || !((List.range 4).all (fun i => s.unitHitch c (d.xhitch.toNat + i)))
    || (d.ring && (decide (s.fab.extent d.rdim < 2) || (List.range d.n).any offLine))

/-- Offsets of the owner table that are not on a line (R191). -/
def Dev.ownerAlign (s : Dev) (c : Nat) (d : BktDesc) : Bool :=
  (List.range d.n).any (fun ch => (s.ownerAt c d.o (d.elem ch)).off % 64 != 0)

/-- Another enabled bucket of the context has the tag. -/
def Dev.tagTaken (s : Dev) (c b : Nat) (tag : U16) : Bool :=
  (s.ctx c).bkts.any (fun e => e.1 != b && e.2.live && e.2.desc.any (fun d => d.tag == tag))

/-- The status of an ENABLE, and the descriptor when it can be formed.
DEDUCED, log entry 68. -/
def Dev.enableCheck (s : Dev) (c b : Nat) : Status × Option BktDesc :=
  let x := s.ctx c
  match s.bucketWords c b with
  | none => (if x.btabEn then .range else .invalidWord, none)
  | some w =>
    let (f1, g) := s.descriptor c (fld (listGet w 1) 63 52) none { space := anySpace }
    let (f2, o) := s.descriptor c (fld (listGet w 1) 51 40) none { space := anySpace, dist := true }
    let blank := parseDesc [] ⟨.hbm, 0⟩
    let d := parseBucket w (g.getD blank) (o.getD blank)
    let bad := !bucketWordsOk w || s.tagTaken c b d.tag || o.any (fun o => !o.dist || o.base.space != .hbm)
    let first := firstStatus (f1 ++ f2 ++ [failIf bad .invalidWord,
      failIf (d.first % d.chunk != 0 || d.xoff % 4096 != 0 || d.efoff % 64 != 0) .align])
    match g, o with
    | some _, some _ =>
      let later := firstStatus [first, if first.any (fun st => st.rank < 1) then none
        else failIf (s.ownerAlign c d) .align, if first.isSome then none else failIf (s.enableRange c d) .range]
      (later.getD (if (s.bucket c b).live then .busy else .done), some d)
    | _, _ => (first.getD .invalidWord, none)

/-- An admission word (R278). -/
def admWord (closed : Bool) (step count : Nat) : U64 :=
  BitVec.ofNat 64 (at' (b2n closed) 63 + at' (step % 2 ^ 31) 32 + count)

/-- The owner opens its share of a step: admission word, zeroed accumulators and landing rows (R277, R278).
DEDUCED, log entry 72. -/
def Dev.openShare (s : Dev) (c : Nat) (d : BktDesc) (step : U32) : Dev :=
  if d.ring then s
  else
    let a := d.area
    let s := s.xWrite c d (8 * (step.toNat % 2)) (leBytes 8 (admWord false step.toNat 0).toNat)
    (s.xWrite c d a.accum (zeros (d.n * d.cb))).xWrite c d a.landing (zeros ((d.ncm1 + 1) * d.n * d.lc))

/-- Signals of one bucket's own hitch, `k` times. -/
def Dev.signalTimes (s : Dev) (c vid : Nat) : Nat → Dev
  | 0 => s
  | k + 1 => ((s.signalVid c vid).2).signalTimes c vid k

/-- The key of an owned chunk of a step. -/
def oKey (step : U32) (ch : Nat) : Nat := 65536 * step.toNat + ch

/-- `a` is the step `b` or a later one. -/
def notBefore (a b : U32) : Bool := decide ((a - b).toNat < 2 ^ 31)

/-- The bucket waits for the start of a step, with what has already come of that step or a later one. -/
def Bucket.atStep (k : Bucket) (d : BktDesc) (step : U32) : Bucket :=
  { st := .waiting, desc := some d, efValid := k.efValid, step := step, scales := k.scales, scalesQ := k.scalesQ,
    ochunks := k.ochunks.filter (fun e => notBefore (BitVec.ofNat 32 (e.1 / 65536)) step)
    missed := k.missed.filter (fun e => notBefore e.2 step)
    stale := k.stale, nextOut := k.nextOut, nextIn := k.nextIn, outq := k.outq, inq := k.inq }

/-- Places of records in the exchange area: contribution records, then owner records. -/
def BktDesc.recordPlaces (d : BktDesc) : List Nat :=
  (if d.ring then [] else (List.range (d.ncm1 + 1)).map (fun t => d.area.contrib + t * d.sr))
    ++ (List.range d.n).map (fun ch => d.area.owner + 64 * ch)

/-- Records that the exchange area holds, by place, with their first eight bytes. -/
def Dev.recordsHeld (s : Dev) (c : Nat) (d : BktDesc) : List (Nat × Nat) :=
  (d.recordPlaces.map (fun o => (o, leNat (s.xRead c d o 8)))).filter (fun e => e.2 != 0)

/-- An accepted ENABLE (R271, R275, R278, R281). What an earlier run of the steps to come had tallied is forgotten
(R312).
DEDUCED, log entry 76. -/
def Dev.enableBucket (s : Dev) (c b : Nat) (d : BktDesc) (keep : Bool) : Dev :=
  let k : Bucket := Bucket.atStep { efValid := keep, stale := s.recordsHeld c d } d d.step
  let s := (s.setBucket c b k).modCtx c (fun x => { x with
    tally := x.tally.filter (fun e => !(e.1 % 1024 == b && notBefore (BitVec.ofNat 32 (e.1 / 1024)) d.step)) })
  if d.ring then s.signalTimes c (d.xhitch.toNat + 3) 4
  else
    let s := s.openShare c d d.step
    let prev := d.step - 1
    s.xWrite c d (8 * (prev.toNat % 2)) (leBytes 8 (admWord true prev.toNat 0).toNat)

def Dev.enable (s : Dev) (c b : Nat) (keep : Bool) : Dev :=
  if s.grxPend then s
  else
    let x := s.ctx c
    let tab := [(x.pool (x.btabBase.toNat * 4096 + 64 * b), 64)] ++ (match s.bucketWords c b with
      | some w => x.descRange (fld (listGet w 1) 63 52) ++ x.descRange (fld (listGet w 1) 51 40)
      | none => [])
    s.withRanges tab tab (fun s =>
      match s.enableCheck c b with
      | (.done, some d) => (s.enableBucket c b d keep).grxStatusSet .done
      | (st, _) => s.grxStatusSet st)

/-- The selector fields of GRX_BKT_CTL follow each write of it (R409). -/
def Dev.selectBucket (s : Dev) (c b : Nat) (keep : Bool) : Dev :=
  { s with sel := { s.sel with
      grxCtx := BitVec.ofNat 6 c, grxBucket := BitVec.ofNat 10 b, grxEfKeep := keep } }

def execEnable (c : CtxId) (b : Fin 1024) (efkeep : Bool) (s : State) : Host.Outcome State Fault Refusal :=
  s.onBar (fun d => (d.selectBucket c.val b.val efkeep).enable c.val b.val efkeep)

/-! ## DISABLE and RESCALE_RESET (R271, R295) -/

/-- A ring slot in memory is a contribution to the step. -/
def Dev.slotHeld (s : Dev) (c : Nat) (d : BktDesc) (step : U32) : Bool :=
  (List.range 4).any (fun i =>
    let hd := s.xRead c d (d.area.slots + i * (d.cb + 64) + d.cb) 64
    !hd.all (· == 0) && leAt hd 0 4 == step.toNat)

/-- Some contribution to the current step has arrived: in a ring slot still unread, at this hop now or earlier, or
admitted to this device's share. -/
def Dev.arrived (s : Dev) (c : Nat) (k : Bucket) : Bool :=
  match k.desc with
  | none => false
  | some d =>
    if d.ring then k.came || !k.inq.isEmpty || k.missed.any (fun e => e.2 == k.step) || s.slotHeld c d k.step
    else
      let w := leNat (s.xRead c d (8 * (k.step.toNat % 2)) 8)
      k.t0.isSome || (fld w 62 32 == k.step.toNat % 2 ^ 31 && fld w 31 0 != 0)

/-- The bucket waits for its start and nothing of its step has arrived. -/
def Dev.restful (s : Dev) (c : Nat) (k : Bucket) : Bool := k.st == .waiting && !s.arrived c k

/-- An operation on a bucket that R295 refuses with NOTIDLE unless the bucket rests. -/
def Dev.bucketOp (s : Dev) (c b : Nat) (act : Bucket → Bucket) : Dev :=
  if s.grxPend then s
  else
    let k := s.bucket c b
    if s.restful c k then
      let s := s.setBucket c b (act k)
      (if (act k).live then s else (s.engineOff c (fun i => i == b)).ewCheck c).grxStatusSet .done
    else s.grxStatusSet .notIdle

def execDisable (c : CtxId) (b : Fin 1024) (s : State) : Host.Outcome State Fault Refusal :=
  s.onBar (fun d => (d.selectBucket c.val b.val d.sel.grxEfKeep).bucketOp c.val b.val (fun _ => {}))

def execRescaleReset (c : CtxId) (b : Fin 1024) (s : State) : Host.Outcome State Fault Refusal :=
  s.onBar (fun d => (d.selectBucket c.val b.val d.sel.grxEfKeep).bucketOp c.val b.val
    (fun k => { k with scales := [], scalesQ := [] }))

end Sys2Proof.Machine
end

