-- ==== Sys2Proof/Machine/Compress.lean ====
section
/-! DEFINITION. Contributions of a bucket: the error-feedback values (R269, R289), quantisation against a scale
(R270), the compression modes (R272 to R274) and the low-rank arithmetic. -/
namespace Sys2Proof.Machine
open Sys2Proof

/-! ## The error-feedback region -/

/-- Cells of values rounded to a format, from element `i0` of a packed region of `total` elements at `base`,
scale entries after the elements (R72). -/
def packedCells (fmt : Nat) (scl : Bool) (base total i0 : Nat) (rnd : Nat → Rnd) (vs : List Num) :
    List Host.Cell × Flags :=
  if isBlock fmt then
    let gs := groupsOf 32 vs
    let sBase := base + alignUp 64 (total * fmtBits fmt / 8)
    let z := scaleBytes fmt
    ((List.range gs.length).zip gs).foldl (fun (acc : List Host.Cell × Flags) e =>
      let i := i0 + 32 * e.1
      let (en, ks, f) := quantBlock fmt scl e.2 (fun j => rnd (i + j))
      (acc.1 ++ cellsAt (base + i * fmtBits fmt / 8) (packCodes (fmtBits fmt) ks)
        ++ cellsAt (sBase + i / 32 * z) (leBytes z en), acc.2 ||| f)) ([], 0)
  else
    let w := fmtBits fmt / 8
    ((List.range vs.length).zip vs).foldl (fun (acc : List Host.Cell × Flags) e =>
      let (k, f) := encodeElem fmt e.2 (rnd (i0 + e.1))
      (acc.1 ++ cellsAt (base + (i0 + e.1) * w) (leBytes w k), acc.2 ||| f)) ([], 0)

/-- Values of `n` elements from element `i0` of such a region, as FP32, with the flags that reading raises (R76, R82). -/
def packedValues (rd : Nat → Byte) (fmt base total i0 n : Nat) : List FF :=
  let w := fmtBits fmt
  let sBase := base + alignUp 64 (total * w / 8)
  let z := scaleBytes fmt
  let at8 (a k : Nat) : Nat := leNat ((List.range k).map (fun j => rd (a + j)))
  (List.range n).map (fun j =>
    let i := i0 + j
    let code := at8 (base + i * w / 8) ((w + 7) / 8) / 2 ^ (i * w % 8) % 2 ^ w
    let en := if isBlock fmt then at8 (sBase + i / 32 * z) z else 0
    let (v, f) := readElem fmt code en (i % 32)
    (v.toF32.1, f ||| v.toF32.2))

def Dev.efRead (s : Dev) (c : Nat) (d : BktDesc) (i0 n : Nat) : List FF :=
  packedValues (s.readByte c .hbm) d.efFmt d.efoff d.total i0 n

def Dev.efWrite (s : Dev) (c : Nat) (d : BktDesc) (i0 : Nat) (vs : List Num) : Dev :=
  let (cells, f) := packedCells d.efFmt false d.efoff d.total i0 (fun _ => .rne) vs
  (s.writeCells c .hbm cells).postFlags c f

/-- FP32 values at consecutive places. -/
def Dev.readF32s (s : Dev) (c : Nat) (a : Addr) (n : Nat) : List F32 :=
  (List.range n).map (fun i => BitVec.ofNat 32 (leNat (s.readBytes c ⟨a.space, a.off + 4 * i⟩ 4)))
def f32Bytes (xs : List F32) : List Byte := xs.flatMap (fun x => leBytes 4 x.toNat)
def i32Bytes (xs : List Int) : List Byte := xs.flatMap (fun x => leBytes 4 (toBits 32 x))
def readI32s (bs : List Byte) : List Int := (groupsOf 4 bs).map (fun g => sext 32 (leNat g))

/-- The values v̄ of a chunk. -/
def Dev.vbar (s : Dev) (c : Nat) (d : BktDesc) (ch : Nat) : List FF := s.efRead c d (ch * d.chunk) d.chunk

/-! ## Quantisation (R270) -/

structure Quant where
  q : List Int := []
  ovf : Bool := false
  ovbits : Nat := 0
  maxb : Nat := 0
  nonfin : Bool := false
  flags : Flags := 0
  deriving DecidableEq, Repr

def bitLen (n : Nat) : Nat := if n = 0 then 0 else log2 n + 1

/-- Least k ≥ 1 with |r| at most 2^(31 - l + k) - 1, at most 127. -/
def leastK (l r : Nat) : Nat := min 127 (max 1 (bitLen r + l - 31))

/-- One value with its rounding rule added to a quantised vector. -/
def Quant.add (l : Nat) (f : Int) (z : Quant) (e : F32 × Rnd) : Quant :=
  if !isFinite e.1 then { z with q := z.q ++ [0], nonfin := true, flags := z.flags ||| fInvalid }
  else
    let lim : Nat := 2 ^ (31 - l) - 1
    let (r0, inex) := dyToInt ((F32.dy e.1).scale (-f)) e.2
    let m := min r0.natAbs (2 ^ 62)
    let k := if lim < m then leastK l m else 0
    let a := min m lim
    { q := z.q ++ [if r0 < 0 then -(a : Int) else a], ovf := z.ovf || decide (lim < m), ovbits := max z.ovbits k,
      maxb := max z.maxb (bitLen a), nonfin := z.nonfin, flags := if inex then z.flags ||| fInexact else z.flags }

/-- `quantise` of R270. -/
def quantise (l : Nat) (f : Int) (xs : List (F32 × Rnd)) : Quant := xs.foldl (Quant.add l f) {}

/-- Values with the rounding rule of their bucket index (Table 3.3). -/
def BktDesc.keyed (d : BktDesc) (step : U32) (idx0 : Nat) (xs : List F32) : List (F32 × Rnd) :=
  ((List.range xs.length).zip xs).map (fun e => (e.2, rndOf d.srq step (d.tag.zeroExtend 32) (idx0 + e.1) 1))

/-! ## TOPK and SIGN (R272, R273) -/

/-- Rank of magnitudes: NaN and infinities as their bits, which exceed every finite magnitude. -/
def magKey (x : F32) : Nat := x.toNat % 2 ^ 31

/-- The indices of the k largest magnitudes of a block, ascending. -/
def topIdx (k : Nat) (xs : List F32) : List Nat :=
  let es := (List.range xs.length).zip (xs.map magKey)
  (es.filter (fun e => decide ((es.filter (fun o =>
    decide (e.2 < o.2) || (o.2 == e.2 && decide (o.1 < e.1)))).length < k))).map Prod.fst

/-- Mean of the magnitudes of a block of 32, rounded once. -/
def signScale (xs : List F32) : FF :=
  match exactSum (xs.map absF) with
  | (.special v, f) => (v, f)
  | (.exact d _, _) => roundDy (d.scale (-5))

/-! ## Orthonormal columns and scaled sums (R274, R286) -/

/-- a - d × p, element by element, with one rounding. -/
def axmy (d : F32) (p a : List F32) : List FF := (a.zip p).map (fun e => fmaF (minusF d) e.2 e.1)

/-- One column made orthonormal against those before it, with the flags raised. -/
def mgsCol (done : List (List F32)) (a : List F32) : List F32 × Flags :=
  let (a, f) := done.foldl (fun (acc : List F32 × Flags) p =>
    let d := dotF (p.zip acc.1)
    let r := axmy d.1 p acc.1
    (valsOf r, acc.2 ||| d.2 ||| flagsOf r)) (a, 0)
  let nrm := FF.op1 (libFn 0x05) (dotF (a.zip a))
  let r := if isZero nrm.1 then a.map (fun _ => FF.of 0) else a.map (fun x => divF x nrm.1)
  (valsOf r, f ||| nrm.2 ||| flagsOf r)

/-- `mgs` of R274 on a u × r matrix, row-major. -/
def mgs (u r : Nat) (p : List F32) : List F32 × Flags :=
  let cols := (List.range r).map (fun k => (List.range u).map (fun i => p.getD (i * r + k) 0))
  let out := cols.foldl (fun (acc : List (List F32) × Flags) a =>
    let (c, f) := mgsCol acc.1 a
    (acc.1 ++ [c], acc.2 ||| f)) ([], 0)
  (transp r u out.1.flatten, out.2)

/-- round_rne_f32(S × 2^F / n). -/
def scaledF (sum f : Int) (n : Nat) : FF :=
  if sum = 0 then (0, 0)
  else
    let (q, e, r) := divMag sum.natAbs f n 0
    roundF32s (decide (sum < 0)) q e r

/-! ## The seed of Q (R275) -/

def seedQ (tag : U16) (idx : Nat) : FF :=
  FF.op1 (fun x => scale2 x (-31)) (f32OfInt (sext 32 (srBits 0 (tag.zeroExtend 32) idx 3).toNat))

def Dev.readQ (s : Dev) (c : Nat) (d : BktDesc) (ch : Nat) : List F32 :=
  let n := d.cols * d.rank
  s.readF32s c ⟨.hbm, d.efoff + d.qOff + 4 * (ch * n)⟩ n
def Dev.writeQ (s : Dev) (c : Nat) (d : BktDesc) (ch : Nat) (q : List F32) : Dev :=
  s.writeBytes c ⟨.hbm, d.efoff + d.qOff + 4 * (ch * d.cols * d.rank)⟩ (f32Bytes q)

/-- P̂ and Q̂ of a chunk in the low-rank return region. -/
def Dev.readPhat (s : Dev) (c : Nat) (d : BktDesc) (ch : Nat) : List F32 :=
  s.readF32s c (s.ownWin c d.xwin (d.xoff + d.area.lrr + ch * d.cb)) (d.rows * d.rank)
def Dev.readQhat (s : Dev) (c : Nat) (d : BktDesc) (ch : Nat) : List F32 :=
  s.readF32s c (s.ownWin c d.xwin (d.xoff + d.area.lrr + ch * d.cb + 4 * d.rows * d.rank)) (d.cols * d.rank)

/-- P̂ × Q̂ᵀ of a chunk. -/
def Dev.lowRank (s : Dev) (c : Nat) (d : BktDesc) (ch : Nat) : List FF :=
  matMul d.rows d.rank d.cols (s.readPhat c d ch) (transp d.cols d.rank (s.readQhat c d ch))

/-! ## A contribution to a pass -/

/-- What a pass sends of a chunk: the values quantised, by mode, and the bucket index of the first (R270,
R274); `qpass` selects the second pass of LOWRANK. -/
def Dev.passX (s : Dev) (c : Nat) (d : BktDesc) (ch : Nat) (qpass : Bool) : Nat × List FF :=
  let v := s.vbar c d ch
  let i0 := ch * d.chunk
  let read (xs : List FF) : List FF := xs.map (fun x => (x.1, x.2 ||| flagsOf v))
  if d.mode = 1 then
    if qpass then
      (i0 + d.rows * d.rank, read (matMul d.cols d.rows d.rank (transp d.rows d.cols (valsOf v)) (s.readPhat c d ch)))
    else (i0, read (matMul d.rows d.cols d.rank (valsOf v) (s.readQ c d ch)))
  else (i0, v)

/-- EMAX of a chunk's pass: floor_log2 of the largest finite magnitude that is not zero (R285). -/
def emaxOfList (xs : List F32) : Option Int :=
  (xs.filter (fun x => isFinite x && !isZero x)).foldl (fun (b : Option Int) x =>
    let e := (F32.dy x).log2
    some (match b with | none => e | some y => max y e)) none

/-- The values whose scale a pre-pass finds: the block means in SIGN mode. -/
def Dev.passEmax (s : Dev) (c : Nat) (d : BktDesc) (ch : Nat) (qpass : Bool) : Option Int :=
  let xs := valsOf (s.passX c d ch qpass).2
  emaxOfList (if d.mode = 3 then valsOf ((groupsOf 32 xs).map signScale) else xs)

/-- The flags that forming a pass's values raises. -/
def Dev.passFlags (s : Dev) (c : Nat) (d : BktDesc) (ch : Nat) (qpass : Bool) : Flags :=
  let ys := (s.passX c d ch qpass).2
  flagsOf ys ||| (if d.mode = 3 then flagsOf ((groupsOf 32 (valsOf ys)).map signScale) else 0)

/-- A contribution: its quantised integers with what the record reports, and the bytes sent. -/
structure Sent where
  quant : Quant
  bytes : List Byte

def Dev.contribution (s : Dev) (c : Nat) (d : BktDesc) (step : U32) (ch : Nat) (f : Int) (qpass : Bool) : Sent :=
  let l := ceilLog2 (s.parties d)
  let (i0, ys) := s.passX c d ch qpass
  let xs := valsOf ys
  match d.mode with
  | 2 =>
    let gs := groupsOf 256 xs
    let idx := gs.map (topIdx (d.param + 1))
    let es := ((List.range gs.length).zip (gs.zip idx)).flatMap (fun e => e.2.2.map (fun i =>
      (i, e.2.1.getD i 0, rndOf d.srq step (d.tag.zeroExtend 32) (i0 + 256 * e.1 + i) 1)))
    let z := quantise l f (es.map (fun e => (e.2.1, e.2.2)))
    ⟨{ z with flags := z.flags ||| flagsOf ys }, (es.zip z.q).flatMap (fun e => leBytes 8 (at' e.1.1 32 + toBits 32 e.2))⟩
  | 3 =>
    let gs := groupsOf 32 xs
    let ms := gs.map signScale
    let z := quantise l f (((List.range ms.length).zip ms).map (fun e =>
      (e.2.1, rndOf d.srq step (d.tag.zeroExtend 32) (i0 + 32 * e.1) 1)))
    let mask (g : List F32) : Nat := ((List.range g.length).zip g).foldl (fun m e =>
      if F32.sign e.2 && !isZero e.2 then m + 2 ^ e.1 else m) 0
    ⟨{ z with flags := z.flags ||| flagsOf ms ||| flagsOf ys },
      (gs.zip z.q).flatMap (fun e => leBytes 8 (at' (toBits 32 e.2) 32 + mask e.1))⟩
  | _ =>
    let z := quantise l f (d.keyed step i0 xs)
    ⟨{ z with flags := z.flags ||| flagsOf ys }, i32Bytes z.q⟩

/-- The integers a landed row stands for, element by element (R272, R273, R279). -/
def BktDesc.landed (d : BktDesc) (bs : List Byte) : List Int :=
  if d.mode = 2 then
    (groupsOf (8 * (d.param + 1)) bs).flatMap (fun g =>
      let es := (groupsOf 8 g).map leNat
      es.foldl (fun (xs : List Int) e => xs.set (fld e 39 32) (sext 32 (fld e 31 0))) (List.replicate 256 0))
  else
    (groupsOf 8 bs).flatMap (fun g =>
      let e := leNat g
      (List.range 32).map (fun j => if bit e j then -(sext 32 (fld e 63 32)) else sext 32 (fld e 63 32)))

/-- The contribution counted in the last pass, as exact values element by element (R289). -/
def Dev.counted (s : Dev) (c : Nat) (d : BktDesc) (step : U32) (ch : Nat) (f : Int) : List Dy :=
  match d.mode with
  | 1 => (valsOf (s.lowRank c d ch)).map F32.dy
  | 0 => (s.contribution c d step ch f false).quant.q.map (fun q => ⟨q, f⟩)
  | _ => (d.landed (s.contribution c d step ch f false).bytes).map (fun q => ⟨q, f⟩)

/-- The exact value of a dyadic, before rounding. -/
def Dy.toNum (x : Dy) : Num := .fin (decide (x.m < 0)) x.m.natAbs x.e

/-- The error feedback a closed chunk leaves: v̄ less what was counted, v̄ itself, or zero (R289). -/
inductive Residue where
  | less (f : Int)
  | keep
  | zero
  deriving DecidableEq, Repr

/-- DEDUCED, log entry 75. -/
def Dev.leaveResidue (s : Dev) (c : Nat) (d : BktDesc) (step : U32) (ch : Nat) (r : Residue) : Dev :=
  match r with
  | .keep => s
  | .zero => s.efWrite c d (ch * d.chunk) (List.replicate d.chunk (.fin false 0 0))
  | .less f =>
    let vs := s.vbar c d ch
    let v := vs.map (fun x => F32.dy x.1)
    let k := s.counted c d step ch f
    let s := if d.mode = 1 then s.postFlags c (flagsOf (s.lowRank c d ch)) else s
    (s.postFlags c (flagsOf vs)).efWrite c d (ch * d.chunk) ((v.zip k).map (fun e => (e.1.add e.2.neg).toNum))

end Sys2Proof.Machine
end

