-- ==== Sys2Proof/Machine/Records.lean ====
section
/-! DEFINITION. The records of the gradient exchange (Tables 11.4, 11.5), its counters, the closing of a chunk
for a contributor (R268, R289) and at its owner (R286, R287), and the end of a bucket's step. -/
namespace Sys2Proof.Machine
open Sys2Proof

/-! ## Access to a bucket's parts -/

def Bucket.cchunk (k : Bucket) (ch : Nat) : CChunk := Tab.get {} k.cchunks ch
def Bucket.ochunkAt (k : Bucket) (step : U32) (ch : Nat) : OChunk := Tab.get {} k.ochunks (oKey step ch)
def Bucket.ochunk (k : Bucket) (ch : Nat) : OChunk := k.ochunkAt k.step ch
def Dev.modBucket (s : Dev) (c b : Nat) (f : Bucket → Bucket) : Dev := s.setBucket c b (f (s.bucket c b))
def Dev.modCChunk (s : Dev) (c b ch : Nat) (f : CChunk → CChunk) : Dev :=
  s.modBucket c b (fun k => { k with cchunks := Tab.set k.cchunks ch (f (k.cchunk ch)) })
def Dev.modOChunkAt (s : Dev) (c b : Nat) (step : U32) (ch : Nat) (f : OChunk → OChunk) : Dev :=
  s.modBucket c b (fun k => { k with ochunks := Tab.set k.ochunks (oKey step ch) (f (k.ochunkAt step ch)) })
def Dev.modOChunk (s : Dev) (c b ch : Nat) (f : OChunk → OChunk) : Dev := s.modOChunkAt c b (s.bucket c b).step ch f

/-- A scale entry that may be used: valid and of the current step (R271). -/
def Bucket.scaleOf (k : Bucket) (ch : Nat) (q : Bool) : Option Int :=
  let e : ScaleEnt := Tab.get {} (if q then k.scalesQ else k.scales) ch
  if e.valid && e.step == k.step then some e.f else none

/-- Stores the scale entries for the step after `step`, or invalidates them (R271, R286, R288). -/
def Bucket.nextScales (k : Bucket) (step : U32) (ch : Nat) (valid : Bool) (f fq : Int) : Bucket :=
  let e (x : Int) : ScaleEnt := { f := x, step := step + 1, valid := valid }
  { k with scales := Tab.set k.scales ch (e f), scalesQ := Tab.set k.scalesQ ch (e fq) }

/-- Pool ranges of a bucket's exchange area and error-feedback region, which its engine reads. -/
def Dev.bucketOwn (s : Dev) (c : Nat) (d : BktDesc) : List (Nat × Nat) :=
  let x := s.ctx c
  x.range (s.ownWin c d.xwin d.xoff) d.area.size ++ x.range ⟨.hbm, d.efoff⟩ d.efSize

/-- Those ranges with the blocks that the device owns.
DEDUCED, log entry 69. -/
def Dev.bucketTouch (s : Dev) (c : Nat) (d : BktDesc) : List (Nat × Nat) :=
  s.bucketOwn c d ++ (s.ownedBy c d s.fab.coord).flatMap (fun ch =>
    let e := s.ownerAt c d.o (d.elem ch)
    (s.ctx c).range (s.ownWin c e.win (e.off + 4 * (d.elem ch % 2 ^ d.o.blkLog2))) d.cb)

/-- The engine's work on an enabled bucket of a resident context. -/
def Dev.withBucket (s : Dev) (c b : Nat) (act : Dev → Bucket → BktDesc → Dev) : Dev :=
  let k := s.bucket c b
  match k.desc with
  | none => s
  | some d =>
    if !k.live || (s.ctx c).resid != .resident then s
    else s.withRanges (s.bucketTouch c d) (s.bucketOwn c d) (fun s => (act s k d).pump)

/-! ## Counters (Tables 11.13, 12.8) -/

inductive GrxCount where
  | late | rescale | exhaust | stepMis | prepass | frozen
  deriving DecidableEq, Repr

def GrxEvents.add (e : GrxEvents) (w : GrxCount) (n : Nat) : GrxEvents :=
  match w with
  | .late => { e with late := satAdd e.late n }
  | .rescale => { e with rescale := satAdd e.rescale n }
  | .exhaust => { e with exhaust := satAdd e.exhaust n }
  | .stepMis => { e with stepMis := satAdd e.stepMis n }
  | .prepass => { e with prepass := satAdd e.prepass n }
  | .frozen => { e with frozen := satAdd e.frozen n }

def GrxTally.add (e : GrxTally) (w : GrxCount) (n : Nat) : GrxTally :=
  match w with
  | .late => { e with late := e.late + n }
  | .rescale => { e with rescale := e.rescale + n }
  | .exhaust => { e with exhaust := e.exhaust + n }
  | .stepMis => { e with stepMis := e.stepMis + n }
  | .prepass => { e with prepass := e.prepass + n }
  | .frozen => { e with frozen := e.frozen + n }

/-- The key of a bucket's tally for a step. -/
def tallyKey (step : U32) (b : Nat) : Nat := 1024 * step.toNat + b

/-- A tally of the step of a die's bucket. -/
def tallyOf (step : U32) (die : Nat) (e : Nat × GrxTally) : Bool := e.1 / 1024 == step.toNat && e.1 % 2 == die

/-- The tallies of a die's buckets for a step (Table 12.8). -/
def Ctx.stepTally (x : Ctx) (step : U32) (die : Nat) : GrxTally :=
  (x.tally.filter (tallyOf step die)).foldl (fun a e =>
    { late := a.late + e.2.late, rescale := a.rescale + e.2.rescale, exhaust := a.exhaust + e.2.exhaust
      stepMis := a.stepMis + e.2.stepMis, prepass := a.prepass + e.2.prepass, frozen := a.frozen + e.2.frozen }) {}

/-- An event of a step of a bucket counts in GRX_EVENTS and in the bucket's tally of the step.
DEDUCED, log entry 74. -/
def Dev.grxCountAt (s : Dev) (c b : Nat) (step : U32) (w : GrxCount) (n : Nat) : Dev :=
  let k := tallyKey step b
  s.modCtx c (fun x => { x with grxEv := x.grxEv.add w n, tally := Tab.set x.tally k ((Tab.get {} x.tally k).add w n) })

/-- An event of the bucket's current step.
DEDUCED, log entry 74. -/
def Dev.grxCount (s : Dev) (c b : Nat) (w : GrxCount) (n : Nat) : Dev := s.grxCountAt c b (s.bucket c b).step w n

/-! ## Owner records and close records (Table 11.5) -/

/-- Types of owner records. -/
def rNotice : Nat := 1
def rResend : Nat := 2
def rPrepass : Nat := 3
def rScale : Nat := 4
def rPhat : Nat := 5

structure ORec where
  tag : U16
  ch : Nat
  step : U32
  type : Nat
  attempt : Nat := 0
  fnv : Bool := false
  status : Nat := 0
  f : Int := 0
  fq : Int := 0
  n : Nat := 0
  incl : U64 := 0
  deriving DecidableEq, Repr

def ORec.bytes (r : ORec) : List Byte :=
  leBytes 8 (at' r.tag.toNat 48 + at' r.ch 32 + r.step.toNat)
    ++ leBytes 8 (at' r.type 60 + at' r.attempt 58 + at' (b2n r.fnv) 57 + at' r.status 40 + at' (toBits 16 r.f) 16
        + toBits 16 r.fq)
    ++ leBytes 8 (r.n % 8192) ++ leBytes 8 r.incl.toNat ++ zeros 32

def parseORec (bs : List Byte) : ORec :=
  let a := leAt bs 0 8
  let w := leAt bs 8 8
  { tag := BitVec.ofNat 16 (fld a 63 48), ch := fld a 47 32, step := BitVec.ofNat 32 (fld a 31 0), type := fld w 63 60,
    attempt := fld w 59 58, fnv := bit w 57, status := fld w 47 40, f := sext 16 (fld w 31 16), fq := sext 16 (fld w 15 0),
    n := fld (leAt bs 16 8) 12 0, incl := BitVec.ofNat 64 (leAt bs 24 8) }

/-- A remote operation of the bucket's engine. -/
def Dev.engineOp (s : Dev) (c b : Nat) (why : OpWhy) (a : Ask) : Dev := s.startOp (.bucket c b) why c a none

/-- A record that has come to a place and whose tag is not the bucket's, or whose kind is invalid where `kind` says
(R292). -/
def Dev.foreignAt (s : Dev) (c : Nat) (d : BktDesc) (k : Bucket) (off : Nat) (kind : Bool) : Bool :=
  let w := leNat (s.xRead c d off 8)
  w != 0 && !k.stale.contains (off, w) && (fld w 63 48 != d.tag.toNat || (kind && fld w 47 46 == 3))

/-- An owner record put to a contributor, raising XHITCH + 1 there. -/
def Dev.sendORec (s : Dev) (c b : Nat) (d : BktDesc) (dst : BitVec 24) (r : ORec) : Dev :=
  s.engineOp c b .data {
    kind := 1, dst := dst, win := d.xwin, off := d.xoff + d.area.owner + 64 * r.ch, rse := true, rhitch := d.xhitch + 1
    data := r.bytes }

/-! ## The end of a step (R268, R327) -/

/-- A hold keeps the start credit of a step from being taken. -/
def Ctx.holds (x : Ctx) (step : U32) : Bool := x.ewHeld && step == x.holdStep + 1

/-- Some chunk is owned, and every one of the current step is closed: ODONEH. -/
def Dev.earlyOdone (s : Dev) (c b : Nat) (d : BktDesc) : Dev :=
  let k := s.bucket c b
  let mine := s.ownedBy c d s.fab.coord
  if !mine.isEmpty && mine.all (fun ch => (k.ochunk ch).closed) then
    ((s.modBucket c b (fun k => { k with odone := true })).signalVid c d.odoneh.toNat).2
  else s

/-- Once CDONEH and ODONEH have both been raised the current step is over. Owned chunks that passes of the next step
have closed already count for it (R268, R282).
DEDUCED, log entry 72. -/
def Dev.finishStep (s : Dev) (c b : Nat) (d : BktDesc) : Dev :=
  let k := s.bucket c b
  if k.live && k.cdone && k.odone then
    let next := k.step + 1
    let s := s.setBucket c b ({ k with efValid := true }.atStep d next)
    ((s.openShare c d next).ewCheck c).earlyOdone c b d
  else s

/-- Every chunk is closed for this device: CDONEH. -/
def Dev.tryCdone (s : Dev) (c b : Nat) (d : BktDesc) : Dev :=
  let k := s.bucket c b
  if k.live && !k.cdone && (List.range d.n).all (fun ch => (k.cchunk ch).st == .closed) then
    let s := s.modBucket c b (fun k => { k with cdone := true, st := .closing })
    ((s.signalVid c d.cdoneh.toNat).2).finishStep c b d
  else s

/-- Every owned chunk is closed and written: ODONEH. -/
def Dev.tryOdone (s : Dev) (c b : Nat) (d : BktDesc) : Dev :=
  let k := s.bucket c b
  if k.live && !k.odone && (s.ownedBy c d s.fab.coord).all (fun ch => (k.ochunk ch).closed) then
    let s := s.modBucket c b (fun k => { k with odone := true })
    ((s.signalVid c d.odoneh.toNat).2).finishStep c b d
  else s

/-! ## A chunk closes for a contributor (R289) -/

/-- NONFIN is the contributor's own, and at the chunk's owner that of the close record.
DEDUCED, log entry 75. -/
def residueOf (x : CChunk) (st : Status) (nonfin : Bool) : Residue :=
  match st with
  | .done | .rescale => if x.nonfin || nonfin then .zero else .less x.f
  | .frozen => .zero
  | _ => .keep

def closeCount (st : Status) : Option GrxCount :=
  match st with
  | .late => some .late
  | .stepMismatch => some .stepMis
  | .scaleExhausted => some .exhaust
  | _ => none

/-- A chunk closes for this device; `counted` says that its STEPMISMATCH has been counted (R282, R289). -/
def Dev.closeChunk (s : Dev) (c b : Nat) (d : BktDesc) (ch : Nat) (st : Status) (counted : Bool := false) : Dev :=
  let k := s.bucket c b
  let x := k.cchunk ch
  if !k.live || x.st != .open then s
  else
    let s := s.leaveResidue c d k.step ch
      (residueOf x st (s.chunkOwner c d ch == s.fab.coord && (k.ochunk ch).nonfin))
    let s := match closeCount st with
      | some w => if counted then s else s.grxCount c b w 1
      | none => s
    (s.modCChunk c b ch (fun x => { x with st := .closed })).tryCdone c b d

/-! ## A chunk closes at its owner (R286, R287) -/

/-- Entry `j` of the context's update list. -/
def Dev.uent (s : Dev) (c j : Nat) : UEnt :=
  let a := (s.ctx c).upd.base + 64 * j
  parseUEnt j a (s.readBytes c ⟨.hbm, a⟩ 64)

/-- The update list's entry that covers a chunk is frozen. -/
def Dev.frozenChunk (s : Dev) (c b : Nat) (d : BktDesc) (ch : Nat) : Bool :=
  let u := (s.ctx c).upd
  u.live && (List.range u.entries).any (fun j =>
    let e := s.uent c j
    e.valid && e.frozen && e.bucket == b && decide (e.chunk0 ≤ ch)
      && decide (ch < e.chunk0 + 2 ^ (e.blkLog2 - d.chLog2)))

/-- What an owner closes a chunk with. -/
structure Closing where
  step : U32
  /-- Scale of the last data pass, when one is known, and its MAXB. -/
  f : Option Int
  maxb : Nat
  /-- LOWRANK: the same of the Q pass. -/
  fq : Int := 0
  maxbQ : Nat := 0
  n : Nat
  incl : U64 := 0
  resends : Nat
  nonfin : Bool
  exhausted : Bool
  /-- The result, element by element; none when no share was included. -/
  result : Option (List FF)

/-- FNEXT (R286). -/
def fnext (l head : Nat) (f : Int) (maxb : Nat) : Int :=
  max (-160) (min 127 (max (f - 2) (f + maxb - (30 - (l : Int) - (head : Int)))))

/-- The close record of a chunk. -/
def closeRec (step : U32) (f fq : Int) (st : Status) (fnv nonfin : Bool) (attempts n : Nat) : List Byte :=
  leBytes 8 (at' step.toNat 32 + at' (toBits 16 f) 16 + at' st.code 8 + at' (b2n fnv) 7 + at' (b2n nonfin) 6
      + at' (min 3 attempts) 4)
    ++ leBytes 8 (at' (toBits 16 fq) 48 + n % 8192)

/-- The result written to the owner's block, reached as a local window access; an entry whose offset is not on a line
fails the bucket with ALIGN (R191). -/
def Dev.writeResult (s : Dev) (c b : Nat) (d : BktDesc) (ch : Nat) (vs : List F32) : Dev :=
  let e := s.ownerAt c d.o (d.elem ch)
  if e.off % 64 != 0 then s.failBucket c b .align
  else
  match s.ownTarget c e.win (e.off + 4 * (d.elem ch % 2 ^ d.o.blkLog2)) d.cb 1 with
  | some a => s.writeBytes c a (f32Bytes vs)
  | none => s.failBucket c b .range

/-- The close at the owner: result, close record, scale entries; answers the NOTICE for an included
contributor. -/
def Dev.closeOwned (s : Dev) (c b : Nat) (d : BktDesc) (ch : Nat) (z : Closing) : ORec × Dev :=
  let l := ceilLog2 (s.parties d)
  let frozen := s.frozenChunk c b d ch
  let st : Status := if frozen then .frozen else if z.exhausted then .scaleExhausted
    else if 0 < z.resends then .rescale else .done
  let fnv := z.f.isSome && !z.exhausted
  let f := match z.f with | some f => if z.exhausted then f else fnext l d.head f z.maxb | none => 0
  let fq := if d.mode = 1 && !z.exhausted then fnext l d.head z.fq z.maxbQ else 0
  let s := if frozen then s.grxCountAt c b z.step .frozen z.n
    else if z.exhausted then s
    else match z.result with
      | none => s
      | some vs =>
        (s.postFlags c (flagsOf vs)).writeResult c b d ch (if z.nonfin then vs.map (fun _ => qNaN) else valsOf vs)
  let s := s.xWrite c d (d.area.close + 16 * ch) (closeRec z.step f fq st fnv z.nonfin z.resends z.n)
  let s := s.modBucket c b (fun k => if k.live then k.nextScales z.step ch fnv f fq else k)
  let s := s.modOChunkAt c b z.step ch (fun o => { o with closed := true, code := st, incl := z.incl, nonfin := z.nonfin })
  ({ tag := d.tag, ch := ch, step := z.step, type := rNotice, fnv := fnv, status := st.code, f := f, fq := fq, n := z.n,
     incl := z.incl }, s)

/-- A resend is asked for, or taken part in (R283).
DEDUCED, log entry 74. -/
def Dev.noteRescale (s : Dev) (c b : Nat) (step : U32) : Dev := (s.grxCountAt c b step .rescale 1).postFlags c fRescale

/-- The scale of a resend (R284): none when the chunk is exhausted.
DEDUCED, log entry 73. -/
def resendScale (attempt : Nat) (f : Int) (ovbits : Nat) : Option Int :=
  let g := f + (if attempt = 0 then ovbits else max ovbits 8 : Nat)
  if 2 ≤ attempt || 127 < g then none else some g

/-- The scale a pre-pass finds (R285). -/
def prepassScale (l head : Nat) (emax : Option Int) : Int :=
  match emax with
  | none => -160
  | some e => max (-160) (min 127 (e + (l : Int) - 29 + (head : Int)))

end Sys2Proof.Machine
end

