-- ==== Sys2Proof/Machine/Direct.lean ====
section
/-! DEFINITION. Direct reduction: admission (R278), contribution records (R279), the owner's share (R280), its
resends (R283), pre-pass (R285) and closes (R286). -/
namespace Sys2Proof.Machine
open Sys2Proof

/-! ## Contribution records (Table 11.4) -/

/-- An entry of a contribution record: F or EMAX, and what R270 reports. -/
def entryOf (v : Int) (z : Quant) : Nat :=
  at' (toBits 16 v) 16 + at' (b2n z.ovf) 15 + at' z.ovbits 8 + at' z.maxb 3 + at' (b2n z.nonfin) 2 + 2

/-- A contribution record of kind `kind` with entries for some chunks. -/
def contribRec (d : BktDesc) (step : U32) (kind attempt : Nat) (coord : BitVec 24) (es : List (Nat × Nat)) : List Byte :=
  padTo d.sr
    (leBytes 8 (at' d.tag.toNat 48 + at' kind 46 + at' attempt 44 + step.toNat) ++ leBytes 8 (at' coord.toNat 40)
      ++ zeros 48
      ++ (List.range d.n).flatMap (fun ch => leBytes 4 (match es.find? (fun e => e.1 == ch) with
          | some e => e.2
          | none => 0)))

/-- EMAX as an i16: -32,768 when there is none. -/
def emaxWord (e : Option Int) : Int := e.getD (-32768)

/-- A record put to a row of an owner, raising XHITCH there. A record of more than one packet goes as two puts, its
head with the second, so that no head stands before its entries (R277).
DEDUCED, log entry 71. -/
def Dev.sendRow (s : Dev) (c b : Nat) (d : BktDesc) (dst : BitVec 24) (t : Nat) (bs : List Byte) : Dev :=
  let off := d.xoff + d.area.contrib + t * d.sr
  let s := if bs.length ≤ 2048 then s
    else s.engineOp c b .record { kind := 1, dst := dst, win := d.xwin, off := off + 2048, data := bs.drop 2048 }
  s.engineOp c b .record {
    kind := 1, dst := dst, win := d.xwin, off := off, rse := true, rhitch := d.xhitch, data := bs.take 2048 }

/-- One chunk's data sent to its owner; answers its entry. -/
def Dev.sendChunk (s : Dev) (c b : Nat) (d : BktDesc) (dst : BitVec 24) (t attempt ch : Nat) (f : Int) :
    Nat × Dev :=
  let k := s.bucket c b
  let z := s.contribution c d k.step ch f false
  let a := d.area
  let off := if d.mode = 0 then a.accum + ch * d.cb else a.landing + (t * d.n + ch) * d.lc
  let s := s.modCChunk c b ch (fun x => { x with f := f, attempt := attempt, nonfin := z.quant.nonfin })
  let s := (s.postFlags c z.quant.flags).engineOp c b .data {
    kind := 3, dst := dst, win := d.xwin, off := d.xoff + off, data := z.bytes }
  (entryOf f z.quant, s)

/-- Data of chunks, then the record that describes it (R279).
DEDUCED, log entry 71. -/
def Dev.sendData (s : Dev) (c b : Nat) (d : BktDesc) (dst : BitVec 24) (t attempt : Nat) (chs : List (Nat × Int)) :
    Dev :=
  let step := (s.bucket c b).step
  let (es, s) := chs.foldl (fun (acc : List (Nat × Nat) × Dev) e =>
    let (w, s) := acc.2.sendChunk c b d dst t attempt e.1 e.2
    (acc.1 ++ [(e.1, w)], s)) ([], s)
  s.sendRow c b d dst t (contribRec d step 0 attempt s.fab.coord es)

/-- A PREPASS record for chunks without a usable scale (R285). -/
def Dev.sendPrepass (s : Dev) (c b : Nat) (d : BktDesc) (dst : BitVec 24) (t : Nat) (chs : List Nat) : Dev :=
  let step := (s.bucket c b).step
  let es := chs.map (fun ch => (ch, entryOf (emaxWord (s.passEmax c d ch false)) {}))
  let s := if dst == s.fab.coord then s else s.grxCount c b .prepass chs.length
  (chs.foldl (fun s ch => s.postFlags c (s.passFlags c d ch false)) s).sendRow c b d dst t (contribRec d step 1 0 s.fab.coord es)

/-! ## Admission (R278) -/

def Bucket.share? (k : Bucket) (x : BitVec 24) : Option Share := k.shares.find? (fun e => e.coord == x)
def Dev.modShare (s : Dev) (c b : Nat) (x : BitVec 24) (f : Share → Share) : Dev :=
  s.modBucket c b (fun k => { k with shares := k.shares.map (fun e => if e.coord == x then f e else e) })

/-- The fetch-add on the owner's admission word. -/
def Dev.askAdmission (s : Dev) (c b : Nat) (d : BktDesc) (x : BitVec 24) : Dev :=
  let k := s.bucket c b
  (s.modShare c b x (fun e => { e with asking := true })).engineOp c b (.admission x) {
    kind := 4, dst := x, win := d.xwin, off := d.xoff + 8 * (k.step.toNat % 2), rse := true, rhitch := d.xhitch
    operand := 1 }

/-- Every chunk of a share closes for this device with a status. -/
def Dev.closeShare (s : Dev) (c b : Nat) (d : BktDesc) (x : BitVec 24) (st : Status) : Dev :=
  let s := s.modShare c b x (fun e => { e with isOver := true, asking := false })
  (s.ownedBy c d x).foldl (fun s ch => s.closeChunk c b d ch st) s

/-- An admitted share is sent: data of the chunks with a usable scale, a PREPASS record for the rest.
DEDUCED, log entry 71. -/
def Dev.sendShare (s : Dev) (c b : Nat) (d : BktDesc) (x : BitVec 24) (t : Nat) : Dev :=
  let k := s.bucket c b
  let s := s.modShare c b x (fun e => { e with ticket := some t, asking := false })
  let chs := s.ownedBy c d x
  let ready := chs.filterMap (fun ch => (k.scaleOf ch false).map (fun f => (ch, f)))
  let rest := chs.filter (fun ch => (k.scaleOf ch false).isNone)
  let s := if ready.isEmpty then s else s.sendData c b d x t 0 ready
  if rest.isEmpty then s else s.sendPrepass c b d x t rest

/-- The old value of the admission word has come back. -/
def Dev.admitted (s : Dev) (c b : Nat) (x : BitVec 24) (old : U64) : Dev :=
  let k := s.bucket c b
  match k.desc, k.share? x with
  | some d, some e =>
    if !k.live || e.isOver || e.ticket.isSome then s
    else
      let v := old.toNat
      let closed := bit v 63
      let ahead := (fld v 62 32 + 2 ^ 31 - k.step.toNat % 2 ^ 31) % 2 ^ 31
      let t := fld v 31 0
      let full := decide (s.parties d ≤ t)
      if ahead = 0 then
        if closed then s.closeShare c b d x .late
        else if full then s.failBucket c b .range
        else s.sendShare c b d x t
      else if ahead < 2 ^ 30 then
        if closed then s.closeShare c b d x .late
        else if full then s.failBucket c b .range
        else
          let step := k.step + BitVec.ofNat 32 ahead
          (s.sendRow c b d x t (contribRec d step 2 0 s.fab.coord [])).closeShare c b d x .late
      else s.modShare c b x (fun e => { e with asking := false })
  | _, _ => s

/-- DEADLINE in nanoseconds, lengthened by the time the context was saved since `t` (R291).
DEDUCED, log entry 79. -/
def Ctx.savedSince (x : Ctx) (t : Nat) : Nat :=
  x.savedSpans.foldl (fun a e => a + (e.2 - max t e.1)) 0
/-- DEDUCED, log entry 79. -/
def Ctx.deadline (x : Ctx) (d : BktDesc) (t : U64) : Nat := t.toNat + 1000 * d.deadline + x.savedSince t.toNat
def Dev.overdue (s : Dev) (c : Nat) (d : BktDesc) (t : U64) : Bool :=
  decide ((s.ctx c).deadline d t ≤ s.time.ns.toNat)

/-- The fetch-add is repeated, or the share completes with STEPMISMATCH. -/
def Dev.admissionRetry (s : Dev) (c b : Nat) (x : BitVec 24) : Dev :=
  s.withBucket c b (fun s k d =>
    match k.share? x with
    | none => s
    | some e =>
      if e.isOver || e.asking || e.ticket.isSome then s
      else if s.overdue c d e.firstAt then s.closeShare c b d x .stepMismatch
      else s.askAdmission c b d x)

def execAdmissionRetry (c : CtxId) (b : Fin 1024) (owner : BitVec 24) (s : State) :
    Host.Outcome State Fault Refusal :=
  s.onDev (fun d => d.admissionRetry c.val b.val owner)

/-! ## The owner's share (R280) -/

/-- COUNT of the current step's admission word. -/
def Dev.admCount (s : Dev) (c : Nat) (d : BktDesc) (k : Bucket) : Nat :=
  fld (leNat (s.xRead c d (8 * (k.step.toNat % 2)) 8)) 31 0

/-- The share is closed to further tickets. -/
def Dev.shutShare (s : Dev) (c b : Nat) (d : BktDesc) : Dev :=
  let k := s.bucket c b
  let off := 8 * (k.step.toNat % 2)
  let old : U64 := BitVec.ofNat 64 (leNat (s.xRead c d off 8))
  let s := s.xWrite c d off (leBytes 8 (old + 0x8000000000000000).toNat)
  s.modBucket c b (fun k => { k with shareClosed := some (min (fld old.toNat 31 0) (s.parties d)) })

/-- The contributors of a closed share, once the record of every ticket is in. -/
def Bucket.included (k : Bucket) : Option (List Contrib) :=
  match k.shareClosed with
  | none => none
  | some n0 =>
    if (List.range n0).all (fun t => k.contribs.any (fun e => e.ticket == t)) then
      some (k.contribs.filter (fun e => decide (e.ticket < n0) && !e.void))
    else none

/-- The scale an owner holds for a chunk. -/
def Bucket.ownerScale (k : Bucket) (ch : Nat) : Option Int := ((k.ochunk ch).fv).orElse (fun _ => k.scaleOf ch false)

/-- The chunk's accumulator, and its landing rows, zeroed. -/
def Dev.zeroChunk (s : Dev) (c : Nat) (d : BktDesc) (ch : Nat) : Dev :=
  let s := s.xWrite c d (d.area.accum + ch * d.cb) (zeros d.cb)
  if d.lc = 0 then s
  else (List.range (d.ncm1 + 1)).foldl (fun s t =>
    s.xWrite c d (d.area.landing + (t * d.n + ch) * d.lc) (zeros d.lc)) s

/-- A landed row added into the accumulator, and zeroed (R279). -/
def Dev.addRow (s : Dev) (c : Nat) (d : BktDesc) (t ch : Nat) : Dev :=
  if d.lc = 0 then s
  else
    let off := d.area.landing + (t * d.n + ch) * d.lc
    let xs := d.landed (s.xRead c d off d.lc)
    let at0 := d.area.accum + ch * d.cb
    let old := readI32s (s.xRead c d at0 d.cb)
    (s.xWrite c d at0 (i32Bytes ((old.zip xs).map (fun e => e.1 + e.2)))).xWrite c d off (zeros d.lc)

/-- An entry of a DATA record (R279, R285). -/
def Dev.ownerData (c b : Nat) (d : BktDesc) (t : Nat) (coord : BitVec 24) (attempt : Nat) (s : Dev) (e : Nat × Nat) : Dev :=
  let k := s.bucket c b
  let ch := e.1
  let o := k.ochunk ch
  if o.closed || attempt != o.attempt || o.got.contains t then s
  else
    match k.ownerScale ch with
    | none =>
      if o.asked.contains t then s
      else
        (s.modOChunk c b ch (fun o => { o with asked := t :: o.asked })).sendORec c b d coord
          { tag := d.tag, ch := ch, step := k.step, type := rPrepass }
    | some f =>
      (s.addRow c d t ch).modOChunk c b ch (fun o => { o with
        got := t :: o.got, ovf := o.ovf || bit e.2 15, ovbits := max o.ovbits (fld e.2 14 8),
        maxb := max o.maxb (fld e.2 7 3), nonfin := o.nonfin || bit e.2 2,
        mism := o.mism || sext 16 (fld e.2 31 16) != f })

/-- An entry of a PREPASS record: answered with the owner's scale, or its EMAX is kept (R285). -/
def Dev.ownerEmax (c b : Nat) (d : BktDesc) (t : Nat) (coord : BitVec 24) (s : Dev) (e : Nat × Nat) : Dev :=
  let k := s.bucket c b
  let ch := e.1
  let o := k.ochunk ch
  if o.closed then s
  else
    match k.ownerScale ch with
    | some f =>
      if o.asked.contains t then s
      else
        ((s.modOChunk c b ch (fun o => { o with asked := t :: o.asked })).grxCount c b .prepass 1).sendORec c b d coord
          { tag := d.tag, ch := ch, step := k.step, type := rScale, f := f }
    | none =>
      let v := sext 16 (fld e.2 31 16)
      if o.emaxs.any (fun x => x.1 == t) then s
      else s.modOChunk c b ch (fun o => { o with
        emaxs := (t, if v = -32768 then none else some v) :: o.emaxs, asked := t :: o.asked })

/-- The record in a row, when it is one of the current step; one with a foreign TAG or an invalid KIND is not taken
(R277, R292).
DEDUCED, log entry 70. -/
def Dev.scanRow (c b : Nat) (d : BktDesc) (s : Dev) (t : Nat) : Dev :=
  let k := s.bucket c b
  let row := s.xRead c d (d.area.contrib + t * d.sr) d.sr
  let w := leAt row 0 8
  if !k.live || fld w 31 0 != k.step.toNat || row.all (· == 0) || fld w 63 48 != d.tag.toNat || fld w 47 46 == 3 then s
  else
    let coord : BitVec 24 := BitVec.ofNat 24 (fld (leAt row 8 8) 63 40)
    let kind := fld w 47 46
    let s := if k.contribs.any (fun e => e.ticket == t) then s
      else s.modBucket c b (fun k => { k with contribs := k.contribs ++ [⟨t, coord, kind == 2⟩] })
    let es := ((s.ownedBy c d s.fab.coord).map (fun ch => (ch, leAt row (64 + 4 * ch) 4))).filter (fun e => bit e.2 1)
    match kind with
    | 0 => es.foldl (Dev.ownerData c b d t coord (fld w 45 44)) s
    | 1 => es.foldl (Dev.ownerEmax c b d t coord) s
    | _ => s

/-- The scale of a pre-pass, once every contributor's EMAX is in: sent to all of them (R285). -/
def Dev.tryScale (c b : Nat) (d : BktDesc) (s : Dev) (ch : Nat) : Dev :=
  let k := s.bucket c b
  let o := k.ochunk ch
  match k.included, k.ownerScale ch with
  | some inc, none =>
    if o.closed || inc.isEmpty || !(inc.all (fun e => o.emaxs.any (fun x => x.1 == e.ticket))) then s
    else
      let es := o.emaxs.filter (fun x => inc.any (fun e => e.ticket == x.1))
      let emax := es.foldl (fun (b : Option Int) x =>
        match b, x.2 with
        | none, y => y
        | y, none => y
        | some a, some y => some (max a y)) none
      let f := prepassScale (ceilLog2 (s.parties d)) d.head emax
      let s := (s.zeroChunk c d ch).modOChunk c b ch (fun o => { o with
        fv := some f, got := [], ovf := false, ovbits := 0 })
      inc.foldl (fun s e => s.sendORec c b d e.coord
        { tag := d.tag, ch := ch, step := k.step, type := rScale, f := f }) (s.grxCount c b .prepass 1)
  | _, _ => s

/-- The sums of an accumulator as results (R286). -/
def Dev.directResult (s : Dev) (c : Nat) (d : BktDesc) (ch n : Nat) (f : Int) : List FF :=
  (readI32s (s.xRead c d (d.area.accum + ch * d.cb) d.cb)).map (fun q => scaledF q f (if d.mean then n else 1))

/-- A chunk closes, with a NOTICE to every included contributor (R288). -/
def Dev.closeDirect (s : Dev) (c b : Nat) (d : BktDesc) (ch : Nat) (inc : List Contrib) (f : Option Int)
    (exhausted : Bool) : Dev :=
  let o := (s.bucket c b).ochunk ch
  let n := inc.length
  let (r, s) := s.closeOwned c b d ch {
    step := (s.bucket c b).step, f := f, maxb := o.maxb, n := n, resends := o.resends, nonfin := o.nonfin, exhausted := exhausted
    result := if n = 0 then none else f.map (s.directResult c d ch n) }
  inc.foldl (fun s e => s.sendORec c b d e.coord r) s

/-- The owner evaluates a chunk (R283, R284, R286). -/
def Dev.evalChunk (c b : Nat) (d : BktDesc) (s : Dev) (ch : Nat) : Dev :=
  let k := s.bucket c b
  let o := k.ochunk ch
  match if k.live && !o.closed then k.included else none with
  | none => s
  | some inc =>
    if inc.isEmpty then s.closeDirect c b d ch inc (k.ownerScale ch) false
    else
      match k.ownerScale ch with
      | none => s
      | some f =>
        if !(inc.all (fun e => o.got.contains e.ticket)) then s
        else if o.ovf || o.mism then
          match resendScale o.attempt f o.ovbits with
          | none => s.closeDirect c b d ch inc (some f) true
          | some g =>
            let s := ((s.zeroChunk c d ch).modOChunk c b ch (fun o => { o with
              fv := some g, attempt := o.attempt + 1, resends := o.resends + 1, ovf := false, ovbits := 0, maxb := 0,
              nonfin := false, mism := false, got := [] })).noteRescale c b k.step
            inc.foldl (fun s e => s.sendORec c b d e.coord
              { tag := d.tag, ch := ch, step := k.step, type := rResend, attempt := o.attempt + 1, f := g }) s
        else s.closeDirect c b d ch inc (some f) false

/-- DEDUCED, log entry 25. Chunks of a direct bucket whose accumulator or landing rows `n` bytes of window `w` at
`off` touch. -/
def BktDesc.touched (d : BktDesc) (w off n : Nat) : List Nat :=
  let a := d.area
  let meets (at0 size : Nat) : Bool := decide (d.xoff + at0 < off + n) && decide (off < d.xoff + at0 + size)
  if d.ring || w != d.xwin then []
  else (List.range d.n).filter (fun ch => meets (a.accum + ch * d.cb) d.cb
    || (List.range (d.ncm1 + 1)).any (fun t => meets (a.landing + (t * d.n + ch) * d.lc) d.lc))

/-- An exact accumulate whose response reports OVF is noted by the owners' chunks that it reached (R283).
DEDUCED, log entry 25. -/
def Dev.noteAccOvf (s : Dev) (p : Packet) (out : AccOut) : Dev :=
  if !out.ovf then s
  else
    (s.ctx p.ctx).bkts.foldl (fun s e =>
      match e.2.desc with
      | none => s
      | some d => if !e.2.live then s else
        (d.touched p.win p.off p.data.length).foldl (fun s ch => s.modOChunk p.ctx e.1 ch (fun o => { o with
          ovf := true, ovbits := max o.ovbits out.ovbits })) s) s

def execAccRequest (s : State) : Host.Outcome State Fault Refusal :=
  s.onDev (fun d => d.serve' 0x03 0x81 (fun p => p.data.length) true (fun s p a =>
    let r := s.accPacket p a
    { r with dev := r.dev.noteAccOvf p r.acc }))

/-- The owner examines everything that has arrived; a record with an invalid KIND or a foreign TAG fails the bucket,
whatever its step (R292). -/
def Dev.serveShare (s : Dev) (c b : Nat) (d : BktDesc) : Dev :=
  let k := s.bucket c b
  if (List.range (s.parties d)).any (fun t => s.foreignAt c d k (d.area.contrib + t * d.sr) true) then
    s.failBucket c b .invalidWord
  else
  let n := s.admCount c d k
  let s := if n = 0 || k.t0.isSome then s else s.modBucket c b (fun k => { k with t0 := some s.time.ns })
  let s := if k.shareClosed.isNone && decide (s.parties d ≤ n) then s.shutShare c b d else s
  let s := (List.range (min n (s.parties d))).foldl (Dev.scanRow c b d) s
  let mine := s.ownedBy c d s.fab.coord
  let s := mine.foldl (Dev.tryScale c b d) s
  (mine.foldl (Dev.evalChunk c b d) s).tryOdone c b d

/-- An arrival at XHITCH: its credit is taken and the owner's share served (R277, R279). -/
def Dev.ownerArrival (s : Dev) (c b : Nat) : Dev :=
  s.withBucket c b (fun s _ d =>
    if d.ring then s
    else
      match s.takeCredits c b d.xhitch.toNat with
      | (.taken, s) => s.serveShare c b d
      | (_, s) => s)

def execOwnerArrival (c : CtxId) (b : Fin 1024) (s : State) : Host.Outcome State Fault Refusal :=
  s.onDev (fun d => d.ownerArrival c.val b.val)

/-- DEADLINE after the first admission the share closes (R280). -/
def Dev.shareDeadline (s : Dev) (c b : Nat) : Dev :=
  s.withBucket c b (fun s k d =>
    match k.t0, k.shareClosed with
    | some t, none => if s.overdue c d t then (s.shutShare c b d).serveShare c b d else s
    | _, _ => s)

def execShareDeadline (c : CtxId) (b : Fin 1024) (s : State) : Host.Outcome State Fault Refusal :=
  s.onDev (fun d => d.shareDeadline c.val b.val)

end Sys2Proof.Machine
end

