-- ==== Sys2Proof/Machine/RingPass.lean ====
section
/-! DEFINITION. Ring reduction: slot headers (Table 11.4), passes along the line (R281, R282), the owner's end of
a pass (R274, R283 to R286), and the commands of ring slots. -/
namespace Sys2Proof.Machine
open Sys2Proof

/-! ## Slot headers (Table 11.4) -/

structure SHdr where
  tag : U16
  ch : Nat
  step : U32
  f : Int
  emax : Int := -32768
  ovf : Bool := false
  ovbits : Nat := 0
  maxb : Nat := 0
  nonfin : Bool := false
  prepass : Bool := false
  qpass : Bool := false
  attempt : Nat := 0
  count : Nat := 0
  t0 : U64
  incl : U64 := 0
  mask : U64 := 0
  deriving DecidableEq, Repr

def SHdr.bytes (h : SHdr) : List Byte :=
  leBytes 8 (at' h.tag.toNat 48 + at' h.ch 32 + h.step.toNat)
    ++ leBytes 8 (at' (toBits 16 h.f) 48 + at' (toBits 16 h.emax) 32 + at' (b2n h.ovf) 31 + at' h.ovbits 24
        + at' h.maxb 19 + at' (b2n h.nonfin) 18 + at' (b2n h.prepass) 17 + at' (b2n h.qpass) 16 + at' h.attempt 14
        + at' h.count 7)
    ++ leBytes 8 h.t0.toNat ++ leBytes 8 h.incl.toNat ++ leBytes 8 h.mask.toNat ++ zeros 24

def parseSHdr (bs : List Byte) : SHdr :=
  let a := leAt bs 0 8
  let w := leAt bs 8 8
  { tag := BitVec.ofNat 16 (fld a 63 48), ch := fld a 47 32, step := BitVec.ofNat 32 (fld a 31 0),
    f := sext 16 (fld w 63 48), emax := sext 16 (fld w 47 32), ovf := bit w 31, ovbits := fld w 30 24,
    maxb := fld w 23 19, nonfin := bit w 18, prepass := bit w 17, qpass := bit w 16, attempt := fld w 15 14,
    count := fld w 13 7, t0 := BitVec.ofNat 64 (leAt bs 16 8), incl := BitVec.ofNat 64 (leAt bs 24 8),
    mask := BitVec.ofNat 64 (leAt bs 32 8) }

/-- A slot: header bytes and data bytes. -/
abbrev Slot' := List Byte × List Byte

/-! ## The line (R281) -/

/-- The device's place on the line, the coordinate at a place, and the places of a chunk. -/
def Dev.hop (s : Dev) (d : BktDesc) : Nat := coordDim s.fab.coord d.rdim
def Dev.lineAt (s : Dev) (d : BktDesc) (h : Nat) : BitVec 24 :=
  let e := s.fab.extent d.rdim
  moveCoord s.fab d.rdim ((h + e - s.hop d % e) % e)
def Dev.line (s : Dev) (d : BktDesc) : List (BitVec 24) := (List.range (s.fab.extent d.rdim)).map (s.lineAt d)
/-- The place of a chunk's owner, and of its first hop. -/
def Dev.ownerHop (s : Dev) (c : Nat) (d : BktDesc) (ch : Nat) : Nat := coordDim (s.chunkOwner c d ch) d.rdim
def Dev.firstHop (s : Dev) (c : Nat) (d : BktDesc) (ch : Nat) : Nat := (s.ownerHop c d ch + 1) % s.fab.extent d.rdim
def Dev.isFirst (s : Dev) (c : Nat) (d : BktDesc) (ch : Nat) : Bool := s.firstHop c d ch == s.hop d
def hopBit (h : Nat) : U64 := BitVec.ofNat 64 (2 ^ h)

/-- Slots ready to go on are sent while credits last, round-robin over the next device's slots (R281). -/
def Dev.drain (s : Dev) (c b : Nat) (d : BktDesc) : Nat → Dev
  | 0 => s
  | n + 1 =>
    let k := s.bucket c b
    match k.outq with
    | [] => s
    | (h, bs) :: rest =>
      match s.takeCredits c b (d.xhitch.toNat + 3) with
      | (.taken, s) =>
        let s := s.modBucket c b (fun k => { k with outq := rest, nextOut := (k.nextOut + 1) % 4 })
        (s.engineOp c b .data {
          kind := 3, dst := s.lineAt d (s.hop d + 1), win := d.xwin
          off := d.xoff + d.area.slots + k.nextOut * (d.cb + 64), rse := true, rhitch := d.xhitch + 2
          data := padTo d.cb bs ++ h }).drain c b d n
      | (_, s) => s

def Dev.drainAll (s : Dev) (c b : Nat) (d : BktDesc) : Dev := s.drain c b d (s.bucket c b).outq.length

/-- Each present byte group of a slot with a contribution added. -/
def addSlot (bs : List Byte) (q : List Int) : List Byte :=
  i32Bytes (((readI32s bs).zip q).map (fun e => e.1 + e.2)) ++ bs.drop (4 * q.length)

/-- This hop's contribution to a pass added to the slot (R282). -/
def Dev.contribute (s : Dev) (c b : Nat) (d : BktDesc) (h : SHdr) (bs : List Byte) : Slot' × Dev :=
  let step := (s.bucket c b).step
  let h := { h with incl := h.incl ||| hopBit (s.hop d), count := h.count + 1 }
  let s := s.modCChunk c b h.ch (fun x => { x with sent := true })
  if h.prepass then
    let e := emaxWord (s.passEmax c d h.ch h.qpass)
    let s := if s.ownerHop c d h.ch == s.hop d then s else s.grxCount c b .prepass 1
    let s := s.postFlags c (s.passFlags c d h.ch h.qpass)
    (({ h with emax := max h.emax e }.bytes, bs), s)
  else
    let z := (s.contribution c d step h.ch h.f h.qpass).quant
    let s := if h.attempt != 0 && s.ownerHop c d h.ch != s.hop d && !s.isFirst c d h.ch then s.noteRescale c b step else s
    let s := (s.postFlags c z.flags).modCChunk c b h.ch (fun x => { x with
      f := if h.qpass then x.f else h.f, fq := if h.qpass then h.f else x.fq, attempt := h.attempt
      nonfin := z.nonfin || (h.qpass && x.nonfin) })
    (({ h with ovf := h.ovf || z.ovf, ovbits := max h.ovbits z.ovbits, maxb := max h.maxb z.maxb,
               nonfin := h.nonfin || z.nonfin }.bytes, addSlot bs z.q), s)

/-! ## The owner's end of a pass -/

/-- An owner record to the first hop of a chunk. -/
def Dev.toFirst (s : Dev) (c b : Nat) (d : BktDesc) (r : ORec) : Dev :=
  s.sendORec c b d (s.lineAt d (s.firstHop c d r.ch)) r

/-- The P pass is over: P̂ goes to every member, then the record PHAT (R274).
DEDUCED, log entry 78. -/
def Dev.finishP (s : Dev) (c b : Nat) (d : BktDesc) (h : SHdr) (bs : List Byte) : Dev :=
  let n := d.rows * d.rank
  let sp := (readI32s (bs.take (4 * n))).map (fun q => scaledF q h.f 1)
  let (p, fl) := mgs d.rows d.rank (valsOf sp)
  let s := s.postFlags c (flagsOf sp ||| fl)
  let s := s.modOChunkAt c b h.step h.ch (fun o => { o with
    fp := h.f, maxbP := h.maxb, n := h.count, incl := h.incl, attempt := 0, nonfin := h.nonfin })
  (s.line d).foldl (fun s x =>
    (s.engineOp c b .data {
      kind := 1, dst := x, win := d.xwin, off := d.xoff + d.area.lrr + h.ch * d.cb, data := f32Bytes p }).sendORec
      c b d x { tag := d.tag, ch := h.ch, step := h.step, type := rPhat, incl := h.incl }) s

/-- The chunk closes at the end of its last pass: its result, Q̂ and the NOTICE to the line, and the owner's own
contribution (R286, R288). -/
def Dev.closeRing (s : Dev) (c b : Nat) (d : BktDesc) (h : SHdr) (bs : List Byte) (exhausted : Bool) : Dev :=
  let o := (s.bucket c b).ochunkAt h.step h.ch
  let low := d.mode == 1
  let n := if low then o.n else h.count
  let n := if low && !h.qpass then h.count else n
  let incl := if low && h.qpass then o.incl else h.incl
  let qs := (readI32s (bs.take (4 * d.cols * d.rank))).map (fun q => scaledF q h.f n)
  let qhat := valsOf qs
  let members := (s.line d).filter (fun x => x != s.fab.coord)
  let qoff := d.area.lrr + h.ch * d.cb + 4 * d.rows * d.rank
  let s := if low && !exhausted then
      members.foldl (fun s x => s.engineOp c b .data {
        kind := 1, dst := x, win := d.xwin, off := d.xoff + qoff, data := f32Bytes qhat })
        ((s.postFlags c (flagsOf qs)).xWrite c d qoff (f32Bytes qhat))
    else s
  let result := if low then s.lowRank c d h.ch
    else (readI32s bs).map (fun q => scaledF q h.f (if d.mean then n else 1))
  let (r, s) := s.closeOwned c b d h.ch {
    step := h.step, f := some (if low && h.qpass then o.fp else h.f), maxb := if low && h.qpass then o.maxbP else h.maxb
    fq := h.f, maxbQ := h.maxb, n := n, incl := incl, resends := o.resends, nonfin := o.nonfin || h.nonfin
    exhausted := exhausted, result := some result }
  let st (x : BitVec 24) : Nat :=
    if r.status = Status.frozen.code || r.status = Status.scaleExhausted.code || bit incl.toNat (coordDim x d.rdim) then
      r.status
    else Status.late.code
  let s := members.foldl (fun s x => s.sendORec c b d x { r with status := st x }) s
  s.tryOdone c b d

/-- The status with which an owner closes its own contribution to a chunk it has closed. -/
def Dev.ownStatus (s : Dev) (c b : Nat) (d : BktDesc) (ch : Nat) : Status :=
  let k := s.bucket c b
  let o := k.ochunk ch
  if o.code = Status.frozen || o.code = Status.scaleExhausted then o.code
  else if bit o.incl.toNat (s.hop d) then o.code
  else if k.missed.contains (ch, k.step) then .stepMismatch else .late

/-- The owner's own contribution to a chunk it has closed, once it is prepared; its Q becomes Q̂ then, as every
member's does (R274, R275). -/
def Dev.closeOwn (c b : Nat) (d : BktDesc) (s : Dev) (ch : Nat) : Dev :=
  let k := s.bucket c b
  if (k.ochunk ch).closed && (k.cchunk ch).st == .open then
    let st := s.ownStatus c b d ch
    let s := if d.mode = 1 && st != .scaleExhausted then s.writeQ c d ch (s.readQhat c d ch) else s
    s.closeChunk c b d ch st (k.missed.contains (ch, k.step))
  else s

/-- A pass has reached its owner: pre-pass, resend, P pass, close (R274, R283 to R286).
DEDUCED, log entry 78. -/
def Dev.ownerRing (s : Dev) (c b : Nat) (d : BktDesc) (h : SHdr) (bs : List Byte) : Dev :=
  let r : ORec := { tag := d.tag, ch := h.ch, step := h.step, type := rScale, incl := h.incl }
  let withF (r : ORec) (f : Int) : ORec := if h.qpass then { r with fq := f } else { r with f := f }
  if h.prepass then
    let f := prepassScale (ceilLog2 (s.parties d)) d.head (if h.emax = -32768 then none else some h.emax)
    (s.grxCountAt c b h.step .prepass 1).toFirst c b d (withF r f)
  else if h.ovf then
    match resendScale h.attempt h.f h.ovbits with
    | none => Dev.closeOwn c b d (s.closeRing c b d h bs true) h.ch
    | some f =>
      let s := (s.modOChunkAt c b h.step h.ch (fun o => { o with resends := o.resends + 1 })).noteRescale c b h.step
      s.toFirst c b d (withF { r with type := rResend, attempt := h.attempt + 1 } f)
  else if d.mode == 1 && !h.qpass then s.finishP c b d h bs
  else Dev.closeOwn c b d (s.closeRing c b d h bs false) h.ch

/-- A slot goes on: to the next hop, or to its end at the owner. -/
def Dev.passOn (s : Dev) (c b : Nat) (d : BktDesc) (z : Slot') : Dev :=
  let h := parseSHdr z.1
  if s.ownerHop c d h.ch == s.hop d then s.ownerRing c b d h z.2
  else (s.modBucket c b (fun k => { k with outq := k.outq ++ [z] })).drainAll c b d

/-! ## A hop (R282) -/

/-- What a hop does with a slot. -/
inductive HopDo where
  | wait | add | pass
  deriving DecidableEq, Repr

/-- The hop's choice for a slot of the current step. -/
def Dev.hopDo (s : Dev) (c b : Nat) (d : BktDesc) (h : SHdr) : HopDo :=
  let k := s.bucket c b
  let x := k.cchunk h.ch
  if h.mask != 0 then
    if !bit h.mask.toNat (s.hop d) || x.st == .closed then .pass
    else if x.st == .idle || (h.qpass && !x.phat) then .wait
    else .add
  else
    match k.readyAt with
    | none => if s.overdue c d h.t0 then .pass else .wait
    | some t => if x.st == .open && decide (t.toNat ≤ (s.ctx c).deadline d h.t0) then .add else .pass

/-- One slot at this hop: it waits, takes the hop's contribution, or goes on unchanged.
DEDUCED, log entry 77. -/
def Dev.handleSlot (c b : Nat) (d : BktDesc) (s : Dev) (z : Slot') : Dev :=
  let k := s.bucket c b
  let h := parseSHdr z.1
  if !k.live then s
  else if h.tag != d.tag then s.failBucket c b .invalidWord
  else if h.step != k.step then
    let s := if k.missed.contains (h.ch, h.step) then s
      else (s.modBucket c b (fun k => { k with missed := (h.ch, h.step) :: k.missed })).grxCountAt c b h.step .stepMis 1
    s.passOn c b d z
  else
    let s := s.modBucket c b (fun k => { k with came := true })
    match s.hopDo c b d h with
    | .wait => s.modBucket c b (fun k => { k with inq := k.inq ++ [z] })
    | .pass => s.passOn c b d z
    | .add =>
      let (z, s) := s.contribute c b d h z.2
      s.passOn c b d z

/-- The slots that wait at this hop are looked at again. -/
def Dev.rerun (s : Dev) (c b : Nat) (d : BktDesc) : Dev :=
  let q := (s.bucket c b).inq
  q.foldl (Dev.handleSlot c b d) (s.modBucket c b (fun k => { k with inq := [] }))

/-! ## The first hop (R282, R285) -/

/-- A pass of a chunk begins at its first hop: with scale `f`, or as a pre-pass without one.
DEDUCED, log entry 77. -/
def Dev.beginPass (s : Dev) (c b : Nat) (d : BktDesc) (ch : Nat) (f : Option Int) (attempt : Nat) (mask : U64) :
    Dev :=
  let k := s.bucket c b
  let x := k.cchunk ch
  let (z, s) := s.contribute c b d {
    tag := d.tag, ch := ch, step := k.step, f := f.getD 0, prepass := f.isNone, qpass := x.phat, attempt := attempt
    t0 := x.t0, mask := mask } (zeros d.cb)
  s.passOn c b d z

/-- The first pass, or the Q pass, of a chunk starts when its scale is usable, and its pre-pass when not. -/
def Dev.firstPass (c b : Nat) (d : BktDesc) (s : Dev) (ch : Nat) : Dev :=
  let k := s.bucket c b
  let x := k.cchunk ch
  s.beginPass c b d ch (k.scaleOf ch x.phat) 0 x.mask

/-! ## Commands of ring slots -/

/-- The next slot used is copied out and zeroed, and its credit returned to the device before (R277, R281).
DEDUCED, log entry 76. -/
def Dev.takeSlot (s : Dev) (c b : Nat) (d : BktDesc) : Option Slot' × Dev :=
  let k := s.bucket c b
  let off := d.area.slots + k.nextIn * (d.cb + 64)
  let bs := s.xRead c d off (d.cb + 64)
  let hd := bs.drop d.cb
  if hd.all (· == 0) then (none, s)
  else
    let s := (s.xWrite c d off (zeros (d.cb + 64))).modBucket c b (fun k => { k with nextIn := (k.nextIn + 1) % 4 })
    let e := s.fab.extent d.rdim
    (some (hd, bs.take d.cb), s.engineOp c b .data {
      kind := 7, dst := s.lineAt d (s.hop d + e - 1), rse := true, rhitch := d.xhitch + 3 })

def Dev.slotArrival (s : Dev) (c b : Nat) : Dev :=
  s.withBucket c b (fun s _ d =>
    if !d.ring then s
    else
      match s.takeCredits c b (d.xhitch.toNat + 2) with
      | (.taken, s) =>
        match s.takeSlot c b d with
        | (some z, s) => Dev.handleSlot c b d s z
        | (none, s) => s
      | (_, s) => s)

def execRingSlotArrival (c : CtxId) (b : Fin 1024) (s : State) : Host.Outcome State Fault Refusal :=
  s.onDev (fun d => d.slotArrival c.val b.val)

/-- Slots whose deadline has passed with this hop's contribution not ready go on unchanged (R282). -/
def execRingDeadline (c : CtxId) (b : Fin 1024) (s : State) : Host.Outcome State Fault Refusal :=
  s.onDev (fun d => d.withBucket c.val b.val (fun s _ d => s.rerun c.val b.val d))

/-- A slot credit has come back: slots that wait for one are sent (R281). -/
def execSlotCredit (c : CtxId) (b : Fin 1024) (s : State) : Host.Outcome State Fault Refusal :=
  s.onDev (fun d => d.withBucket c.val b.val (fun s _ d => s.drainAll c.val b.val d))

end Sys2Proof.Machine
end

