-- ==== Sys2Proof/Machine/Contribute.lean ====
section
/-! DEFINITION. A contributor's part in the gradient exchange: the start of a bucket's step (R267, R269, R275,
R278, R282) and the owner records that reach it (R274, R283, R285, R288). -/
namespace Sys2Proof.Machine
open Sys2Proof

/-! ## The start of a step -/

/-- v̄ = g + e of the whole bucket, written to the error-feedback region (R269). -/
def Dev.prepareEf (s : Dev) (c : Nat) (d : BktDesc) (valid : Bool) : Dev :=
  let (g, fl) := s.valuesF32 c d.g
  let e := if valid then s.efRead c d 0 d.total else List.replicate d.total (FF.of 0)
  let vs := (g.zip e).map (fun x => FF.op2 addF (FF.of x.1) x.2)
  let flags := fl ||| flagsOf vs
  (s.postFlags c flags).efWrite c d 0 (vs.map (fun v => F32.num v.1))

/-- The seed of Q in every chunk (R275). -/
def Dev.seedAll (s : Dev) (c : Nat) (d : BktDesc) : Dev :=
  let n := d.cols * d.rank
  (List.range d.n).foldl (fun s ch =>
    let q := (List.range n).map (fun i => seedQ d.tag (ch * n + i))
    (s.postFlags c (flagsOf q)).writeQ c d ch (valsOf q)) s

/-- Owners of the bucket's chunks, each once. -/
def Dev.owners (s : Dev) (c : Nat) (d : BktDesc) : List (BitVec 24) :=
  ((List.range d.n).map (s.chunkOwner c d)).eraseDups

/-- Direct reduction: a share for each owner, and its admission (R278). -/
def Dev.startShares (s : Dev) (c b : Nat) (d : BktDesc) : Dev :=
  let os := s.owners c d
  let s := s.modBucket c b (fun k => { k with shares := os.map (fun x => ({ coord := x, firstAt := s.time.ns } : Share)) })
  os.foldl (fun s x => s.askAdmission c b d x) s

/-- Ring reduction: the chunks whose first hop this is start, and slots that wait are looked at (R282). -/
def Dev.startRing (s : Dev) (c b : Nat) (d : BktDesc) : Dev :=
  let mine := (List.range d.n).filter (s.isFirst c d)
  let s := mine.foldl (Dev.firstPass c b d) s
  let s := s.rerun c b d
  (List.range d.n).foldl (Dev.closeOwn c b d) s

/-- The step has started: the contribution to every chunk is prepared (R267). -/
def Dev.beginStep (s : Dev) (c b : Nat) (d : BktDesc) : Dev :=
  let valid := (s.bucket c b).efValid
  let s := if d.mode = 1 && !valid then s.seedAll c d else s
  let s := s.prepareEf c d valid
  let now := s.time.ns
  let s := s.modBucket c b (fun k => { k with
    st := .exchanging, readyAt := some now
    cchunks := (List.range d.n).map (fun ch => (ch, { k.cchunk ch with st := .open, t0 := now })) })
  let s := if d.ring then s.startRing c b d else s.startShares c b d
  s.tryOdone c b d

/-- The engine of a bucket may start its step. -/
def Dev.mayStart (s : Dev) (c : Nat) (k : Bucket) : Bool :=
  let x := s.ctx c
  k.st == .waiting && !x.faultHold && !x.quiesced && !s.up.quiesced.contains 3 && !x.holds k.step

def Dev.bucketStart (s : Dev) (c b : Nat) : Dev :=
  s.withBucket c b (fun s k d =>
    if !s.mayStart c k then s
    else
      s.withPool (s.descLines c d.g) (s.descLines c d.g) (fun s =>
        match s.takeCredits c b d.starth.toNat with
        | (.taken, s) => s.beginStep c b d
        | (_, s) => s))

def execBucketStart (c : CtxId) (b : Fin 1024) (s : State) : Host.Outcome State Fault Refusal :=
  s.onDev (fun d => d.bucketStart c.val b.val)

/-! ## Owner records -/

/-- The key under which a record counts as handled. -/
def ORec.key (r : ORec) (x : CChunk) : Nat × U32 × Nat × Bool := (r.type, r.step, r.attempt, x.phat)

/-- The NOTICE of a step whose passes this hop let by, for a chunk to whose own step it has not contributed. -/
def Bucket.passedBy (k : Bucket) (ch : Nat) (step : U32) : Bool :=
  k.missed.contains (ch, step) && !(k.cchunk ch).sent

/-- An owner record of a type that this contributor has not handled. -/
def Dev.findRec (s : Dev) (c : Nat) (d : BktDesc) (k : Bucket) (type : Nat) : Option ORec :=
  ((List.range d.n).map (fun ch => (ch, parseORec (s.xRead c d (d.area.owner + 64 * ch) 64)))).findSome? (fun e =>
    let x := k.cchunk e.1
    let r := e.2
    if r.type == type && r.ch == e.1 && x.st == .open && !x.seen.contains (r.key x)
        && (r.step == k.step || (k.passedBy e.1 r.step && type == rNotice)) then some r
    else none)

/-- An owner record of the type with a foreign TAG has come, whatever its step (R292).
DEDUCED, log entry 70. -/
def Dev.foreignRec (s : Dev) (c : Nat) (d : BktDesc) (k : Bucket) (type : Nat) : Bool :=
  (List.range d.n).any (fun ch =>
    let off := d.area.owner + 64 * ch
    s.foreignAt c d k off false && fld (leNat (s.xRead c d (off + 8) 8)) 63 60 == type)

/-- A record of the type is taken with its credit, marked, and acted on; a foreign TAG fails the bucket
(R277, R292).
DEDUCED, log entry 70. -/
def Dev.onRec (s : Dev) (c b type : Nat) (act : Dev → BktDesc → CChunk → ORec → Dev) : Dev :=
  s.withBucket c b (fun s k d =>
    if s.foreignRec c d k type then
      match s.takeCredits c b (d.xhitch.toNat + 1) with
      | (.taken, s) => s.failBucket c b .invalidWord
      | (_, s) => s
    else
    match s.findRec c d k type with
    | none => s
    | some r =>
      match s.takeCredits c b (d.xhitch.toNat + 1) with
      | (.taken, s) =>
        let x := k.cchunk r.ch
        act (s.modCChunk c b r.ch (fun x => { x with seen := r.key x :: x.seen })) d x r
      | (_, s) => s)

/-- The status a NOTICE closes a chunk with: the one it carries, but a contribution that was left out because this hop
was at another step, or a NOTICE of such a step, closes it STEPMISMATCH (R282, R289). -/
def noticeStatus (k : Bucket) (r : ORec) : Status :=
  let st := ([Status.done, .rescale, .late, .stepMismatch, .frozen, .scaleExhausted].find?
    (fun st => st.code == r.status)).getD .late
  if r.step != k.step || (st == .late && k.missed.contains (r.ch, r.step)) then .stepMismatch else st

/-- The scale entries that a NOTICE carries, for the step after it (R288). -/
def Dev.storeNext (s : Dev) (c b : Nat) (d : BktDesc) (r : ORec) : Dev :=
  if s.chunkOwner c d r.ch == s.fab.coord then s
  else s.modBucket c b (fun k => k.nextScales r.step r.ch r.fnv r.f r.fq)

def Dev.takeNotice (c b : Nat) (s : Dev) (d : BktDesc) (_ : CChunk) (r : ORec) : Dev :=
  let s := s.storeNext c b d r
  let s := if d.mode = 1 && r.status != Status.scaleExhausted.code then s.writeQ c d r.ch (s.readQhat c d r.ch) else s
  let k := s.bucket c b
  s.closeChunk c b d r.ch (noticeStatus k r) (k.missed.contains (r.ch, r.step))

def execNotice (c : CtxId) (b : Fin 1024) (s : State) : Host.Outcome State Fault Refusal :=
  s.onDev (fun d => d.onRec c.val b.val rNotice (Dev.takeNotice c.val b.val))

/-- The ticket and owner under which a chunk of this contributor was admitted. -/
def Dev.ticketOf (s : Dev) (c : Nat) (d : BktDesc) (k : Bucket) (ch : Nat) : Option (BitVec 24 × Nat) :=
  let x := s.chunkOwner c d ch
  (k.share? x).bind (fun e => e.ticket.map (fun t => (x, t)))

/-- A chunk sent again: by direct reduction to its owner, or as a new pass of the ring (R283). -/
def Dev.takeResend (c b : Nat) (s : Dev) (d : BktDesc) (x : CChunk) (r : ORec) : Dev :=
  if d.ring then
    if s.isFirst c d r.ch then
      (s.noteRescale c b r.step).beginPass c b d r.ch (some (if x.phat then r.fq else r.f)) r.attempt r.incl
    else s
  else
    match s.ticketOf c d (s.bucket c b) r.ch with
    | none => s
    | some (o, t) =>
      (if o == s.fab.coord then s else s.noteRescale c b r.step).sendData c b d o t r.attempt [(r.ch, r.f)]

def execResend (c : CtxId) (b : Fin 1024) (s : State) : Host.Outcome State Fault Refusal :=
  s.onDev (fun d => d.onRec c.val b.val rResend (Dev.takeResend c.val b.val))

/-- The owner asks for this contributor's EMAX (R285). -/
def Dev.takePrepass (c b : Nat) (s : Dev) (d : BktDesc) (_ : CChunk) (r : ORec) : Dev :=
  match s.ticketOf c d (s.bucket c b) r.ch with
  | none => s
  | some (o, t) => s.sendPrepass c b d o t [r.ch]

def execPrepass (c : CtxId) (b : Fin 1024) (s : State) : Host.Outcome State Fault Refusal :=
  s.onDev (fun d => d.onRec c.val b.val rPrepass (Dev.takePrepass c.val b.val))

/-- The scale a pre-pass found: the data goes out with it (R285). -/
def Dev.takeScale (c b : Nat) (s : Dev) (d : BktDesc) (x : CChunk) (r : ORec) : Dev :=
  if d.ring then
    if s.isFirst c d r.ch then s.beginPass c b d r.ch (some (if x.phat then r.fq else r.f)) 0 r.incl else s
  else
    match s.ticketOf c d (s.bucket c b) r.ch with
    | none => s
    | some (o, t) => s.sendData c b d o t 0 [(r.ch, r.f)]

def execScale (c : CtxId) (b : Fin 1024) (s : State) : Host.Outcome State Fault Refusal :=
  s.onDev (fun d => d.onRec c.val b.val rScale (Dev.takeScale c.val b.val))

/-- P̂ has arrived: the Q pass of the chunk begins (R274). -/
def Dev.takePhat (c b : Nat) (s : Dev) (d : BktDesc) (_ : CChunk) (r : ORec) : Dev :=
  let s := s.modCChunk c b r.ch (fun x => { x with phat := true, mask := r.incl, attempt := 0 })
  (if s.isFirst c d r.ch then Dev.firstPass c b d s r.ch else s).rerun c b d

def execPhat (c : CtxId) (b : Fin 1024) (s : State) : Host.Outcome State Fault Refusal :=
  s.onDev (fun d => d.onRec c.val b.val rPhat (Dev.takePhat c.val b.val))

end Sys2Proof.Machine
end

