-- ==== Sys2Proof/Machine/Roots.lean ====
section
/-! DEFINITION. Preconditioner roots: the coupled Newton iteration (R307) and root jobs (R305, R306). -/
namespace Sys2Proof.Machine
open Sys2Proof

/-! ## Products of a root job (R307) -/

/-- A BF16 part of an FP32 operand, as FP32, with the flags of its rounding (R83). -/
def bfPart (x : F32) : FF :=
  let (k, f) := encodeElem 0x7 (F32.num x) .rne
  let (v, g) := decodeElem 0x7 k
  (v.toF32.1, f ||| g ||| v.toF32.2)

/-- The high part and the remainder. -/
def splitBf (x : F32) : FF × FF := let h := bfPart x; (h, FF.op1 bfPart (FF.op1 (subF x) h))

/-- The flags of the split operands. -/
def splitFlags (xs : List (FF × FF)) : Flags := flagsOf (xs.map Prod.fst) ||| flagsOf (xs.map Prod.snd)

/-- One element of a product: three accumulating MMAs over the split operands. -/
def rootElem (a b : List (FF × FF)) : FF :=
  let n (xs : List FF) : List Num := xs.map (fun x => F32.num x.1)
  let hi (xs : List (FF × FF)) : List Num := n (xs.map Prod.fst)
  let lo (xs : List (FF × FF)) : List Num := n (xs.map Prod.snd)
  let r1 := mmaElem 0 (hi a) (hi b)
  let r2 := mmaElem r1.1 (hi a) (lo b)
  let r3 := mmaElem r2.1 (lo a) (hi b)
  (r3.1, r1.2 ||| r2.2 ||| r3.2 ||| splitFlags a ||| splitFlags b)

/-- The product of two n × n matrices, row-major. -/
def rootMul (n : Nat) (x y : List F32) : List FF :=
  let rows := (groupsOf n x).map (fun r => r.map splitBf)
  let cols := (groupsOf n (transp n n y)).map (fun r => r.map splitBf)
  rows.flatMap (fun r => cols.map (fun k => rootElem r k))

/-- A diagonal matrix with one value. -/
def diagF (n : Nat) (x : F32) : List F32 :=
  (List.range n).flatMap (fun i => (List.range n).map (fun j => if i = j then x else 0))

/-- (5 × I - M) × 0.25, each element rounded once. -/
def rootT (n : Nat) (m : List F32) : List FF :=
  ((diagF n 0x40A00000).zip m).map (fun e =>
    if isFinite e.2 then roundDy (((F32.dy e.1).add (F32.dy e.2).neg).scale (-2))
    else FF.op1 (fun x => mulF x 0x3E800000) (subF e.1 e.2))

/-- One iteration on X and M. -/
def rootIter (n : Nat) (z : List F32 × List F32 × Flags) : List F32 × List F32 × Flags :=
  let t := rootT n z.2.1
  let x := rootMul n z.1 (valsOf t)
  let t2 := rootMul n (valsOf t) (valsOf t)
  let t4 := rootMul n (valsOf t2) (valsOf t2)
  let m := rootMul n (valsOf t4) z.2.1
  (valsOf x, valsOf m, z.2.2 ||| flagsOf t ||| flagsOf x ||| flagsOf t2 ||| flagsOf t4 ||| flagsOf m)

def iterate {α : Type} (f : α → α) : Nat → α → α
  | 0, x => x
  | k + 1, x => iterate f k (f x)

/-- `root` of R307. -/
def newtonRoot (n : Nat) (st : List F32) (epsr : F32) (iters : Nat) : List F32 × Flags :=
  let diag := (List.range n).map (fun i => st.getD (i * n + i) 0)
  let lam := (diag.drop 1).foldl (fun a x => FF.op2 maxF a (FF.of x)) (FF.of (diag.headD 0))
  if leF lam.1 0 then (diagF n oneF, lam.2)
  else
    let d := FF.op2 mulF (FF.of epsr) lam
    let a := ((diagF n oneF).zip st).map (fun e => if isZero e.1 then FF.of e.2 else FF.op2 addF (FF.of e.2) d)
    let (q, fq) := rsumSquares ((valsOf a).map (fun x => (true, x)))
    let z := FF.op2 divF (FF.of oneF) (FF.op1 sqrtF (q.getD 0, fq))
    let m := (valsOf a).map (fun x => mulF z.1 x)
    let x0 := FF.op1 sqrtF (FF.op1 sqrtF z)
    let (x, _, f) := iterate (rootIter n) iters (diagF n x0.1, valsOf m, 0)
    (x, f ||| lam.2 ||| flagsOf a ||| z.2 ||| flagsOf m ||| x0.2)

/-! ## Jobs (R306) -/

def Dev.modUpd (s : Dev) (c : Nat) (f : Upd → Upd) : Dev := s.modCtx c (fun x => { x with upd := f x.upd })

def Upd.die (u : Upd) (d : Nat) : UpdDie := if d = 0 then u.near else u.off
def Upd.modDie (u : Upd) (d : Nat) (f : UpdDie → UpdDie) : Upd :=
  if d = 0 then { u with near := f u.near } else { u with off := f u.off }

/-- Root tiles in use. -/
def Upd.rootCount (u : Upd) : Nat := min 8 (fld u.rootW0.toNat 63 60)

/-- The lowest root tile that no job runs on. -/
def Upd.idleRoot (u : Upd) : Option Nat :=
  (List.range u.rootCount).find? (fun k => !u.jobs.any (fun j => j.tile == some k && j.ended.isNone))

/-- The engine's work on an enabled list of a resident context. -/
def Dev.withList (s : Dev) (c : Nat) (act : Dev → Upd → Dev) : Dev :=
  let x := s.ctx c
  if !x.upd.live || x.resid != .resident || x.faultHold then s else act s x.upd

/-- Work on root jobs, which goes on while a save has not ended: an entry in pass 2 finishes first (R313). -/
def Dev.withRoots (s : Dev) (c : Nat) (act : Dev → Upd → Dev) : Dev :=
  let x := s.ctx c
  if !x.upd.live || (x.resid != .resident && x.resid != .saving) || x.faultHold then s else act s x.upd

/-- The HBM offset of root tile `k`'s scratch region, and its bytes inside the usable allotment. -/
def Ctx.scratch (x : Ctx) (k : Nat) : Nat × Nat :=
  let off := fld x.upd.rootW1.toNat 38 0 + 8388608 * k
  (off, min 8388608 (x.usable - off))

/-- Pool ranges of the scratch regions. -/
def Dev.scratchRanges (s : Dev) (c : Nat) : List (Nat × Nat) :=
  let x := s.ctx c
  (List.range x.upd.rootCount).map (fun k => (x.pool (x.scratch k).1, (x.scratch k).2))

/-- What a job leaves in its root tile's store and scratch region, which it uses, is not stated (R306).
DEDUCED, log entry 86. -/
def Dev.spoilRoot (s : Dev) (c k : Nat) : Dev :=
  let x := s.ctx c
  let z := x.scratch k
  (s.spoilAt c ⟨.tile (listGet x.rootTiles k), 0⟩ storeSize).spoil c z.1 z.2

/-- New root jobs may start: not while the UPD block is quiesced or a save is in progress, but for an entry whose
pass 2 has begun (R313, R392). -/
def Dev.mayRoot (s : Dev) (c : Nat) (u : Upd) : Bool :=
  u.inPass2 || ((s.ctx c).resid == .resident && !s.up.quiesced.contains 4)

/-- The first queued job starts on the lowest-numbered idle root tile.
DEDUCED, log entry 86. -/
def Dev.rootJob (s : Dev) (c : Nat) : Dev :=
  s.withRoots c (fun s u =>
    match (if s.mayRoot c u then u.idleRoot else none) with
    | none => s
    | some k =>
      let (before, rest) := u.jobs.span (fun j => j.tile.isSome)
      match rest with
      | [] => s
      | j :: after =>
        s.withRanges (s.scratchRanges c) [] (fun s =>
          (s.spoilRoot c k).modUpd c (fun u => { u with jobs := before ++ { j with tile := some k } :: after })))

def execRootJob (c : CtxId) (s : State) : Host.Outcome State Fault Refusal :=
  s.onDev (fun d => d.rootJob c.val)

/-- The hyperparameter record of an entry, as copied at the start of the step. -/
def Upd.hyperOf (u : Upd) (e : UEnt) : Hyper := u.hyper.getD e.hset {}

/-- A side's root written over the copy not in use; whether every element is finite. -/
def Dev.writeRoot (s : Dev) (c : Nat) (n snap dst : Nat) (h : Hyper) : Bool × Dev :=
  let st := s.readF32s c ⟨.hbm, snap⟩ (n * n)
  let (x, f) := newtonRoot n st h.epsr h.rootIter
  (x.all isFinite, (s.postFlags c f).writeBytes c ⟨.hbm, dst⟩ (f32Bytes x))

/-- The work of a job on both sides.
DEDUCED, log entry 86. -/
def Dev.runRoot (s : Dev) (c : Nat) (e : UEnt) (h : Hyper) : Bool × Dev :=
  let copy := if e.rsel then 2 else 3
  let (a, s) := if e.pl then s.writeRoot c e.u (e.left 1) (e.left copy) h else (true, s)
  let (b, s) := if e.pr then s.writeRoot c e.w (e.right 1) (e.right copy) h else (true, s)
  (a && b, s)

/-- A job ends: its root copy is written, and a failure counted (R306). -/
def Dev.endJob (s : Dev) (c : Nat) (j : RootJob) : Dev :=
  let s := match j.tile with
    | some k => s.spoilRoot c k
    | none => s
  let (ok, s) := s.runRoot c (s.uent c j.entry) j.h
  s.modUpd c (fun u =>
    let u := { u with jobs := u.jobs.map (fun i => if i == j then { i with ended := some ok } else i) }
    if ok then u
    else { u with evRootFail := satAdd u.evRootFail 1 }.modDie (j.entry % 2) (fun d => { d with rootFail := d.rootFail + 1 }))

end Sys2Proof.Machine
end

