-- ==== Sys2Proof/Machine/Update.lean ====
section
/-! DEFINITION. The parameter update engines: the steps and passes (R300 to R304), root requests and commits
(R305), frozen and mismatched entries (R308, R310), distribution (R311) and telemetry (R312). -/
namespace Sys2Proof.Machine
open Sys2Proof

/-! ## Hyperparameters (Table 12.3) -/

def parseHyper (bs : List Byte) : Hyper :=
  let f (i : Nat) : F32 := BitVec.ofNat 32 (leAt bs i 4)
  { lr := f 0, b1 := f 4, b2 := f 8, eps := f 12, wd := f 16, b2s := f 20, epsr := f 24
    rootInt := leAt bs 28 2, rootLag := leAt bs 30 2, statInt := leAt bs 32 2, rootIter := leAt bs 34 1
    graft := bit (leAt bs 35 1) 0 }

/-- A decay of [0, 1). -/
def decayOk (x : F32) : Bool := isFinite x && leF 0 x && ltF x oneF

/-- A record with every value inside Table 12.3. -/
def hyperOk (bs : List Byte) : Bool :=
  let h := parseHyper bs
  decayOk h.b1 && decayOk h.b2 && decide (1 ≤ h.rootInt) && decide (1 ≤ h.rootLag) && decide (h.rootLag ≤ h.rootInt)
    && decide (1 ≤ h.statInt) && decide (4 ≤ h.rootIter) && decide (h.rootIter ≤ 32) && decide (leAt bs 35 1 < 2)
    && (bs.drop 36).all (· == 0)

def Upd.hbase (u : Upd) : Nat := fld u.tabsW0.toNat 38 12 * 4096
def Upd.dbase (u : Upd) : Nat := fld u.tabsW1.toNat 38 12 * 4096
def Upd.hen (u : Upd) : Bool := bit u.tabsW0.toNat 0
def Upd.den (u : Upd) : Bool := bit u.tabsW1.toNat 0
def Upd.starth (u : Upd) : Nat := fld u.listW1.toNat 31 16
def Upd.udoneh (u : Upd) : Nat := fld u.listW1.toNat 15 0
def Upd.starts (u : Upd) : Nat := fld u.listW0.toNat 10 1 + 1
def Upd.clip (u : Upd) : F32 := BitVec.ofNat 32 (fld u.normW0.toNat 63 32)
def Upd.fnorm (u : Upd) : Int := sext 16 (fld u.normW0.toNat 31 16)
def Upd.nhitch (u : Upd) : Nat := fld u.normW1.toNat 63 48
def Upd.khitch (u : Upd) : Nat := fld u.normW1.toNat 47 32
def Upd.nwin (u : Upd) : Nat := fld u.normW1.toNat 31 28
def Upd.noff (u : Upd) : Nat := fld u.normW1.toNat 20 0 * 4096

/-- The hyperparameter records as they stand. -/
def Dev.hyperBytes (s : Dev) (c i : Nat) : List Byte := s.readBytes c ⟨.hbm, (s.ctx c).upd.hbase + 64 * i⟩ 64
def Dev.readHypers (s : Dev) (c : Nat) : List Hyper := (List.range 16).map (fun i => parseHyper (s.hyperBytes c i))

/-! ## Entries and gradients (R301) -/

/-- The valid entries that the engine of a die serves, in list order. -/
def Dev.uents (s : Dev) (c d : Nat) : List UEnt :=
  ((List.range (s.ctx c).upd.entries).filter (fun j => j % 2 == d)).map (s.uent c) |>.filter (·.valid)

/-- A close record (Table 11.5). -/
structure CloseRec where
  step : U32
  status : Nat
  n : Nat

def Dev.closeRec (s : Dev) (c : Nat) (d : BktDesc) (ch : Nat) : CloseRec :=
  let bs := s.xRead c d (d.area.close + 16 * ch) 16
  ⟨BitVec.ofNat 32 (leAt bs 4 4), fld (leAt bs 0 8) 15 8, fld (leAt bs 8 8) 12 0⟩

/-- The chunks of an entry's block, when its bucket covers it. -/
def Dev.blockChunks (s : Dev) (c : Nat) (e : UEnt) : Option (BktDesc × List Nat) :=
  let k := s.bucket c e.bucket
  match k.desc with
  | none => none
  | some d =>
    let n := 2 ^ (e.blkLog2 - d.chLog2)
    if !k.live || decide (e.blkLog2 < d.chLog2) || decide (d.n < e.chunk0 + n) then none
    else some (d, (List.range n).map (e.chunk0 + ·))

/-- The outcome of pass 1. -/
def Dev.outcome (s : Dev) (c : Nat) (step : U32) (e : UEnt) : Status :=
  if e.frozen then .frozen
  else if step - e.skip != e.counter then .stepMismatch
  else
    match s.blockChunks c e with
    | none => .range
    | some (d, chs) => if chs.all (fun ch => (s.closeRec c d ch).step == step) then .done else .stepMismatch

/-- A gradient with the substitutions made, and how many of each. -/
structure Gin where
  vals : List F32 := []
  nonfin : Nat := 0
  exhausted : Nat := 0

def Dev.gradient (s : Dev) (c : Nat) (e : UEnt) : Gin :=
  match s.blockChunks c e with
  | none => {}
  | some (d, chs) =>
    ((List.range chs.length).zip chs).foldl (fun (z : Gin) i =>
      let r := s.closeRec c d i.2
      if r.status = Status.scaleExhausted.code || r.n = 0 then
        { z with vals := z.vals ++ List.replicate d.chunk 0, exhausted := z.exhausted + d.chunk }
      else
        let xs := s.readF32s c ⟨.hbm, e.goff + 4 * (i.1 * d.chunk)⟩ d.chunk
        { z with vals := z.vals ++ xs.map (fun x => if isFinite x then x else 0)
                 nonfin := z.nonfin + (xs.filter (fun x => !isFinite x)).length }) {}

/-! ## Exact sums of squares (R302) -/

def sumLimit : Nat := 2 ^ 115 - 1
/-- Q of a list at the scale 2^fnorm, before saturation; INEXACT where a square is rounded onto the grid (R83). -/
def squares (fnorm : Int) (xs : List F32) : Nat × Flags :=
  xs.foldl (fun q x =>
    let (v, inex) := dyToInt (((F32.dy x).mul (F32.dy x)).scale (-fnorm)) .rne
    (q.1 + v.natAbs, if inex then q.2 ||| fInexact else q.2)) (0, 0)
/-- A held sum with more added, and whether it saturates. -/
def satSum (q add : Nat) : Nat × Bool := (min sumLimit (q + add), decide (sumLimit < q + add))

/-- Sums of one layer changed. -/
def Dev.modLayer (s : Dev) (c d layer : Nat) (f : LayerSum → LayerSum) : Dev :=
  s.modUpd c (fun u => u.modDie d (fun x => { x with layers := Tab.set x.layers layer (f (Tab.get {} x.layers layer)) }))

/-- One of a layer's sums grows; OVERFLOW and SATNORM when it saturates. -/
def Dev.addSquares (s : Dev) (c d layer add : Nat) (get : LayerSum → Nat) (put : LayerSum → Nat → LayerSum) : Dev :=
  let l : LayerSum := Tab.get {} ((s.ctx c).upd.die d).layers layer
  let (q, sat) := satSum (get l) add
  let s := if sat then s.postFlags c fOverflow else s
  s.modLayer c d layer (fun l => { put l q with satNorm := l.satNorm || sat })

/-! ## Pass 1 and the share (R300, R303) -/

/-- Pass 1 of one entry; answers what it adds to the engine's sum. -/
def Dev.pass1Entry (c d : Nat) (step : U32) (acc : Nat × Dev) (e : UEnt) : Nat × Dev :=
  let s := acc.2
  let st := s.outcome c step e
  let s := s.modUpd c (fun u => u.modDie d (fun x => { x with found := Tab.set x.found e.idx st }))
  let s := s.modLayer c d e.layer (fun l => { l with nblk := l.nblk + 1 })
  if st != .done then (acc.1, s)
  else
    let g := s.gradient c e
    let q := squares (s.ctx c).upd.fnorm g.vals
    let s := s.postFlags c (q.2 ||| (if g.nonfin = 0 then 0 else fInvalid))
    let s := s.modLayer c d e.layer (fun l => { l with nfelem := l.nfelem + g.nonfin, nexh := l.nexh + g.exhausted })
    (acc.1 + q.1, s.addSquares c d e.layer q.1 (·.gsq) (fun l v => { l with gsq := v }))

/-- A remote operation of an update engine. -/
def Dev.updOp (s : Dev) (c d : Nat) (why : OpWhy) (a : Ask) : Dev := s.startOp (.upd c d) why c a none

/-- The coordinate of the coordinator (R26). -/
def coordinator : BitVec 24 := 0

/-- The share of one engine, as one exact accumulate of 64 bytes. -/
def shareBytes (q : Nat) (sat : Bool) : List Byte :=
  (List.range 8).flatMap (fun k => leBytes 4 (q / 2 ^ (16 * k) % 65536)) ++ leBytes 4 1 ++ leBytes 4 (b2n sat) ++ zeros 24

/-- DEDUCED, log entry 84. -/
def Dev.pass1 (s : Dev) (c d : Nat) : Dev :=
  let u := (s.ctx c).upd
  let s := s.modUpd c (fun u => u.modDie d (fun x => { x with layers := [], found := [], dist := [] }))
  let (q, s) := (s.uents c d).foldl (Dev.pass1Entry c d u.step) (0, s)
  let (q, sat) := satSum 0 q
  let s := if sat then s.postFlags c fOverflow else s
  let s := s.modUpd c (fun u => u.modDie d (fun x => { x with phase := .waitKappa }))
  s.updOp c d .share {
    kind := 3, dst := coordinator, win := u.nwin, off := u.noff + 64 * (u.step.toNat % 2), rse := true
    rhitch := BitVec.ofNat 16 u.nhitch, data := shareBytes q sat }

/-- Start credits taken while there are any, up to the number of the step (R300). -/
def Dev.takeStarts (s : Dev) (c vid : Nat) : Nat → Nat × Dev
  | 0 => (0, s)
  | n + 1 =>
    match s.takeCredits c 1024 vid with
    | (.taken, s) => let (k, s) := s.takeStarts c vid n; (k + 1, s)
    | (_, s) => (0, s)

/-- Pool ranges of a list of entries and what belongs to them. -/
def Dev.listRanges (s : Dev) (c : Nat) : List (Nat × Nat) :=
  let x := s.ctx c
  let u := x.upd
  let r (off n : Nat) : List (Nat × Nat) := [(x.pool off, n)]
  r u.base (64 * u.entries) ++ (if u.hen then r u.hbase 1024 else []) ++ (if u.den then r u.dbase 65536 else [])
    ++ ((List.range u.entries).map (s.uent c)).flatMap (fun e =>
        if e.valid then r e.goff (4 * e.size) ++ r e.poff (4 * e.size) ++ r e.soff e.areaSize else [])

/-- An engine's work over the list: it waits while the host may cache a line of it, and a poisoned line is a device
fault (R219, R229). -/
def Dev.onList (s : Dev) (c : Nat) (act : Dev → Upd → Dev) : Dev :=
  s.withList c (fun s u =>
    let rs := s.listRanges c
    s.withRanges rs rs (fun s => (act s u).pump))

/-- The engines may take the start credits of a step (R327, R343, R392). -/
def Dev.mayUpdate (s : Dev) (c : Nat) (u : Upd) : Bool :=
  let x := s.ctx c
  u.st == .waiting && !x.quiesced && !s.up.quiesced.contains 4 && !s.up.quiesced.contains 5 && !x.holds u.step

/-- DEDUCED, log entry 84. -/
def Dev.updateStart (s : Dev) (c : Nat) : Dev :=
  s.onList c (fun s u =>
    if !s.mayUpdate c u then s
    else
      let (k, s) := s.takeStarts c u.starth (u.starts - u.started)
      if u.started + k < u.starts then s.modUpd c (fun u => { u with started := u.started + k })
      else
        let hs := s.readHypers c
        let s := s.modUpd c (fun u => { u with started := 0, hyper := hs, st := .waitKappa, puts := 0 })
        (s.pass1 c 0).pass1 c 1)

def execUpdateStepStart (c : CtxId) (s : State) : Host.Outcome State Fault Refusal :=
  s.onDev (fun d => d.updateStart c.val)

/-! ## The coordinator (R303, R326) -/

/-- Devices of the team. -/
def Fab.devices (f : Fab) : Nat := (List.range 4).foldl (fun n i => n * f.extent i) 1

/-- Bytes of the norm area, on this device. -/
def Dev.normRead (s : Dev) (c : Nat) (u : Upd) (off n : Nat) : List Byte :=
  s.readBytes c (s.ownWin c u.nwin (u.noff + off)) n
def Dev.normWrite (s : Dev) (c : Nat) (u : Upd) (off : Nat) (bs : List Byte) : Dev :=
  s.writeBytes c (s.ownWin c u.nwin (u.noff + off)) bs

/-- The digit sums of a slot as one number. -/
def digitSum (bs : List Byte) : Int :=
  (List.range 8).foldl (fun q k => q + sext 32 (leAt bs (4 * k) 4) * (2 ^ (16 * k) : Nat)) 0

/-- The κ record of a slot (Table 12.4), with the flags raised. -/
def kappaRecord (u : Upd) (bs : List Byte) : List Byte × Flags :=
  let g := (digitSum bs).toNat
  let n2 := roundDy ⟨g, u.fnorm⟩
  let norm := FF.op1 sqrtF n2
  let clipped := !(isZero u.clip || leF norm.1 u.clip)
  let k := if clipped then FF.op2 divF (FF.of u.clip) norm else FF.of oneF
  (leBytes 4 u.step.toNat ++ leBytes 4 k.1.toNat ++ leBytes 4 norm.1.toNat
    ++ leBytes 4 (b2n (leAt bs 36 4 != 0) + 2 * b2n clipped) ++ leBytes 16 g ++ zeros 32, norm.2 ||| k.2)

/-- The κ record put to every device of the team. -/
def Dev.putKappa (s : Dev) (c : Nat) (u : Upd) (r : List Byte) : Dev :=
  s.fab.coords.foldl (fun s x => s.updOp c 0 .kappa {
    kind := 1, dst := x, win := u.nwin, off := u.noff + 128 + 64 * (u.step.toNat % 2), rse := true
    rhitch := BitVec.ofNat 16 u.khitch, data := r }) s

/-- Every share is in: the norm is formed, and the κ record put, or held behind a HOLD to every device. -/
def Dev.formNorm (s : Dev) (c : Nat) (u : Upd) : Dev :=
  let p := 64 * (u.step.toNat % 2)
  let bs := s.normRead c u p 64
  let (r, f) := kappaRecord u bs
  let s := (s.postFlags c f).normWrite c u p (zeros 64)
  if s.farr.ewLatch && (s.ctx c).ewArm then
    let s := s.modUpd c (fun u => { u with heldKappa := some r, holdAcks := [] })
    s.fab.coords.foldl (fun s x => s.sendMgmt x c 0xC2 u.step.toNat) s
  else s.putKappa c u r

/-- DEDUCED, log entry 83. -/
def Dev.normArrival (s : Dev) (c : Nat) : Dev :=
  s.withList c (fun s u =>
    if s.fab.coord != coordinator || u.st != .waitKappa || u.heldKappa.isSome then s
    else
      let own := (s.ctx c).range (s.ownWin c u.nwin (u.noff + 64 * (u.step.toNat % 2))) 64
      s.withRanges own own (fun s =>
        match s.takeCredits c 1024 u.nhitch with
        | (.taken, s) =>
          let n := leAt (s.normRead c u (64 * (u.step.toNat % 2)) 64) 32 4
          (if n = 2 * s.fab.devices then s.formNorm c u else s).pump
        | (_, s) => s))

def execNormShareArrival (c : CtxId) (s : State) : Host.Outcome State Fault Refusal :=
  s.onDev (fun d => d.normArrival c.val)

/-! ## The update rule (R304) -/

/-- β^t correctly rounded. -/
def powCr (b : F32) (t : Nat) : FF :=
  let d := F32.dy b
  roundDy ⟨d.m ^ t, d.e * t⟩

/-- nrm of R304.
DEDUCED, log entry 85. -/
def nrmF (xs : List F32) : FF :=
  let (q, f) := rsumSquares (xs.map (fun x => (true, x)))
  FF.op1 sqrtF (q.getD 0, f)

/-- A list of values read from KF8. -/
def Dev.readMoment (s : Dev) (c off : Nat) (e : UEnt) : List FF :=
  packedValues (s.readByte c .hbm) 0xD off e.size 0 e.size
def Dev.writeMoment (s : Dev) (c off : Nat) (e : UEnt) (vs : List F32) : Dev :=
  let (cells, f) := packedCells 0xD false off e.size 0 (fun _ => .rne) (vs.map F32.num)
  (s.writeCells c .hbm cells).postFlags c f

/-- The moments of one element: g, m, v, mh and A. -/
structure Moments where
  g : FF
  m : FF
  v : FF
  mh : FF
  a : FF

def moments (h : Hyper) (kappa : F32) (a1 a2 c1 c2 : FF) (gin : F32) (m v : FF) : Moments :=
  let o := FF.of
  let g := FF.op2 mulF (o kappa) (o gin)
  let m := FF.fma (o h.b1) m (FF.op2 mulF a1 g)
  let v := FF.fma (o h.b2) v (FF.op2 mulF a2 (FF.op2 mulF g g))
  let mh := FF.op2 divF m c1
  ⟨g, m, v, mh, FF.op2 divF mh (FF.op2 addF (FF.op1 sqrtF (FF.op2 divF v c2)) (o h.eps))⟩

/-- D of a preconditioned block: a product with I on a side without a root (R304).
DEDUCED, log entry 85. -/
def Dev.direction (s : Dev) (c : Nat) (e : UEnt) (h : Hyper) (mh a : List F32) : List F32 × Flags :=
  let copy := if e.rsel then 3 else 2
  let inv (use : Bool) (off n : Nat) : List F32 := if use then s.readF32s c ⟨.hbm, off⟩ (n * n) else diagF n oneF
  let x := matMul e.u e.u e.w (inv e.pl (e.left copy) e.u) mh
  let d := matMul e.u e.w e.w (valsOf x) (inv e.pr (e.right copy) e.w)
  let f := flagsOf x ||| flagsOf d
  let nd := nrmF (valsOf d)
  if h.graft && !isZero nd.1 then
    let k := FF.op2 divF (nrmF a) nd
    let r := (valsOf d).map (fun y => mulF y k.1)
    (valsOf r, f ||| k.2 ||| flagsOf r)
  else (valsOf d, if h.graft then f ||| nd.2 else f)

/-- One statistic updated: fma_rne(B2S, old, round(round(1 - B2S) × p)). -/
def Dev.statistic (s : Dev) (c n off : Nat) (h : Hyper) (p : List FF) : Dev :=
  let old := s.readF32s c ⟨.hbm, off⟩ (n * n)
  let k := subF oneF h.b2s
  let r := (old.zip p).map (fun e => FF.fma (FF.of h.b2s) (FF.of e.1) (FF.op2 mulF k e.2))
  (s.postFlags c (flagsOf r)).writeBytes c ⟨.hbm, off⟩ (f32Bytes (valsOf r))

def Dev.statistics (s : Dev) (c : Nat) (e : UEnt) (h : Hyper) (g : List F32) : Dev :=
  let t := transp e.u e.w g
  let s := if e.pl then s.statistic c e.u (e.left 0) h (matMul e.u e.w e.u g t) else s
  if e.pr then s.statistic c e.w (e.right 0) h (matMul e.w e.u e.w t g) else s

/-! ## Root requests and commits (R305) -/

/-- The job that is due at this entry's counter has not ended. -/
def Dev.rootPending (s : Dev) (c : Nat) (e : UEnt) : Bool :=
  (e.pl || e.pr) && e.rjob && e.rstep == e.counter
    && (s.ctx c).upd.jobs.any (fun j => j.entry == e.idx && j.ended.isNone)

/-- The root that is due is committed. -/
def Dev.commitRoot (s : Dev) (c : Nat) (e : UEnt) : UEnt × Dev :=
  if (e.pl || e.pr) && e.rjob && e.rstep == e.counter then
    let ok := (s.ctx c).upd.jobs.any (fun j => j.entry == e.idx && j.ended == some true)
    ({ e with rjob := false, rsel := if ok then !e.rsel else e.rsel, rvalid := e.rvalid || ok },
      s.modUpd c (fun u => { u with jobs := u.jobs.filter (fun j => j.entry != e.idx) }))
  else (e, s)

/-- A root is requested: snapshots of the statistics, and a job in the queue. -/
def Dev.requestRoot (s : Dev) (c : Nat) (e : UEnt) (h : Hyper) (cnt : U32) : UEnt × Dev :=
  if (e.pl || e.pr) && cnt.toNat % h.rootInt == 0 && !e.rjob then
    let copy (s : Dev) (n src dst : Nat) : Dev := s.writeBytes c ⟨.hbm, dst⟩ (s.readBytes c ⟨.hbm, src⟩ (4 * n * n))
    let s := if e.pl then copy s e.u (e.left 0) (e.left 1) else s
    let s := if e.pr then copy s e.w (e.right 0) (e.right 1) else s
    let s := s.modUpd c (fun u => Upd.modDie { u with jobs := u.jobs ++ [{ entry := e.idx, h := h }] } (e.idx % 2)
      (fun d => { d with rootReq := d.rootReq + 1 }))
    ({ e with rjob := true, rstep := cnt + BitVec.ofNat 32 h.rootLag }, s)
  else (e, s)

/-! ## Pass 2 -/

/-- Pass 2 of an entry that pass 1 accepted; answers the entry's new fields. -/
def Dev.updateBlock (s : Dev) (c d : Nat) (e : UEnt) : UEnt × Dev :=
  let u := (s.ctx c).upd
  let h := u.hyperOf e
  let cnt := e.counter
  let t := (cnt + 1).toNat
  let (e, s) := s.commitRoot c e
  let one (x : FF) : FF := FF.op2 subF (FF.of oneF) x
  let a1 := one (FF.of h.b1)
  let a2 := one (FF.of h.b2)
  let c1 := one (powCr h.b1 t)
  let c2 := one (powCr h.b2 t)
  let g := s.gradient c e
  let m := s.readMoment c e.mOff e
  let v := s.readMoment c e.vOff e
  let zs := (g.vals.zip (m.zip v)).map (fun x => moments h u.kappa a1 a2 c1 c2 x.1 x.2.1 x.2.2)
  let col (f : Moments → FF) : List FF := zs.map f
  let gs := valsOf (col (·.g))
  let mh := valsOf (col (·.mh))
  let a := valsOf (col (·.a))
  let pre := e.pl || e.pr
  let (dir, f1) := if pre && e.rvalid then s.direction c e h mh a else (a, 0)
  let w := s.readF32s c ⟨.hbm, e.poff⟩ e.size
  let delta := (w.zip dir).map (fun x => FF.op2 mulF (FF.of h.lr) (fmaF h.wd x.1 x.2))
  let w2 := (w.zip (valsOf delta)).map (fun x => subF x.1 x.2)
  let s := s.postFlags c (flagsOf (col (·.a)) ||| flagsOf (col (·.m)) ||| flagsOf (col (·.v)) ||| f1 ||| flagsOf delta
    ||| flagsOf w2 ||| (if g.nonfin = 0 then 0 else fInvalid))
  let s := s.writeBytes c ⟨.hbm, e.poff⟩ (f32Bytes (valsOf w2))
  let s := if pre && cnt.toNat % h.statInt == 0 then s.statistics c e h gs else s
  let s := (s.writeMoment c e.mOff e (valsOf (col (·.m)))).writeMoment c e.vOff e (valsOf (col (·.v)))
  let fallback := pre && !e.rvalid
  let q := squares u.fnorm (valsOf delta)
  let s := ((s.postFlags c q.2).modLayer c d e.layer (fun l =>
    { l with nupd := l.nupd + 1, npend := l.npend + b2n fallback })).addSquares c d
    e.layer q.1 (·.usq) (fun l v => { l with usq := v })
  let e := { e with counter := cnt + 1, status := Status.done.code }
  s.requestRoot c e h cnt

/-- An entry that pass 1 did not accept (R308, R310). -/
def Dev.passOver (s : Dev) (c d : Nat) (e : UEnt) (st : Status) : UEnt × Dev :=
  let e := { e with status := st.code }
  if st = Status.frozen then
    ({ e with skip := e.skip + 1 },
      (s.modLayer c d e.layer (fun l => { l with nfrozen := l.nfrozen + 1 })).modUpd c (fun u =>
        { u with evFrozen := satAdd u.evFrozen 1 }))
  else
    (e, (s.modLayer c d e.layer (fun l => { l with nmism := l.nmism + 1 })).modUpd c (fun u =>
      { u with evStepMis := satAdd u.evStepMis 1 }))

/-- A distribution entry (Table 12.5). -/
structure DistEnt where
  coord : BitVec 24
  win : Nat
  off : Nat
  rhitch : U16
  freeh : Nat
  conv : Nat
  fwe : Bool
  valid : Bool

def Dev.distEnt (s : Dev) (c k : Nat) : DistEnt :=
  let bs := s.readBytes c ⟨.hbm, (s.ctx c).upd.dbase + 16 * k⟩ 16
  let a := leAt bs 0 8
  let b := leAt bs 8 8
  ⟨BitVec.ofNat 24 (fld a 63 40), fld a 39 36, fld a 32 0, BitVec.ofNat 16 (fld b 63 48), fld b 47 32, fld b 31 24,
    bit b 1, bit b 0⟩

/-- Pass 2 of one entry, whatever its status; its distribution then waits its turn.
DEDUCED, log entry 82. -/
def Dev.pass2Entry (s : Dev) (c d : Nat) (e : UEnt) : Dev :=
  let st : Status := Tab.get .range ((s.ctx c).upd.die d).found e.idx
  let (e', s) := if st = Status.done then s.updateBlock c d e else s.passOver c d e st
  let s := s.writeBytes c ⟨.hbm, e.at0⟩ e'.words
  let u := (s.ctx c).upd
  let q := squares u.fnorm (s.readF32s c ⟨.hbm, e.poff⟩ e.size)
  let s := (s.postFlags c q.2).addSquares c d e.layer q.1 (·.wsq) (fun l v => { l with wsq := v })
  let ks := if u.den then ((List.range e.dcount).map (e.dfirst + ·)).filter (fun k => (s.distEnt c k).valid) else []
  s.modUpd c (fun u => u.modDie d (fun x => { x with dist := x.dist ++ ks.map (fun k => (e.idx, k, e.counter)) }))

/-- Pass 2 over entries in list order, until one waits for its root job (R305), or the entry that had begun when the
context was pre-empted is over (R313). -/
def Dev.pass2Run (s : Dev) (c d : Nat) : List UEnt → Dev
  | [] => s.modUpd c (fun u => u.modDie d (fun x => { x with phase := .tail }))
  | e :: r =>
    let st : Status := Tab.get .range ((s.ctx c).upd.die d).found e.idx
    let e := s.uent c e.idx
    if st = Status.done && s.rootPending c e then
      s.modUpd c (fun u => u.modDie d (fun x => { x with phase := .pass2 e.idx }))
    else
      let s := s.pass2Entry c d e
      match r with
      | e' :: _ =>
        if (s.ctx c).resid == .saving then s.modUpd c (fun u => u.modDie d (fun x => { x with phase := .stopped e'.idx }))
        else s.pass2Run c d r
      | [] => s.pass2Run c d r

/-- Layers with at least one entry on a die, ascending. -/
def insertNat (n : Nat) : List Nat → List Nat
  | [] => [n]
  | m :: r => if n < m then n :: m :: r else if n = m then m :: r else m :: insertNat n r

/-- An engine whose distribution has all been sent goes on to its telemetry (R312). -/
def Dev.distDone (s : Dev) (c d : Nat) : Dev :=
  let x := (s.ctx c).upd.die d
  if x.phase == .tail && x.dist.isEmpty then
    let ls := (s.uents c d).foldl (fun ls e => insertNat e.layer ls) []
    s.modUpd c (fun u => u.modDie d (fun x => { x with phase := .telemetry ls }))
  else s

/-- The κ record of the current step has arrived. -/
def Dev.kappaRead (s : Dev) (c : Nat) (u : Upd) : Option (List Byte) :=
  let bs := s.normRead c u (128 + 64 * (u.step.toNat % 2)) 64
  if leAt bs 0 4 = u.step.toNat then some bs else none

/-- Pass 2 of an engine under the κ record of its step. -/
def Dev.startPass2 (s : Dev) (c d : Nat) (bs : List Byte) : Dev :=
  let s := s.modUpd c (fun u => { u with
    st := .pass2, kappa := BitVec.ofNat 32 (leAt bs 4 4), norm := BitVec.ofNat 32 (leAt bs 8 4)
    kflags := leAt bs 12 4 % 4, gsq := leAt bs 16 16 })
  (s.pass2Run c d (s.uents c d)).distDone c d

/-- Pass 2 from list entry `j` on. -/
def Dev.pass2From (s : Dev) (c d j : Nat) : Dev :=
  (s.pass2Run c d ((s.uents c d).filter (fun e => decide (j ≤ e.idx)))).distDone c d

/-- An engine takes up the κ record of its step; the first of the two takes its credit.
DEDUCED, log entry 83. -/
def Dev.takeKappa (s : Dev) (c d : Nat) (u : Upd) : Dev :=
  match s.kappaRead c u with
  | none => s
  | some bs =>
    if u.st == .pass2 then s.startPass2 c d bs
    else
      match s.takeCredits c 1024 u.khitch with
      | (.taken, s) => s.startPass2 c d bs
      | (_, s) => s

/-- The κ record starts pass 2 of an engine; one that a pre-emption stopped between entries goes on (R313).
DEDUCED, log entry 82. -/
def Dev.kappa (s : Dev) (c d : Nat) : Dev :=
  s.onList c (fun s u =>
    match (u.die d).phase with
    | .waitKappa => s.takeKappa c d u
    | .stopped j => s.pass2From c d j
    | _ => s)

def execKappaRecord (c : CtxId) (d : DieId) (s : State) : Host.Outcome State Fault Refusal :=
  s.onDev (fun s => s.kappa c.val d.val)

/-- Engines that waited for a root job go on. -/
def Dev.resumePass2 (s : Dev) (c d : Nat) : Dev :=
  match ((s.ctx c).upd.die d).phase with
  | .pass2 j => s.pass2From c d j
  | _ => s

def Dev.rootJobEnd (s : Dev) (c k : Nat) : Dev :=
  s.withRoots c (fun s u =>
    let rs := s.listRanges c
    s.withRanges (rs ++ s.scratchRanges c) rs (fun s =>
      match u.jobs.find? (fun j => j.tile == some k && j.ended.isNone) with
      | none => s
      | some j => ((s.endJob c j).resumePass2 c (j.entry % 2)).pump))

def execRootJobEnd (c : CtxId) (k : Fin 8) (s : State) : Host.Outcome State Fault Refusal :=
  s.onDev (fun d => d.rootJobEnd c.val k.val)

/-! ## Distribution (R311) -/

/-- The parameters of a block converted for a consumer: elements packed, scale entries after them. -/
def Dev.converted (s : Dev) (c : Nat) (e : UEnt) (conv : Nat) (step : U32) : Option (List Byte × Flags) :=
  let raw := s.readBytes c ⟨.hbm, e.poff⟩ (4 * e.size)
  if conv = 0 then some (raw, 0)
  else if !convByteOk conv || isIntFmt (fld conv 7 4) then none
  else
    let fmt := fld conv 7 4
    let vs := (s.readF32s c ⟨.hbm, e.poff⟩ e.size).map F32.num
    let (cells, f) := packedCells fmt (bit conv 2) 0 e.size 0 (fun i => rndOf (bit conv 3) step e.tid (e.bidx * e.size + i) 2) vs
    let n := alignUp 64 (e.size * fmtBits fmt / 8)
    let len := if isBlock fmt then n + e.size / 32 * scaleBytes fmt else e.size * fmtBits fmt / 8
    some (Mem.readN (Mem.writeCells [] cells) 0 len, f)

/-- The next distribution put of an engine. -/
def Dev.putBlock (s : Dev) (c d : Nat) (j k : Nat) (step : U32) : Dev :=
  let e := s.uent c j
  let z := s.distEnt c k
  match s.converted c e z.conv step with
  | none => s.failList c .invalidWord
  | some (bs, f) =>
    let s := (s.postFlags c f).modUpd c (fun u =>
      Upd.modDie { u with puts := u.puts + 1 } d (fun x => { x with dist := x.dist.drop 1 }))
    (s.updOp c d .dist {
      kind := 1, dst := z.coord, win := z.win, off := z.off, rse := true, rhitch := z.rhitch, data := bs }).distDone c d

/-- DEDUCED, log entry 82. -/
def Dev.distribute (s : Dev) (c d : Nat) : Dev :=
  s.onList c (fun s u =>
    match (u.die d).dist with
    | [] => s
    | (j, k, step) :: _ =>
      let z := s.distEnt c k
      if !z.fwe then s.putBlock c d j k step
      else
        match s.takeCredits c (1024 + d) z.freeh with
        | (.taken, s) => s.putBlock c d j k step
        | (_, s) => s)

def execDistributionPut (c : CtxId) (d : DieId) (s : State) : Host.Outcome State Fault Refusal :=
  s.onDev (fun s => s.distribute c.val d.val)

/-! ## Telemetry (R312) -/

def LayerSum.bytes (l : LayerSum) (phase die layer : Nat) (step : U32) (time : U64) : List Byte :=
  let w (n : Nat) : List Byte := leBytes 4 (n % 2 ^ 32)
  w (at' 1 24 + at' phase 23 + at' die 22 + layer) ++ leBytes 4 step.toNat ++ leBytes 8 time.toNat
    ++ leBytes 16 l.gsq ++ leBytes 16 l.wsq ++ leBytes 16 l.usq
    ++ w l.nblk ++ w l.nupd ++ w l.nfrozen ++ w l.nmism ++ w l.npend ++ w l.nfelem ++ w l.nexh
    ++ w (b2n (l.npend != 0) + 2 * b2n (l.nfelem != 0) + 4 * b2n l.satNorm) ++ zeros 32

def stepRecord (u : Upd) (x : UpdDie) (t : GrxTally) (exc : BitVec 9) (phase die : Nat) (time : U64) : List Byte :=
  let w (n : Nat) : List Byte := leBytes 4 (n % 2 ^ 32)
  w (at' 2 24 + at' phase 23 + at' die 22) ++ leBytes 4 u.step.toNat ++ leBytes 8 time.toNat ++ leBytes 16 u.gsq
    ++ leBytes 4 u.kappa.toNat ++ leBytes 4 u.norm.toNat ++ w exc.toNat ++ w u.kflags
    ++ w t.late ++ w t.rescale ++ w t.exhaust ++ w t.stepMis ++ w t.prepass ++ w t.frozen ++ w x.rootReq ++ w x.rootFail
    ++ zeros 48

/-- Room for one telemetry record, or the reason there is none (R347, R351). -/
inductive TelRoom where
  | write | drop | lose | wait
  deriving DecidableEq, Repr

def Dev.telRoom (s : Dev) (c : Nat) : TelRoom :=
  let g := s.ring c 3
  if !g.en then .drop
  else if g.room then (if s.hif.hostUp then .write else .wait)
  else if g.drop then .lose else .wait

/-- The record an engine has to write next, and its state after it. -/
def Dev.telNext (s : Dev) (c d : Nat) : Option (List Byte × UpdDie × Bool) :=
  let u := (s.ctx c).upd
  let x := u.die d
  let ph := (s.ring c 3).phase
  match x.phase with
  | .telemetry (l :: ls) =>
    some ((Tab.get {} x.layers l : LayerSum).bytes ph d l u.step s.time.ns, { x with phase := .telemetry ls }, false)
  | .telemetry [] =>
    some (stepRecord u x ((s.ctx c).stepTally u.step d) (s.ctx c).exc ph d s.time.ns,
      { x with phase := .finished, rootReq := 0, rootFail := 0 }, true)
  | _ => none

/-- Both engines have finished and every distribution put is acknowledged: UDONEH (R300). -/
def Dev.tryUdone (s : Dev) (c : Nat) : Dev :=
  let u := (s.ctx c).upd
  if u.live && u.near.phase == .finished && u.off.phase == .finished && u.puts == 0 then
    let s := s.modUpd c (fun u => { u with
      st := .waiting, step := u.step + 1, near := { u.near with phase := .idle }, off := { u.off with phase := .idle } })
    ((s.signalVid c u.udoneh).2).ewCheck c
  else s

/-- One telemetry record of an engine written, dropped, or waiting for room. -/
def Dev.telRecord (s : Dev) (c d : Nat) : Option Dev :=
  match s.telNext c d with
  | none => none
  | some (bs, x, last) =>
    let after (s : Dev) : Dev :=
      let s := s.modUpd c (fun u => u.modDie d (fun _ => x))
      if last then s.modCtx c (fun x => { x with tally := x.tally.filter (fun e => !tallyOf ((x.upd).step) d e) }) else s
    match s.telRoom c with
    | .wait => none
    | .drop => some (after s)
    | .lose => some (after (s.modCtx c (fun x => { x with telLost := satAdd x.telLost 1 })))
    | .write => some (after (s.ringWrite c 3 bs false))

def Dev.telAll (c d : Nat) : Nat → Dev → Dev
  | 0, s => s
  | n + 1, s =>
    match s.telRecord c d with
    | none => s
    | some s => Dev.telAll c d n s

/-- Records of a step, until one has to wait. -/
def Dev.telemetry (s : Dev) (c d : Nat) : Dev :=
  s.withList c (fun s _ => (Dev.telAll c d 4098 s).tryUdone c)

def execTelemetryRecordWrite (c : CtxId) (d : DieId) (s : State) : Host.Outcome State Fault Refusal :=
  s.onDev (fun s => s.telemetry c.val d.val)

end Sys2Proof.Machine
end

