-- ==== Sys2Proof/Machine/UpdList.lean ====
section
/-! DEFINITION. The registers of the update engine: UPD_LIST (R299), FREEZE and THAW (R309), and the norm, root and
table configuration (R316). -/
namespace Sys2Proof.Machine
open Sys2Proof

def Dev.updStatusSet (s : Dev) (st : Status) : Dev := { s with updStatus := st.byte }

/-! ## UPD_LIST (R299) -/

/-- The writable bits of each word. -/
def listMask0 : U64 := 0xFFFF007FFFFFF7FF

/-- A valid entry with a reserved field set or a field out of range.
DEDUCED, log entry 87. -/
def Dev.entryBad (s : Dev) (c : Nat) (e : UEnt) : Bool :=
  let w (i : Nat) : Nat := leNat (s.readBytes c ⟨.hbm, e.at0 + 8 * i⟩ 8)
  let side (n : Nat) : Bool := decide (8 ≤ n) && decide (n ≤ 512)
  fld (w 1) 23 1 != 0 || fld (w 3) 47 39 != 0 || fld (w 4) 63 39 != 0 || fld (w 5) 63 39 != 0 || fld (w 6) 13 0 != 0
    || w 7 != 0 || decide (e.blkLog2 < 12) || decide (26 < e.blkLog2) || decide (e.blkLog2 < e.ulog2)
    || (e.pl && !side e.u) || (e.pr && !side e.w)

def UEnt.misaligned (e : UEnt) : Bool := e.goff % 64 != 0 || e.poff % 64 != 0 || e.soff % 64 != 0

def UEnt.beyond (e : UEnt) (usable : Nat) : Bool :=
  decide (usable < e.goff + 4 * e.size) || decide (usable < e.poff + 4 * e.size)
    || decide (usable < e.soff + e.areaSize) || decide (4096 < e.dfirst + e.dcount)

/-- The valid entries of a list, both dies. -/
def Dev.allEnts (s : Dev) (c : Nat) : List UEnt :=
  ((List.range (s.ctx c).upd.entries).map (s.uent c)).filter (·.valid)

/-- The status of a write of EN = 1, on the registers as the write would leave them.
DEDUCED, log entry 87. -/
def Dev.listStatus (s : Dev) (c : Nat) (enabled : Bool) : Status :=
  let x := s.ctx c
  let u := x.upd
  let inList := decide (u.base + 64 * u.entries ≤ x.usable)
  let es := if inList then s.allEnts c else []
  let mapped (v : Nat) : Bool := (s.mapEntry c v).isSome
  let hOk := decide (u.hbase + 1024 ≤ x.usable)
  firstRefusal
    [(!u.hen || es.any (s.entryBad c) || (!u.den && es.any (fun e => e.dcount != 0))
        || (hOk && (List.range 16).any (fun i => !hyperOk (s.hyperBytes c i))), .invalidWord),
     (es.any (·.misaligned), .align),
     (!inList || !hOk || (u.den && decide (x.usable < u.dbase + 65536)) || es.any (·.beyond x.usable)
        || !mapped u.udoneh || !s.unitHitch c u.starth || !s.unitHitch c u.nhitch || !s.unitHitch c u.khitch, .range),
     (enabled, .busy)]

/-- The list is enabled and waits for the start of its first step. -/
def Upd.enabled (u : Upd) : Upd :=
  { u with
    st := .waiting, step := BitVec.ofNat 32 (fld u.listW1.toNat 63 32), started := 0, hyper := [], near := {}, off := {}
    jobs := [], puts := 0, heldKappa := none, holdAcks := [] }

def Upd.setWord (u : Upd) (word : Nat) (v : U64) : Upd :=
  if word = 0 then { u with listW0 := v &&& listMask0 } else { u with listW1 := v }

def Dev.updListWrite (s : Dev) (c word : Nat) (v : U64) : Dev :=
  if s.updPend then s
  else
    let u := (s.ctx c).upd
    let en := word == 0 && bit v.toNat 0
    let t := s.modUpd c (fun u => u.setWord word v)
    let rs := if en then (t.listRanges c).filter (fun r => decide (r.1 + r.2 ≤ s.mem.capacity)) else []
    s.withRanges rs rs (fun s =>
      let st : Status :=
        if en then t.listStatus c u.live
        else if u.live then .notIdle else .done
      if st = Status.done then
        (s.modUpd c (fun u =>
          let u := u.setWord word v
          if en then u.enabled else if word = 0 then { u with st := .disabled } else u)).updStatusSet .done
      else s.updStatusSet st)

def execUpdListWrite (c : CtxId) (word : Fin 2) (v : U64) (s : State) : Host.Outcome State Fault Refusal :=
  s.onBar (fun d => d.updListWrite c.val word.val v)

/-! ## FREEZE and THAW (R309) -/

/-- The selector fields of UPD_BLK_CTL follow each write of it. -/
def Dev.selectEntry (s : Dev) (c j : Nat) : Dev :=
  { s with sel := { s.sel with updCtx := BitVec.ofNat 6 c, updEntry := BitVec.ofNat 16 j } }

def Dev.setFrozen (s : Dev) (c j : Nat) (b : Bool) : Dev :=
  if s.updPend then s
  else
    let x := s.ctx c
    let e := s.uent c j
    let st := firstRefusal
      [(decide (x.upd.entries ≤ j), .range),
       (x.upd.st != .waiting || x.bkts.any (fun k => k.2.live && !s.restful c k.2), .notIdle)]
    if st = Status.done then
      let r := x.range ⟨.hbm, e.at0⟩ 64
      s.withRanges r r (fun s =>
        (s.writeBytes c ⟨.hbm, e.at0⟩ { e with frozen := b }.words).updStatusSet .done)
    else s.updStatusSet st

def execFreeze (c : CtxId) (entry : Fin 65536) (s : State) : Host.Outcome State Fault Refusal :=
  s.onBar (fun d => (d.selectEntry c.val entry.val).setFrozen c.val entry.val true)
def execThaw (c : CtxId) (entry : Fin 65536) (s : State) : Host.Outcome State Fault Refusal :=
  s.onBar (fun d => (d.selectEntry c.val entry.val).setFrozen c.val entry.val false)

/-! ## UPD_NORM_CFG, UPD_ROOT_CFG, UPD_TABS (R316) -/

/-- Writable bits of a word of each register. -/
def cfgMask (r : UpdCfg) (word : Nat) : U64 :=
  match r, word with
  | .normCfg, 0 => 0xFFFFFFFFFFFF0000
  | .normCfg, _ => 0xFFFFFFFFF01FFFFF
  | .rootCfg, 0 => 0xF0FFFFFFFFFFFFFF
  | .rootCfg, _ => 0x0000007FFFFFFFFF
  | .tabs, _ => 0x0000007FFFFFF001

def Upd.setCfg (u : Upd) (r : UpdCfg) (word : Nat) (v : U64) : Upd :=
  let v := v &&& cfgMask r word
  match r, word with
  | .normCfg, 0 => { u with normW0 := v }
  | .normCfg, _ => { u with normW1 := v }
  | .rootCfg, 0 => { u with rootW0 := v }
  | .rootCfg, _ => { u with rootW1 := v }
  | .tabs, 0 => { u with tabsW0 := v }
  | .tabs, _ => { u with tabsW1 := v }

def cfgStatus (r : UpdCfg) (word : Nat) (v : U64) (live : Bool) : Status :=
  firstRefusal
    [(r == .rootCfg && word == 1 && v.toNat % 64 != 0, .align),
     (r == .rootCfg && word == 0 && decide (8 < fld v.toNat 63 60), .range),
     (live, .notIdle)]

def Dev.updCfgWrite (s : Dev) (r : UpdCfg) (c word : Nat) (v : U64) : Dev :=
  if s.updPend then s
  else
    let st := cfgStatus r word v (s.ctx c).upd.live
    (if st = Status.done then s.modUpd c (fun u => u.setCfg r word v) else s).updStatusSet st

def execUpdCfgWrite (reg : UpdCfg) (c : CtxId) (word : Fin 2) (v : U64) (s : State) :
    Host.Outcome State Fault Refusal :=
  s.onBar (fun d => d.updCfgWrite reg c.val word.val v)

end Sys2Proof.Machine
end

