-- ==== Sys2Proof/Machine/Settle.lean ====
section
/-! DEFINITION. Responses and the completion of remote operations at the initiator (R253 to R257), and REMOUNT
notices (R331). -/
namespace Sys2Proof.Machine
open Sys2Proof

/-! ## Completion of operations (R255) -/

/-- The RESREG of a slot that performs an atomic. -/
def SlotOp.resreg (o : SlotOp) : Option Nat :=
  match o with
  | .rem k _ _ _ _ _ _ r _ _ => if k = 4 ∨ k = 5 ∨ k = 6 then some r else none
  | _ => none

/-- The register and the old value that an atomic returns to it (R253). -/
def ROp.result (o : ROp) (y : ISlot) : Option (Nat × U64) :=
  match y.op.resreg, o.old with
  | some r, some v => some (r, v)
  | _, _ => none

/-- A slot's operation has completed. One that ends with another status has still returned the old value of an atomic
that was performed (R204, R253). -/
def Dev.finishSlotOp (s : Dev) (o : ROp) (c t seq num : Nat) : Dev :=
  if o.status = Status.done then
    s.modTile c t (fun x => x.modSlot seq num (fun y => { y with st := .performed, res := o.result y }))
  else (s.modTile c t (fun x => x.takeResult ((x.slot? seq num).bind o.result))).runJobs [.endSlot c t seq num o.status]

/-- An exchange engine's operation has completed (R278, R292).
DEDUCED, log entry 80. -/
def Dev.finishBucketOp (s : Dev) (o : ROp) (c b : Nat) : Dev :=
  if o.status != .done then s.failBucket c b o.status
  else
    match o.why with
    | .admission x => s.admitted c b x (o.old.getD 0)
    | _ => s

/-- An update engine's operation has completed (R300, R311). -/
def Dev.finishUpdOp (s : Dev) (o : ROp) (c : Nat) : Dev :=
  match o.why with
  | .dist =>
    if o.status != .done then s.failList c o.status
    else (s.modUpd c (fun u => { u with puts := u.puts - 1 })).tryUdone c
  | _ => s

def Dev.finishOp (s : Dev) (o : ROp) : Dev :=
  let s := { s with fab := { s.fab with ops := s.fab.ops.filter (fun x => x.id != o.id) } }
  match o.owner with
  | .slot c t seq num => s.finishSlotOp o c t seq num
  | .bucket c b => s.finishBucketOp o c b
  | .upd c _ => s.finishUpdOp o c

/-- An engine's operation whose context is pre-empted: engine work is suspended until it is resumed (R291, R313). -/
def Dev.suspends (s : Dev) (o : ROp) : Bool :=
  match o.owner with
  | .slot _ _ _ _ => false
  | _ => (s.ctx o.c).resid != .resident

/-- The first operation that may complete: every packet answered, and none before it in its queue; suspended ones are
passed over. -/
def nextDone (held : ROp → Bool) : List ROp → List ROp → Option ROp
  | _, [] => none
  | before, o :: r =>
    if held o then nextDone held before r
    else if o.allAcked && !before.any (fun e => e.owner.queue == o.owner.queue) then some o
    else nextDone held (before ++ [o]) r

def Dev.settleN : Nat → Dev → Dev
  | 0, s => s
  | n + 1, s =>
    match nextDone s.suspends [] s.fab.ops with
    | none => s
    | some o => Dev.settleN n (s.finishOp o)

/-- Operations complete in queue order, and packets held back by them are sent.
DEDUCED, log entry 65. -/
def Dev.settle (s : Dev) : Dev := (Dev.settleN s.fab.ops.length s).pump

/-! ## Responses (R250, R256) -/

/-- A status of Table 2.17 by its code; INTERNAL for a code the table does not have, which records no fault here.
DEDUCED, log entry 65. -/
def statusOf (code : Nat) : Status :=
  ([Status.done, .aborted, .nothingToAbort, .faultDiscarded, .ownerLost, .preempted, .invalidWord, .range, .align,
    .overlap, .busy, .stalePage, .notIdle, .stepMismatch, .frozen, .rescale, .late, .scaleExhausted, .linkLost,
    .remounted].find? (fun st => st.code == code)).getD .internal

/-- The response that answers an operation of a kind. -/
def responseOf (kind : Nat) : Nat := if kind = 2 then 0x82 else if kind = 4 ∨ kind = 5 ∨ kind = 6 then 0x84 else 0x81

/-- The outstanding packet that a response answers. -/
def Fab.answers (f : Fab) (p : Packet) : Option (ROp × Nat) :=
  f.ops.findSome? (fun o =>
    if responseOf o.kind != p.op || o.dst != p.src || o.c != p.ctx then none
    else ((List.range o.pkts.length).find? (fun i =>
      (o.pkts[i]?).any (fun q => q.sent && !q.acked && q.txid == p.txid))).map (fun i => (o, i)))

/-- Bytes that an answer to a packet carries when it was performed. -/
def ROp.answerLen (o : ROp) (i : Nat) : Nat :=
  if o.kind = 2 then ((o.pkts[i]?).map (fun q => q.pkt.len)).getD 0
  else if o.kind = 4 ∨ o.kind = 5 ∨ o.kind = 6 then 8 else 0

/-- One packet of an operation answered: its status, whether it brought its data, and the old value of an atomic. -/
def ROp.answer (o : ROp) (i : Nat) (st : Status) (ovf got : Bool) (old : Option U64) : ROp :=
  { o with
    pkts := modAt o.pkts i (fun q => { q with acked := true, ok := st == .done, got := got })
    status := if o.status = Status.done then st else o.status, ovf := o.ovf || ovf, old := old.orElse (fun _ => o.old) }

/-- The places of a tensor's packed bytes, in the order of the stream (R71, R251). -/
def Desc.streamPlaces (d : Desc) : List Nat :=
  let bits := fmtBits d.fmt
  if isBlock d.fmt then
    (groupsOf 32 (indices d.lext)).flatMap (fun g =>
      let j := d.memIdx (g.headD [])
      (List.range (4 * bits)).map (fun i => d.place (d.rowOff j + listGet j 0 * bits / 8 + i)))
  else (indices d.lext).flatMap (fun l => (d.elemBytes (d.memIdx l)).map d.place)

/-- Data of a GET stored into its destination: at a place that elements of later packets share, those stay that have
come already (R177). -/
def Dev.storeGet (s : Dev) (o : ROp) (i : Nat) (data : List Byte) : Dev :=
  match o.loc with
  | none => s
  | some d =>
    let ps := d.streamPlaces
    let later := ((List.range o.pkts.length).filter (fun j => decide (i < j) && (o.pkts[j]?).any (·.got))).flatMap (fun j =>
      (ps.drop (2048 * j)).take 2048)
    s.writeCells o.c d.base.space (((ps.drop (2048 * i)).zip data).filter (fun e => !later.contains e.1))

/-- A response that answers nothing outstanding is discarded and counted (R257, R318). -/
def Dev.lateResponse (s : Dev) (c : Nat) : Dev := s.modCtx c (fun x => { x with lostOp := satAdd x.lostOp 1 })

/-- The oldest received response with OP `op` is taken up. The data of a GET waits while the host may cache a line of
its destination (R229), and is stored whenever the packet was performed, though its RHITCH was not raised (R204).
DEDUCED, log entry 65. -/
def Dev.onResponse (s : Dev) (op : Nat) (old : Packet → Option U64) : Dev :=
  match takeOp op s.fab.inbox with
  | none => s
  | some (p, rest) =>
    let taken : Dev := { s with fab := { s.fab with inbox := rest } }
    match s.fab.answers p with
    | none => taken.lateResponse p.ctx
    | some (o, i) =>
      let lines := match o.loc with
        | some d => s.descLines o.c d
        | none => []
      let cached := s.mem.cached lines
      if !cached.isEmpty then { s with mem := s.mem.invalidate cached }
      else
        let whole := p.data.length == o.answerLen i
        let st := if statusOf p.status = Status.done && !whole then .internal else statusOf p.status
        let got := whole && !p.data.isEmpty
        let s := if got then taken.storeGet o i p.data else taken
        (s.modOp o.id (fun o => o.answer i st (bit p.h1.toNat 39) got (if got then old p else none))).settle

def execAck (s : State) : Host.Outcome State Fault Refusal :=
  s.onDev (fun d => d.onResponse 0x81 (fun _ => none))
def execGetData (s : State) : Host.Outcome State Fault Refusal :=
  s.onDev (fun d => d.onResponse 0x82 (fun _ => none))
def execAtomRes (s : State) : Host.Outcome State Fault Refusal :=
  s.onDev (fun d => d.onResponse 0x84 (fun p => some (BitVec.ofNat 64 (leNat p.data))))

/-! ## Operations that end unanswered (R257, R331) -/

/-- An operation ends with a status whatever its packets; what comes later is discarded. -/
def ROp.cut (o : ROp) (st : Status) : ROp :=
  { o with status := st, pkts := o.pkts.map (fun q => { q with sent := true, acked := true }) }

def Dev.opTimeout (s : Dev) (op : Nat) : Dev :=
  match s.fab.ops.find? (fun o => o.id = op) with
  | none => s
  | some o =>
    if o.pkts.any (fun q => q.sent && !q.acked) then
      ((s.modOp op (fun o => o.cut .linkLost)).lateResponse o.c).settle
    else s

def execOpTimeout (op : Nat) (s : State) : Host.Outcome State Fault Refusal :=
  s.onDev (fun d => d.opTimeout op)

/-- A REMOUNT notice (R331). -/
def Dev.remounted (s : Dev) (x : BitVec 24) (epoch : U16) : Dev :=
  if !laterEpoch epoch (Tab.get 0 s.farr.epochs x.toNat) then s
  else
    let s := { s with
      farr := { s.farr with epochs := Tab.set s.farr.epochs x.toNat epoch, notices := satAdd s.farr.notices 1 }
      fab := { s.fab with ops := s.fab.ops.map (fun (o : ROp) => if o.dst == x then o.cut .remounted else o) } }
    (s.eventAll 0x07 (BitVec.ofNat 64 (at' x.toNat 40 + epoch.toNat)) 0).settle

def execRemount (s : State) : Host.Outcome State Fault Refusal :=
  s.onDev (fun d => d.onMgmt 0xC4 0xFFFFFF000000FFFF (fun d p =>
    d.remounted (BitVec.ofNat 24 (fld p.h1.toNat 63 40)) (p.h1.truncate 16)))

end Sys2Proof.Machine
end

