-- ==== Sys2Proof/Machine/Farrier.lean ====
section
/-! DEFINITION. The Farrier: the operations of FARR_CTL (R319, R320, R328, R335), the early warning and its hold
(R325 to R328). -/
namespace Sys2Proof.Machine
open Sys2Proof

def Dev.farrStatus (s : Dev) (st : Status) : Dev := { s with farr := { s.farr with status := st.byte } }

/-- An operation of FARR_CTL: ignored while one is in progress.
DEDUCED, log entry 116. -/
def Dev.farrOp (s : Dev) (act : Dev → Status × Dev) : Dev :=
  if s.farr.pend then s
  else
    let (st, s) := act s
    s.farrStatus st

/-! ## RESUME and repair (R319, R320) -/

/-- Some logical tile of a resident context has no physical tile. -/
def Dev.unbacked (s : Dev) (c : Nat) : Bool :=
  !(s.ctx c).away && (s.tilesOf c).any (fun t => (s.phys c t).isNone)

/-- The dispatcher reads again from the first record after RETIRED.
DEDUCED, log entry 33. -/
def Dev.resumeCtx (s : Dev) (c : Nat) : Dev :=
  let x := s.ctx c
  if !x.faultHold then s
  else
    let s := s.setCtx c { x with faultHold := false, retiredAbove := [] }
    s.setRing c 0 { s.ring c 0 with dev := BitVec.ofNat 32 x.retired }

def Dev.resume (s : Dev) (c : Nat) : Dev :=
  s.farrOp (fun s =>
    let s := { s with farr := { s.farr with ctlCtx := BitVec.ofNat 6 c } }
    match firstRefusal [(s.unbacked c, .range), (s.farr.repair, .busy)] with
    | .done => (.done, s.resumeCtx c)
    | st => (st, s))

/-- DEDUCED, log entry 33. -/
def execResume (c : CtxId) (s : State) : Host.Outcome State Fault Refusal :=
  s.onBar (fun d => d.resume c.val)

/-- One substitution that found no eligible spare is tried again. -/
def Dev.retrySpare (s : Dev) (w : Nat × Nat × Nat) : Dev :=
  let old := s.ptile w.2.2
  match s.eligible (dieOfPhys w.2.2) with
  | some q =>
    let s := s.substitute w.1 w.2.1 q old.position old.tile
    { s with farr := { s.farr with wanting := s.farr.wanting.filter (· != w) } }
  | none => s

/-- DEDUCED, log entry 89. -/
def Dev.repairOp (s : Dev) : Dev :=
  s.farrOp (fun s =>
    let s := s.farr.wanting.foldl Dev.retrySpare s
    (.done, ({ s with farr := { s.farr with noPwr := !s.farr.wanting.isEmpty } } : Dev).giveUpSpares))

def execRepair (s : State) : Host.Outcome State Fault Refusal :=
  s.onBar Dev.repairOp

/-- The repair that follows a device fault has ended. -/
def execFarrierRepairEnd (s : State) : Host.Outcome State Fault Refusal :=
  s.onDev (fun d => { d with farr := { d.farr with repair := false } })

/-! ## The early warning (R325, R326) -/

/-- Sources of a latch. -/
def ewPinSource : Nat := 0
def ewRaiseSource : Nat := 1
def ewNoticeSource : Nat := 2

/-- An EW event to every armed context. -/
def Dev.ewEvents (s : Dev) (source : Nat) : Dev :=
  allCtx.foldl (fun s c => if (s.ctx c).ewArm then s.event c 0x05 (BitVec.ofNat 64 source) 0 else s) s

/-- The warning is latched, or the latch repeated and counted; the coordinator is told.
DEDUCED, log entry 81. -/
def Dev.latchWarning (s : Dev) (source : Nat) : Dev :=
  if s.farr.ewLatch then { s with farr := { s.farr with ewRepeat := satAdd s.farr.ewRepeat 1 } }
  else
    let s := { s with farr := { s.farr with ewLatch := true, ewSource := source }, side := s.side.raise 8 }
    let s := s.ewEvents source
    if source = ewNoticeSource || s.farr.kind != 2 || s.fab.coord == coordinator then s
    else s.sendMgmt coordinator 0 0xC1 source

def execEwRaise (s : State) : Host.Outcome State Fault Refusal :=
  s.onBar (fun d => d.farrOp (fun d => (.done, d.latchWarning ewRaiseSource)))

/-- EWARN_N asserted for `ticks` of the reference: 8 or more latch, once between two deassertions. -/
def Dev.ewarn (s : Dev) (ticks : Nat) : Dev :=
  if ticks < 8 || !s.farr.ewArmed then s
  else ({ s with farr := { s.farr with ewPin := true, ewArmed := false } } : Dev).latchWarning ewPinSource

def execEwarnN (ticks : Nat) (s : State) : Host.Outcome State Fault Refusal :=
  s.onDev (fun d => d.ewarn ticks)

def execEwarnNDeassertion (s : State) : Host.Outcome State Fault Refusal :=
  s.onDev (fun d => { d with farr := { d.farr with ewPin := false, ewArmed := true } })

/-- Every hold is lifted, and the latch cleared if the pin is deasserted (R328). -/
def Dev.ewRelease (s : Dev) : Dev :=
  let s := allCtx.foldl (fun s c => s.modCtx c (fun x => { x with holdStep := 0, ewHeld := false, ewReady := false })) s
  { s with farr := { s.farr with ewLatch := s.farr.ewLatch && s.farr.ewPin } }

def execEwRelease (s : State) : Host.Outcome State Fault Refusal :=
  s.onBar (fun d => d.farrOp (fun d => (.done, d.ewRelease)))

/-- An EW notice reaches the coordinator. -/
def execEwNotice (s : State) : Host.Outcome State Fault Refusal :=
  s.onDev (fun d => d.onMgmt 0xC1 0x3 (fun d _ => d.latchWarning ewNoticeSource))

/-- A HOLD is answered, and taken by an armed context (R327). -/
def Dev.takeHold (s : Dev) (p : Packet) : Dev :=
  let c := p.ctx
  let t : U32 := p.h1.truncate 32
  let s := if (s.ctx c).ewArm then
      (s.modCtx c (fun x => { x with holdStep := t, ewHeld := true, ewReady := false })).ewCheck c
    else s
  s.sendMgmt p.src c 0xC3 t.toNat

def execHold (s : State) : Host.Outcome State Fault Refusal :=
  s.onDev (fun d => d.onMgmt 0xC2 0xFFFFFFFF Dev.takeHold)

/-- A HOLDACK at the coordinator: with the last of them the held κ record is put (R326). -/
def Dev.takeHoldAck (s : Dev) (p : Packet) : Dev :=
  let c := p.ctx
  let u := (s.ctx c).upd
  match u.heldKappa with
  | none => s
  | some r =>
    if p.h1.truncate 32 != u.step then s
    else
      let acks := if u.holdAcks.contains p.src then u.holdAcks else p.src :: u.holdAcks
      if s.fab.coords.all (fun x => acks.contains x) then
        ((s.modUpd c (fun u => { u with heldKappa := none, holdAcks := [] })).putKappa c u r).pump
      else s.modUpd c (fun u => { u with holdAcks := acks })

def execHoldAck (s : State) : Host.Outcome State Fault Refusal :=
  s.onDev (fun d => d.onMgmt 0xC3 0xFFFFFFFF Dev.takeHoldAck)

/-! ## WITHDRAW (Table 13.5) -/

/-- The device leaves its team: every link goes idle.
DEDUCED, log entry 89. -/
def Dev.withdraw (s : Dev) : Dev :=
  let s := (List.range 8).foldl Dev.gangOff s
  { s with farr := { s.farr with kind := 3 } }

def execWithdraw (s : State) : Host.Outcome State Fault Refusal :=
  s.onBar (fun d => d.farrOp (fun d => (.done, d.withdraw)))

end Sys2Proof.Machine
end

