-- ==== Sys2Proof/Machine/Host.lean ====
section
/-! DEFINITION. The host interface: tile sets (R344), host-access ranges (R345), rings (R347), pre-emption and
resumption (R346, R208), and the CXL link going down and up (R337 to R339). -/
namespace Sys2Proof.Machine
open Sys2Proof

def Dev.hifStatus (s : Dev) (st : Status) : Dev := { s with hif := { s.hif with status := st.byte } }

/-- A write or operation of the HIF block: ignored while one is in progress, refused with a status, or applied.
DEDUCED, log entry 116. -/
def Dev.hifOp (s : Dev) (st : Status) (act : Dev → Dev) : Dev :=
  if s.hif.pend then s else if st = Status.done then (act s).hifStatus .done else s.hifStatus st

/-! ## Tile sets (R12, R13, R344) -/

/-- Active tiles (Table 13.9). -/
def Dev.actTiles (s : Dev) : Nat := ((List.range physTiles).filter (fun p => (s.ptile p).role == .active)).length

/-- Physical tiles that back no context.
DESIGN CHOICE, log entry 29. -/
def Dev.freeTiles (s : Dev) : List Nat :=
  let used := s.ctxs.flatMap (fun x => x.2.backs.map Prod.snd)
  (List.range physTiles).filter (fun p => (s.ptile p).role == .active && !used.contains p)

/-- NTILE of every other context that holds tiles: a pre-empted one does not count (R344, R346). -/
def Dev.tilesInUse (s : Dev) (c : Nat) : Nat :=
  ((s.ctxs.filter (fun x => x.1 != c && x.2.resid != .preempted)).map (fun x => x.2.ntile.toNat)).sum

def Dev.ctxCfgStatus (s : Dev) (c n : Nat) : Status :=
  let x := s.ctx c
  let y : Ctx := { x with ntile := BitVec.ofNat 8 n }
  firstRefusal
    [(decide (s.actTiles < s.tilesInUse c + n)
        || (x.allotEn && decide (x.allotSize.toNat * 2 ^ 28 < saveArea n + 2 ^ 28))
        || x.wins.any (fun w => w.2.en && w.2.space == 0 && !y.winFits w.2), .range),
     (!s.idle c, .notIdle)]

/-- The logical tiles of a set backed: those that are keep their physical tile, the rest take free tiles, which
come empty.
DESIGN CHOICE, log entry 29. -/
def Dev.backTiles (s : Dev) (c n : Nat) : Dev :=
  let s := s.modCtx c (fun x => { x with ntile := BitVec.ofNat 8 n, backs := x.backs.filter (fun e => decide (e.1 < n)) })
  let want := (List.range n).filter (fun t => (Tab.find (s.ctx c).backs t).isNone)
  (want.zip s.freeTiles).foldl (fun s e =>
    (s.setPtile e.2 { s.ptile e.2 with tile := {} }).modCtx c (fun x => { x with backs := Tab.set x.backs e.1 e.2 })) s

def Dev.ctxCfgWrite (s : Dev) (c : Nat) (v : U64) : Dev :=
  let n := fld v.toNat 7 0
  s.hifOp (s.ctxCfgStatus c n) (fun s =>
    let s := { s with farr := { s.farr with wanting := s.farr.wanting.filter (fun w => w.1 != c) } }
    if (s.ctx c).away then s.modCtx c (fun x => { x with ntile := BitVec.ofNat 8 n }) else s.backTiles c n)

def execHifCtxCfgWrite (c : CtxId) (v : U64) (s : State) : Host.Outcome State Fault Refusal :=
  s.onBar (fun d => d.ctxCfgWrite c.val v)

/-! ## Host-access ranges (R345) -/

def HostAcc.setWord (r : HostAcc) (word : Nat) (v : Nat) : HostAcc :=
  if word = 0 then
    { r with base := BitVec.ofNat 40 (fld v 51 12), pw := bit v 2, pr := bit v 1, en := bit v 0 }
  else { r with size := BitVec.ofNat 40 v }

def hostAccStatus (r : HostAcc) (word v : Nat) (idle : Bool) : Status :=
  let reserved := if word = 0 then fld v 63 52 != 0 || fld v 11 3 != 0 else fld v 63 40 != 0
  firstRefusal
    [(reserved || (r.en && r.size == 0), .invalidWord),
     (decide (2 ^ 40 < r.base.toNat + r.size.toNat), .range),
     (!idle, .notIdle)]

def Dev.hostAccWrite (s : Dev) (c i word : Nat) (v : U64) : Dev :=
  let r := (Tab.get {} (s.ctx c).hostAcc i : HostAcc).setWord word v.toNat
  s.hifOp (hostAccStatus r word v.toNat (s.idle c)) (fun s =>
    s.modCtx c (fun x => { x with hostAcc := Tab.set x.hostAcc i r }))

def execHifHostaccWrite (c : CtxId) (range : Fin 8) (word : Fin 2) (v : U64) (s : State) :
    Host.Outcome State Fault Refusal :=
  s.onBar (fun d => d.hostAccWrite c.val range.val word.val v)

/-! ## Rings (R347) -/

def Ring.setWord (g : Ring) (word v : Nat) : Ring :=
  if word = 0 then { g with base := BitVec.ofNat 40 (fld v 51 12) }
  else
    { g with
      sizeLog2 := BitVec.ofNat 5 (fld v 63 59), en := bit v 58, drop := bit v 57, ien := bit v 31
      vec := BitVec.ofNat 5 (fld v 30 26), icount := BitVec.ofNat 10 (fld v 25 16), itimer := BitVec.ofNat 16 v }

def Dev.ringStatus (s : Dev) (c r word v : Nat) : Status :=
  let old := s.ring c r
  let g := old.setWord word v
  let reserved := if word = 0 then fld v 63 52 != 0 || fld v 11 0 != 0 else fld v 56 32 != 0
  let w1 := word == 1
  let z := g.sizeLog2.toNat
  firstRefusal
    [(reserved || (g.en && (decide (z < 6) || decide (16 < z)))
        || (w1 && r == 0 && (g.ien || g.vec != 0 || g.itimer != 0)) || (w1 && r != 0 && g.icount == 0)
        || (r == 0 && g.en && !old.en && !(s.ring c 1).en) || (r == 1 && !g.en && old.en && (s.ring c 0).en),
        .invalidWord),
     (decide (2 ^ 52 < g.base.toNat * 4096 + g.size * (if r = 3 then 128 else 64)), .range),
     (!s.idle c, .notIdle)]

/-- A ring that is enabled starts with both indices and its doorbell word at 0.
DEDUCED, log entry 93. -/
def Dev.freshRing (s : Dev) (c r : Nat) (g : Ring) : Dev :=
  let s := s.setRing c r { g with dev := 0, host := 0, door := 0, k := 0 }
  match r with
  | 0 => s.modCtx c (fun x => { x with retired := 0, retiredAbove := [] })
  | 2 => s.modCtx c (fun x => { x with evtSeq := 0, lost := false })
  | _ => s

def Dev.ringCfgWrite (s : Dev) (c r word : Nat) (v : U64) : Dev :=
  s.hifOp (s.ringStatus c r word v.toNat) (fun s =>
    let old := s.ring c r
    let g := old.setWord word v.toNat
    let s := if r = 2 && g.en != old.en then s.modCtx c (fun x => { x with evq := [] }) else s
    if g.en && !old.en then s.freshRing c r g else s.setRing c r g)

def execHifRingWrite (c : CtxId) (r : Fin 4) (word : Fin 2) (v : U64) (s : State) :
    Host.Outcome State Fault Refusal :=
  s.onBar (fun d => d.ringCfgWrite c.val r.val word.val v)

/-! ## Pre-emption and resumption (R14, R346) -/

/-- An operation of the HIF block that goes on after it is accepted: PEND stays 1 until it ends (R346, R363).
DEDUCED, log entry 116. -/
def Dev.hifStart (s : Dev) (st : Status) (act : Dev → Dev) : Dev :=
  if s.hif.pend then s
  else if st = Status.done then let s := act s; { s with hif := { s.hif with pend := true } }
  else s.hifStatus st

/-- A pre-emption or resumption in progress ends, with its status. -/
def Dev.hifEnd (s : Dev) : Dev := ({ s with hif := { s.hif with pend := false } } : Dev).hifStatus .done

/-- PREEMPT. -/
def Dev.preempt (s : Dev) (c : Nat) : Dev :=
  s.hifStart (if (s.ctx c).resid == .resident then .done else .busy) (fun s =>
    s.modCtx c (fun x => { x with resid := .saving }))

def execPreempt (c : CtxId) (s : State) : Host.Outcome State Fault Refusal :=
  s.onBar (fun d => d.preempt c.val)

/-- Work that has begun has ended, so that the save may end: slots that have been performed have completed (R102,
R141), remote operations that have sent a packet have been answered (R258), no entry is in pass 2 (R313). -/
def Dev.settled (s : Dev) (c : Nat) : Bool :=
  let u := (s.ctx c).upd
  (s.tilesOf c).all (fun t => (s.tile c t).words.all (fun w => w.slots.all (fun y => y.st != .performed)))
    && s.fab.ops.all (fun o => o.c != c || o.why != .slot || !o.pkts.any (·.sent))
    && !u.inPass2

/-- Remote slots that have started and sent nothing are saved with their queue (R258). -/
def Dev.requeue (s : Dev) (c : Nat) : Dev :=
  let (mine, rest) := s.fab.ops.partition (fun o => o.c == c && o.why == .slot)
  mine.foldl (fun s o =>
    match o.owner with
    | .slot c t seq num => s.modTile c t (fun x => x.modSlot seq num (fun y => { y with st := .queued }))
    | _ => s) ({ s with fab := { s.fab with ops := rest } } : Dev)

/-- The hitches that the issued words of a tile name, under other keys. -/
def Tile.rekey (f : Nat → Nat) (x : Tile) : Tile :=
  let r (h : Option HRef) : Option HRef := h.map (fun h => { h with key := f h.key })
  { x with
    words := x.words.map (fun w => { w with
      slots := w.slots.map (fun y => { y with wait := r y.wait, sig := r y.sig })
      hitch := w.hitch.map (fun h => { h with group := r h.group, sig1 := r h.sig1, sig2 := r h.sig2 }) })
    prog := x.prog.map (fun p => { p with held := p.held.map (fun h => { h with key := f h.key }) }) }

/-- Entries of the hitches that a context owns without EXPORT (R208, R209). -/
def Ctx.ownHitches (x : Ctx) : Tab HEntry := x.hmap.filter (fun e => e.2.own && !e.2.exported)

/-- Hitches of a context moved to the places that new map entries give them, under the same identifiers (R208). -/
def Dev.moveHitches (s : Dev) (c : Nat) (es : Tab HEntry) : Dev :=
  let x := s.ctx c
  let moves := es.filterMap (fun e => (Tab.find x.hmap e.1).map (fun o => (o.key, e.2.key)))
  let held := moves.map (fun m => (m.2, s.hitch m.1))
  let rest : Tab Hitch := s.sync.hitches.filter (fun h => !moves.any (fun m => m.1 == h.1))
  let go (k : Nat) : Nat := ((moves.find? (fun m => m.1 == k)).map Prod.snd).getD k
  let s := { s with sync := { s.sync with hitches := held.foldl (fun (t : Tab Hitch) (h : Nat × Hitch) => Tab.set t h.1 h.2) rest } }
  let s := s.modCtx c (fun x => { x with hmap := es.foldl (fun (t : Tab HEntry) (e : Nat × HEntry) => Tab.set t e.1 e.2) x.hmap })
  (s.tilesOf c).foldl (fun s t => s.modTile c t (Tile.rekey go)) s

/-- A physical hitch for a restored entry: its former one where that is free, else the first free one of its kind,
its own die first (R208).
DESIGN CHOICE, log entry 12. -/
def HEntry.placed (used : List Nat) (e : HEntry) : HEntry :=
  let n := if e.barrier then 256 else 16384
  let free (k : Bool × Nat) : Bool := !used.contains (hitchKey k.1 k.2)
  let rest := [e.die, !e.die].flatMap (fun d => (List.range n).map (fun i => (d, i)))
  match if free (e.die, e.phys.toNat) then some (e.die, e.phys.toNat) else rest.find? free with
  | some (d, i) => { e with die := d, phys := BitVec.ofNat 14 i, saved := 0 }
  | none => e

/-- Restored entries placed one after another. -/
def placeAll : List Nat → Tab HEntry → Tab HEntry
  | _, [] => []
  | used, e :: r =>
    let p := e.2.placed used
    (e.1, p) :: placeAll (p.key :: used) r

/-- Every physical hitch that has an owner. -/
def Dev.ownedKeys (s : Dev) : List Nat :=
  s.ctxs.flatMap (fun x => (x.2.hmap.filter (fun e => e.2.own)).map (fun e => e.2.key))

/-- What a save writes: the tiles, the hitches and the map of a context (R14, R102, R156, R208). -/
def Dev.image (s : Dev) (c : Nat) : SavedImage :=
  let x := s.ctx c
  ((s.tilesOf c).map (fun t => (t, s.tile c t)),
    x.ownHitches.map (fun e => (e.2.key, s.hitch e.2.key)), x.hmap)

/-- Bytes of the image in the save area at the top of the allotment (R216); none where no allotment is enabled.
DESIGN CHOICE, log entry 12. -/
def Dev.imageBytes (s : Dev) (c : Nat) : List Byte :=
  let x := s.ctx c
  if x.allotEn then (Config.imageBytes (s.image c)).take (saveArea x.ntile.toNat) else []

/-- The save ends: the state is in the save area, the tiles and hitches are free, and the event is written.
DESIGN CHOICE, log entry 12. -/
def Dev.finishSave (s : Dev) (c : Nat) (bytes : List Byte) : Dev :=
  let tiles := (s.image c).1
  let s := s.writeBytes c ⟨.hbm, (s.ctx c).usable⟩ bytes
  let s := s.modCtx c (fun x => { x with
    resid := .preempted, saved := tiles, backs := [], savedAt := some s.time.ns.toNat, area := bytes })
  let (r, s) := if (s.ring c 2).en then s.retiredPos c else (0, s)
  (s.event c 0x0A (BitVec.ofNat 64 Status.preempted.code) r).hifEnd

/-- The save ends once the work that has begun has ended. -/
def Dev.saveEnd (s : Dev) (c : Nat) : Dev :=
  let x := s.ctx c
  if x.resid != .saving || !s.settled c then s
  else
    let m := (s.requeue c).moveHitches c (Tab.mapV (fun e => { e with saved := c + 1 }) x.ownHitches)
    let bytes := m.imageBytes c
    s.withPool (linesOf (x.pool x.usable) bytes.length) [] (fun _ => m.finishSave c bytes)

def execContextSaveEnd (c : CtxId) (s : State) : Host.Outcome State Fault Refusal :=
  s.onDev (fun d => d.saveEnd c.val)

/-- RESUME. -/
def Dev.ctxResume (s : Dev) (c : Nat) : Dev :=
  let x := s.ctx c
  let st := firstRefusal
    [(decide (s.freeTiles.length < x.ntile.toNat), .range), (x.resid != .preempted, .busy)]
  s.hifStart st (fun s =>
    (s.backTiles c x.ntile.toNat).modCtx c (fun x => { x with resid := .restoring }))

def execCtxResume (c : CtxId) (s : State) : Host.Outcome State Fault Refusal :=
  s.onBar (fun d => d.ctxResume c.val)

/-- What a resident context's waiters do once it is back: those whose hitch was poisoned wake with OWNERLOST,
those whose thresholds are met wake, and queue heads reach their waits (R208, R210, R211). -/
def Dev.wakeJobs (s : Dev) (c : Nat) : List Job :=
  let of (st : HState) : List (Nat × Hitch) :=
    s.sync.hitches.filter (fun h => h.2.st == st && h.2.waiters.any (fun w => w.who.ctx == c))
  let mine (h : Hitch) : List Waiter := h.waiters.filter (fun w => w.who.ctx == c)
  (of .poisoned).flatMap (fun h => ((mine h.2).filter (fun _ => h.2.owner != c)).flatMap (fun w => w.who.endJob .ownerLost))
    ++ (of .discarded).flatMap (fun h => if h.2.disc.contains c then (mine h.2).flatMap (fun w => w.who.endJob .faultDiscarded) else [])
    ++ (of .active).map (fun h => Job.serve h.1)
    ++ (s.tilesOf c).flatMap (fun t => [1, 2, 3, 4, 5, 6].map (fun n => Job.arm c t n))

/-- The saved state in force: as it was saved and changed since, while the save area holds the bytes the save wrote;
otherwise what the bytes now there stand for.
DESIGN CHOICE, log entry 12. -/
def Dev.loadImage (s : Dev) (c : Nat) : Dev :=
  let x := s.ctx c
  let bytes := if x.allotEn then s.readBytes c ⟨.hbm, x.usable⟩ x.area.length else []
  if bytes == x.area && !s.mem.poisoned (linesOf (x.pool x.usable) x.area.length) then s
  else
    let img := Config.imageOf bytes
    let gone := x.ownHitches.map (fun e => e.2.key)
    let rest : Tab Hitch := s.sync.hitches.filter (fun h => !gone.contains h.1)
    ({ s with sync := { s.sync with hitches := img.2.1.foldl (fun (t : Tab Hitch) (h : Nat × Hitch) => Tab.set t h.1 h.2) rest } } : Dev).modCtx c (fun x =>
      { x with saved := img.1, hmap := img.2.2 })

/-- The context is resident again, with the state in force, its hitches placed in physical hitches (R208). -/
def Dev.finishRestore (s : Dev) (c : Nat) : Dev :=
  let s := s.loadImage c
  let x := s.ctx c
  let spans := match x.savedAt with
    | some t => x.savedSpans ++ [(t, s.time.ns.toNat)]
    | none => x.savedSpans
  let s := s.moveHitches c (placeAll s.ownedKeys x.ownHitches)
  let saved := (s.ctx c).saved
  let s := s.modCtx c (fun x => { x with resid := .resident, saved := [], area := [], savedAt := none, savedSpans := spans })
  let s := (List.range x.ntile.toNat).foldl (fun s t => s.setTile c t (Tab.get {} saved t)) s
  (s.runJobs (s.wakeJobs c)).settle.hifEnd

/-- The restore ends; its read of a poisoned line of the save area is a device fault (R219). -/
def Dev.restoreEnd (s : Dev) (c : Nat) : Dev :=
  let x := s.ctx c
  if x.resid != .restoring then s
  else
    let lines := linesOf (x.pool x.usable) x.area.length
    s.withPool lines [] (fun s =>
      (if s.mem.poisoned lines then (s.loadImage c).deviceFault 0x03 else s).finishRestore c)

def execContextRestoreEnd (c : CtxId) (s : State) : Host.Outcome State Fault Refusal :=
  s.onDev (fun d => d.restoreEnd c.val)

/-! ## The CXL link (R337 to R339) -/

/-- The link goes down without a reset: host accesses wait.
DEDUCED, log entry 90. -/
def Dev.cxlDown (s : Dev) : Dev :=
  if !s.hif.up then s
  else { s with hif := { s.hif with
    up := false, width := 0, io := false, cache := false, mem := false, downCnt := satAdd s.hif.downCnt 1 } }

def execCxlLinkDown (s : State) : Host.Outcome State Fault Refusal :=
  s.onDev Dev.cxlDown

/-- Held event records are written once host memory can be reached. -/
def Dev.flushHost (s : Dev) : Dev :=
  if s.hif.hostUp then (allCtx.foldl (fun s c => if (s.ctx c).evq.isEmpty then s else s.flushEvents c) s).sfuRun else s

/-- The link trains: at a width and rate, or in the 68-byte fallback with CXL.io alone; less than x8 and 64 GT/s is
accepted only in 256B flit mode (R337). -/
def Dev.cxlUp (s : Dev) (width rate : Nat) (flit256 : Bool) : Dev :=
  if !s.up.cxl || s.hif.up || !([1, 2, 4, 8].contains width) || rate = 0 || 6 < rate
      || (!flit256 && (width != 8 || rate != 6)) then s
  else
    let h := s.hif
    let h := { h with
      up := true, width := BitVec.ofNat 4 width, rate := BitVec.ofNat 4 rate, flit68 := !flit256, io := true
      cache := flit256 && !s.up.recovery, mem := flit256 && !s.up.recovery && h.hdmCommitted, msgs := h.msgs ++ h.heldMsgs, heldMsgs := [] }
    ({ s with hif := h } : Dev).flushHost

def execCxlLinkUp (width rate : Nat) (flit256 : Bool) (s : State) : Host.Outcome State Fault Refusal :=
  s.onDev (fun d => d.cxlUp width rate flit256)

end Sys2Proof.Machine
end

