-- ==== Sys2Proof/Machine/Reset.lean ====
section
/-! DEFINITION. The device-level resets (R386 to R391, Table 16.2), the thermal trip (R380) and the block reset
(R392, Table 16.5). -/
namespace Sys2Proof.Machine
open Sys2Proof

/-! ## Device-level reset (Table 16.2) -/

/-- Configuration space, MSI-X table and decoder of the CXL interface, which a warm reset keeps. -/
def Hif.kept (h : Hif) (warm : Bool) : Hif :=
  let out : Hif := { hostMem := h.hostMem, msgs := h.msgs, readData := h.readData, winData := h.winData,
                     winPoison := h.winPoison, doe := h.doe, snoopMiss := h.snoopMiss }
  if warm then
    { out with
      up := h.up, width := h.width, rate := h.rate, flit68 := h.flit68, io := h.io, cache := h.cache, mem := h.mem
      biEn := h.biEn, ide := h.ide, ideKeys := h.ideKeys, hdmCommitted := h.hdmCommitted, hdmBase := h.hdmBase
      hdmSize := h.hdmSize, d3hot := h.d3hot, msixEn := h.msixEn, msixFnMask := h.msixFnMask, msixTable := h.msixTable
      cfgWords := h.cfgWords }
  else out

/-- The device after a reset: `power` for power-on and thermal trip, `warm` for the host warm reset, `stays` where recovery goes on. The host's
memory, its readings and the pins are outside the device and keep their values.
DEDUCED, log entry 102. -/
def Dev.afterReset (d : Dev) (power warm stays : Bool) : Dev :=
  { freeCtr := d.freeCtr
    ctxs := if warm then d.ctxs.map (fun x => (x.1, { msixMask := x.2.msixMask, msixPend := x.2.msixPend })) else []
    hif := d.hif.kept warm
    time := if power then {} else { ns := d.time.ns, frac := d.time.frac, acc := d.time.acc }
    pwr := if power then {} else { actual := d.pwr.actual, ramp := d.pwr.actual != 0x2EE }
    up := { cxl := warm, recovery := stays && d.up.recovery }
    side := if power then {} else d.side
    farr := { ewPin := d.farr.ewPin } }

/-- The RST and SEC blocks and the boot state after a reset whose release restarts at step `first`.
DEDUCED, log entry 101; DEDUCED, log entry 102. -/
def Rst.afterReset (r : Rst) (why : Byte) (core : BitVec 4) (first : Nat) (warm : Bool) : Rst :=
  let r := { r with
    blkCtx := 0, blkTarget := 0, blkStatus := 0, src := 0, len := 0, secStatus := 0, secPend := false
    boot := first - 1, nextStep := first, warmRelease := warm, why := some (why, core), misses := [] }
  let r := if first ≤ 4 then
      { r with fwRunning := false, fwOk := false, runSvn := 0, runImage := [], attKey := 0, spdm := .none }
    else r
  let r := if first ≤ 2 then { r with opts := {}, counter := 0 } else r
  if first ≤ 1 then { r with cause := 0, core := 0 } else r

/-- A device-level reset: release restarts at the step of its source, or at the first step not yet complete when
that is earlier (R391). -/
def State.deviceReset (s : State) (why : Byte) (core : BitVec 4) (named : Nat) (warm : Bool) : State :=
  let first := min named (s.rst.boot + 1)
  { s with
    rst := s.rst.afterReset why core first warm
    dev := s.dev.afterReset (named == 1) warm (named == 5) }

/-! ## Sources (Table 16.1) -/

/-- Power-on sources. A trip in force keeps its cause, and its latch until PORST_N or the loss of VAON (R380,
R387).
DESIGN CHOICE, log entry 8. -/
def State.powerOn (s : State) (c : PowerCause) : State :=
  let tripped := s.dev.pwr.tripN
  let go (why : Byte) (latch : Bool) : State :=
    let s := s.deviceReset why 0 1 false
    { s with dev := { s.dev with pwr := { s.dev.pwr with tripN := latch } } }
  match c with
  | .porst n => if n < 32 then s else go (if tripped then 2 else 1) false
  | .pwrgdLow => go (if tripped then 2 else 1) tripped
  | .vaonLost => go 1 false

def execPowerOn (cause : PowerCause) (s : State) : Host.Outcome State Fault Refusal := .next (s.powerOn cause)

/-- The thermal trip: THERMTRIP_N and the reset are asserted together. -/
def State.thermalTrip (s : State) : State :=
  let s := s.deviceReset 2 0 1 false
  { s with dev := { s.dev with pwr := { s.dev.pwr with tripN := true } } }

/-- SENSOR_READ: a sensor at 115 °C or more for the second time in a row trips (R380); else PWR_THERM is
updated (R379). -/
def State.sensorRead (s : State) (readings : List U16) : State :=
  let xs := (List.range 72).zip readings
  if s.dev.pwr.tripN then s
  else if xs.any (fun x => decide (tripPoint ≤ x.2.toInt) && s.dev.pwr.hot.contains x.1) then s.thermalTrip
  else { s with dev := s.dev.thermRead xs }

def execSensorRead (readings : List U16) (s : State) : Host.Outcome State Fault Refusal :=
  .next (s.sensorRead readings)

/-- The groom watchdog, armed once firmware has started. -/
def State.groomWatchdog (s : State) (core : Nat) : State :=
  if s.rst.fwRunning then s.deviceReset 3 (BitVec.ofNat 4 core) 3 false else s

def execGroomWatchdog (core : Fin 4) (s : State) : Host.Outcome State Fault Refusal :=
  .next (s.groomWatchdog core.val)

/-- Consecutive checks each core has missed, after this one. -/
def Rst.checkBeats (r : Rst) (beats : BitVec 4) : Tab Nat :=
  (List.range 4).map (fun i => (i, if beats.getLsbD i then 0 else Tab.get 0 r.misses i + 1))

/-- A check of the heartbeats: the second miss in a row of a core is a groom watchdog. -/
def State.heartbeat (s : State) (beats : BitVec 4) : State :=
  if !s.rst.fwRunning then s
  else
    let m := s.rst.checkBeats beats
    match m.find? (fun e => decide (2 ≤ e.2)) with
    | some e => s.groomWatchdog e.1
    | none => { s with rst := { s.rst with misses := m } }

def execHeartbeatCheck (beats : BitVec 4) (s : State) : Host.Outcome State Fault Refusal := .next (s.heartbeat beats)

/-- An in-band hot reset or link disable, which a link that is up carries. -/
def State.conventionalReset (s : State) : State := if s.dev.hif.up then s.deviceReset 5 0 5 false else s

def execCxlConventionalReset (s : State) : Host.Outcome State Fault Refusal := .next s.conventionalReset

/-- BAR0 decodes the RST and SEC blocks, in recovery too (R398). -/
def Dev.secOpen (d : Dev) : Bool := d.up.cxl && d.hif.up && !d.hif.d3hot

/-- WARM is accepted once step 8 is complete (R391). -/
def State.warm (s : State) : State :=
  if s.dev.secOpen && s.rst.boot == 8 && !s.dev.up.recovery then s.deviceReset 6 0 5 true else s

def execWarm (s : State) : Host.Outcome State Fault Refusal := .next s.warm

/-- REBOOT is accepted once step 8 is complete, and in recovery (R391). -/
def State.reboot (s : State) : State :=
  if s.dev.secOpen && (s.rst.boot == 8 || s.dev.up.recovery) then s.deviceReset 4 0 2 false else s

def execReboot (s : State) : Host.Outcome State Fault Refusal := .next s.reboot

/-! ## Block reset (R392) -/

/-- Codes of Table 16.5. -/
def blkCode : BlkTarget → BitVec 4
  | .context _ => 1 | .sync => 2 | .grx => 3 | .upd => 4 | .tel => 5 | .invalid c => c

/-- The idle condition of a target (Table 16.5). -/
def Dev.blkIdle (d : Dev) (t : BlkTarget) : Bool :=
  let atRest := allCtx.all (fun c =>
    let u := (d.ctx c).upd
    !u.live || u.st == .waiting)
  match t with
  | .context c => d.idle c.val
  | .sync => allCtx.all (fun c => d.idle c) && d.sync.hitches.all (fun h => h.2.waiters.isEmpty)
  | .grx => d.ctxs.all (fun x => x.2.bkts.all (fun b => !b.2.live || d.restful x.1 b.2))
  | .upd => atRest
  | .tel => atRest
  | .invalid _ => true

def Dev.blkQuiesced (d : Dev) (t : BlkTarget) : Bool :=
  match t with
  | .context c => (d.ctx c.val).quiesced
  | t => d.up.quiesced.contains (blkCode t).toNat

/-- QSTATE: 0 IDLE, 1 BUSY, 2 QUIESCING, 3 QUIESCED (Table 16.14). -/
def Dev.qstate (d : Dev) (t : BlkTarget) : Nat :=
  if d.blkQuiesced t then (if d.blkIdle t then 3 else 2) else if d.blkIdle t then 0 else 1

/-- QUIESCE of a context: its work is discarded as a device fault would discard it.
DEDUCED, log entry 104. -/
def Dev.quiesceCtx (d : Dev) (c : Nat) : Dev :=
  let d := d.discardTiles c
  let d := d.dropWaiters (fun k => k == c)
  let d := { d with fab := { d.fab with ops := d.fab.ops.filter (fun o => o.c != c) } }
  let d := (d.ctx c).bkts.foldl (fun d e => d.failBucket c e.1 .faultDiscarded) d
  let d := d.failList c .faultDiscarded
  let d := d.discardLaunches c
  d.modCtx c (fun x => { x with quiesced := true })

/-- DEDUCED, log entry 104. -/
def Dev.quiesce (d : Dev) (t : BlkTarget) : Dev :=
  match t with
  | .context c => d.quiesceCtx c.val
  | .invalid _ => d
  | t =>
    let k := (blkCode t).toNat
    if d.up.quiesced.contains k then d else { d with up := { d.up with quiesced := d.up.quiesced ++ [k] } }

/-- A tile enters the state of R321, with scalar registers at 0. -/
def Tile.reset (x : Tile) : Tile := x.fresh

/-- An update list is disabled and its root jobs discarded. -/
def Upd.off' (u : Upd) : Upd :=
  { u with
    listW0 := u.listW0 &&& ~~~1, st := .disabled, jobs := [], near := {}, off := {}, puts := 0, heldKappa := none
    holdAcks := [] }

/-- A reset disables a list: an enabled one has its event record written, and the state of an entry in pass 2 is
undefined (R314).
DEDUCED, log entry 88. -/
def Dev.resetList (d : Dev) (c : Nat) : Dev :=
  (d.failList c .faultDiscarded).modCtx c (fun x => { x with upd := x.upd.off' })

/-- Remote operations that a reset discards: later responses to them are late (R258). -/
def Dev.dropOps (d : Dev) (p : ROp → Bool) : Dev := { d with fab := { d.fab with ops := d.fab.ops.filter (fun o => !p o) } }

/-- An operation of an exchange engine. -/
def ROp.ofBucket (o : ROp) : Bool :=
  match o.owner with
  | .bucket _ _ => true
  | _ => false

/-- RESET of a context (R210, R258, Table 16.5). -/
def Dev.resetCtx (d : Dev) (c : Nat) : Dev :=
  let d := (d.modCtx c (fun x => { x with ewHeld := false })).dropOps (fun o => o.c == c)
  let d := (d.engineOff c (fun _ => true)).resetList c
  let d := (d.tilesOf c).foldl (fun d t => d.modTile c t Tile.reset) d
  let d := ((d.ctx c).hmap.filter (fun e => e.2.own)).foldl (fun d e => d.poisonHitch e.2.key) d
  d.modCtx c (fun x => { x with
    hmap := x.hmap.filter (fun e => e.2.own), wins := Tab.mapV (fun w => { w with en := false }) x.wins, bkts := []
    exc := 0, faultHold := false, holdStep := 0, ewHeld := false, ewReady := false
    quiesced := false })

/-- RESET of a target. -/
def Dev.resetBlk (d : Dev) (t : BlkTarget) : Dev :=
  let each (f : Ctx → Ctx) : Dev := { d with ctxs := Tab.mapV f d.ctxs }
  let d' := match t with
    | .context c => d.resetCtx c.val
    | .sync => { each (fun x => { x with hmap := [] }) with sync := { d.sync with hitches := [], grants := [] } }
    | .grx =>
      let d := allCtx.foldl (fun (d : Dev) c => d.engineOff c (fun i => decide (i < 1024))) (d.dropOps ROp.ofBucket)
      allCtx.foldl Dev.ewCheck { d with ctxs := Tab.mapV (fun (x : Ctx) => { x with bkts := [] }) d.ctxs }
    | .upd => allCtx.foldl (fun d c => (d.resetList c).ewCheck c) d
    | .tel => each (fun x => { x with exc := 0, tally := [] })
    | .invalid _ => d
  { d' with up := { d'.up with quiesced := d'.up.quiesced.filter (· != (blkCode t).toNat) } }

/-- A write to RST_BLK: its selector fields, and the operation with its status. -/
def State.blkOp (s : State) (t : BlkTarget) (st : Status) (act : Dev → Dev) : State :=
  if !s.dev.secOpen || s.rst.blkPend then s
  else
    let r := { s.rst with
      blkTarget := (blkCode t), blkCtx := (match t with | .context c => BitVec.ofNat 6 c.val | _ => s.rst.blkCtx)
      blkStatus := st.byte }
    { s with rst := r, dev := if st = Status.done then act s.dev else s.dev }

def blkStatusOf (t : BlkTarget) (other : Status) : Status :=
  match t with
  | .invalid _ => .invalidWord
  | _ => other

def State.quiesceOp (s : State) (t : BlkTarget) : State :=
  s.blkOp t (blkStatusOf t .done) (fun d => (d.quiesce t).pump)

def execQuiesce (t : BlkTarget) (s : State) : Host.Outcome State Fault Refusal := .next (s.quiesceOp t)

def State.resetOp (s : State) (t : BlkTarget) : State :=
  let q := s.dev.qstate t
  s.blkOp t (blkStatusOf t (if q = 0 || q = 3 then .done else .notIdle)) (fun d => (d.resetBlk t).pump)

def execReset (t : BlkTarget) (s : State) : Host.Outcome State Fault Refusal := .next (s.resetOp t)

end Sys2Proof.Machine
end

