-- ==== Sys2Proof/Machine/Security.lean ====
section
/-! DEFINITION. The operations of the SEC block: OPTPUSH (R395), FWPUSH (R397), ROLLFWD (R399) and ASSIGN (R400,
R401). -/
namespace Sys2Proof.Machine
open Sys2Proof

/-- A write to SEC_OP word 1: ignored while BAR0 does not decode it or an operation is in progress, and in
recovery for all but FWPUSH (R398, R403); else LEN is kept and the operation's status reported. -/
def State.secOp (s : State) (inRecovery : Bool) (len : Option (BitVec 25)) (f : State → Status × State) : State :=
  if !s.dev.secOpen || s.rst.secPend || (s.dev.up.recovery && !inRecovery) then s
  else
    let s := { s with rst := { s.rst with len := len.getD s.rst.len } }
    let (st, s) := f s
    { s with rst := { s.rst with secStatus := st.byte } }

/-- The bytes named by SRC and LEN in host memory. -/
def State.secImage (s : State) : List Byte := Mem.readN s.dev.hif.hostMem s.rst.src.toNat s.rst.len.toNat

/-- SRC and LEN stay in the host's address space.
DEDUCED, log entry 106. -/
def State.secFits (s : State) : Bool := decide (s.rst.src.toNat + s.rst.len.toNat ≤ 2 ^ 52)

/-! ## OPTPUSH (R395) -/

/-- Every record of the image applies, against the applied keys. -/
def optImageOk (vendor : BitVec 256) (img : List Byte) (key : Option (BitVec 256)) : Bool :=
  match optHeader (readList img) with
  | none => false
  | some (_, count, recs) =>
    img.length == 64 + recs.length && (runOptions count recs { opts := { opKey := key }, vendor := vendor }).skipped == 0

/-- SEQ of the active copy; `none` when the defaults are in force. -/
def Rst.activeSeq (r : Rst) : Option Nat :=
  if r.opts.dflt then none
  else some (leNat (Mem.readN (if r.opts.copyB then r.optB else r.optA) 4 4))

def Rst.optStatus (r : Rst) (img : List Byte) (fits : Bool) : Status :=
  firstRefusal
    [(!optImageOk r.vendorKey img r.opts.opKey, .invalidWord),
     (!fits || r.activeSeq.any (fun q => decide (leAt img 4 4 ≤ q)), .range)]

/-- The image into a copy: its records, then its header as the last word. -/
def writeCopy (m : Mem) (img : List Byte) : Mem := Mem.writeN (Mem.writeN m 64 (img.drop 64)) 0 (img.take 64)

def State.optPush (s : State) : Status × State :=
  let img := s.secImage
  let r := s.rst
  let st := r.optStatus img s.secFits
  if st = Status.done then
    (st, { s with rst := if r.opts.copyB then { r with optA := writeCopy r.optA img }
                         else { r with optB := writeCopy r.optB img } })
  else (st, s)

def execOptpush (len : BitVec 25) (s : State) : Host.Outcome State Fault Refusal :=
  .next (s.secOp false (some len) State.optPush)

/-! ## FWPUSH (R397) -/

/-- The store while a push writes it: the first word, which holds MAGIC, is erased, so that the store is invalid, and the
words of the image beyond it are written in order, as many as `bs` holds.
DEDUCED, log entry 106. -/
def Rst.storing (r : Rst) (bs : List Byte) : Rst :=
  { r with fwStore := Mem.writeN (Mem.writeN r.fwStore 0 (zeros 64)) 64 bs }

/-- The two reads of a push, between which the host makes the stores `between`: the first is checked, the second written
and hashed again, and the first word of the header written last when the hashes agree.
DEDUCED, log entry 106. -/
def State.fwPush (between : List Host.Cell) (s : State) : Status × State :=
  let img := s.secImage
  let s := { s with dev := s.dev.hostStores between }
  let again := s.secImage
  let st := firstRefusal [(!fwValid s.rst.vendorKey img s.rst.opts.opKey, .invalidWord), (!s.secFits, .range)]
  if st = Status.done then
    let r := s.rst.storing (again.drop 64)
    if sha512 again = sha512 img then (.done, { s with rst := { r with fwStore := Mem.writeN r.fwStore 0 (again.take 64) } })
    else (.invalidWord, { s with rst := r })
  else (st, s)

/-- A push that a reset is to interrupt once `n` words beyond the first are written: it stays in progress until that
reset (R397). One that the first read refuses has ended before.
DEDUCED, log entry 106. -/
def State.fwPushPart (n : Nat) (s : State) : State :=
  let (st, _) := s.fwPush []
  if st = Status.done then { s with rst := { s.rst.storing ((s.secImage.drop 64).take (64 * n)) with secPend := true } }
  else { s with rst := { s.rst with secStatus := st.byte } }

/-- FWPUSH (R397). -/
def execFwpush (push : FwPush) (s : State) : Host.Outcome State Fault Refusal :=
  .next (match push.interrupted with
    | none => s.secOp true (some push.len) (State.fwPush push.between)
    | some n =>
      if !s.dev.secOpen || s.rst.secPend then s
      else ({ s with rst := { s.rst with len := push.len } } : State).fwPushPart n)

/-! ## ROLLFWD (R399) -/

/-- The counter rises to the SVN of the running image, never falls; SEC_STATE.COUNTER reads it again.
DEDUCED, log entry 93. -/
def State.rollFwd (s : State) : Status × State :=
  if s.rst.rollback.toNat < s.rst.runSvn.toNat then
    (.done, { s with rst := { s.rst with rollback := s.rst.runSvn, counter := s.rst.runSvn } })
  else (.done, s)

def execRollfwd (s : State) : Host.Outcome State Fault Refusal := .next (s.secOp false none State.rollFwd)

/-! ## ASSIGN (R400, R401) -/

/-- An assignment record (Table 16.11). -/
structure Assignment where
  standby : Nat
  coord : BitVec 24
  epoch : U16
  kind : Nat
  teamId : U64
  ext1 : BitVec 24
  gangs : Nat
  site : List Byte
  deriving DecidableEq, Repr

def parseAssignment (bs : List Byte) : Assignment :=
  let w := leAt bs 0 8
  { standby := fld w 63 56, coord := BitVec.ofNat 24 (fld w 55 32), epoch := BitVec.ofNat 16 (fld w 31 16), kind := fld w 7 0
    teamId := BitVec.ofNat 64 (leAt bs 8 8), ext1 := BitVec.ofNat 24 (leAt bs 16 3), gangs := leAt bs 24 5
    site := (bs.drop 32).take 16 }

/-- ROLE and DIM of gang `g`. -/
def Assignment.role (a : Assignment) (g : Nat) : Nat := fld a.gangs (5 * g + 2) (5 * g)
def Assignment.dim (a : Assignment) (g : Nat) : Nat := fld a.gangs (5 * g + 4) (5 * g + 3)

/-- Reserved fields, KIND and roles are valid, and OSIG verifies under the enrolled key.
DEDUCED, log entry 107. -/
def assignmentValid (bs : List Byte) (key : Option (BitVec 256)) : Bool :=
  let a := parseAssignment bs
  fld (leAt bs 0 8) 15 8 == 0 && leAt bs 19 5 == 0 && leAt bs 29 3 == 0 && ((bs.drop 48).take 16).all (· == 0)
    && (a.kind == 1 || a.kind == 2) && (List.range 8).all (fun g => decide (a.role g ≤ 3))
    && (match key with
        | none => false
        | some k => signedBy k (bs.take 64) ((bs.drop 64).take 64))

/-- The record keeps the limits of R245, and its TORUS gangs are those its extents require (R244, R245).
DEDUCED, log entry 107. -/
def Assignment.fits (a : Assignment) : Bool :=
  let e (d : Nat) : Nat := coordDim a.ext1 d + 1
  decide (e 0 * e 1 * e 2 * e 3 ≤ 4096)
    && (List.range 8).all (fun g => (a.role g == 1) == decide (1 < e (g / 2)))
    && (a.kind == 2 || (List.range 4).all (fun d => decide (coordDim a.coord d < e d)))

/-- The device holds the record (R330, R401). -/
def Dev.assign (d : Dev) (a : Assignment) : Dev :=
  let gangs := (List.range 8).foldl (fun t g =>
    Tab.set t g { (Tab.get {} t g : Gang) with
      role := BitVec.ofNat 3 (a.role g), dim := BitVec.ofNat 2 (a.dim g), en := a.role g != 0 }) d.fab.gangs
  let member := a.kind == 1
  { d with
    fab := { d.fab with
      links := Tab.mapV (fun k => if k.st == .miswired then { k with st := .identify } else k) d.fab.links
      gangs := gangs, teamValid := true, coord := if member then a.coord else 0, ext1 := a.ext1, teamId := a.teamId }
    farr := { d.farr with
      kind := if member then 2 else 1, epoch := a.epoch, standby := BitVec.ofNat 8 (if member then 0 else a.standby)
      site := a.site, epochs := if member then [(a.coord.toNat, a.epoch)] else [] } }

/-- The status of an ASSIGN, in the order of R415.
DEDUCED, log entry 107. -/
def State.assignStatus (s : State) (bs : List Byte) : Status :=
  let a := parseAssignment bs
  let k := s.dev.farr.kind
  firstRefusal
    [(!assignmentValid bs s.rst.opts.opKey, .invalidWord),
     (s.rst.len != 128 || !s.secFits || !a.fits, .range), (k == 2 || k == 3, .busy)]

/-- The 128 bytes of the record, whatever LEN is. -/
def State.assignOp (s : State) : Status × State :=
  let bs := Mem.readN s.dev.hif.hostMem s.rst.src.toNat 128
  let st := s.assignStatus bs
  (st, if st = Status.done then { s with dev := s.dev.assign (parseAssignment bs) } else s)

def execAssign (len : BitVec 25) (s : State) : Host.Outcome State Fault Refusal :=
  .next (s.secOp false (some len) State.assignOp)

end Sys2Proof.Machine
end

