-- ==== Sys2Proof/Machine/Bridle.lean ====
section
/-! DEFINITION. The bridle port (R355 to R357): which frames it accepts, the best master clock selection, and
the delay and offset measurements of the two default profiles of IEEE 1588. -/
namespace Sys2Proof.Machine
open Sys2Proof

def Dev.setTime (s : Dev) (t : TimeBlk) : Dev := { s with time := t }

/-! ## Frames (R355) -/

/-- Untagged, or one tag with the configured VID. -/
def TimeBlk.tagOk (t : TimeBlk) (tag : Option (BitVec 12)) : Bool :=
  match tag with
  | none => true
  | some v => t.vlan && v == t.vid

/-- A PTP frame of the configured transport and domain. -/
def TimeBlk.accepts (t : TimeBlk) (f : Frame) : Bool :=
  t.tagOk f.tag && f.domain == t.domain && t.transport == (match f.transport with | .ethernet => 1 | .udp4 => 2)

def TimeBlk.dropFrame (t : TimeBlk) : TimeBlk := { t with dropFrm := satAdd t.dropFrm 1 }

/-- A received PTP message: dropped and counted, without effect while PTP is off, or handled. -/
def Dev.onPtp (s : Dev) (f : Frame) (act : TimeBlk → TimeBlk) : Dev :=
  if !s.time.accepts f then s.setTime s.time.dropFrame
  else if !s.time.ptpEn then s
  else (s.setTime (act s.time)).reselect

/-- The frame that carries a message of the port: the configured tag, transport and domain, and the addresses and ports of
Table 14.9; an ARP reply goes to the asker. -/
def TimeBlk.frameOf (t : TimeBlk) (m : BridleTx) : BridleFrame :=
  let udp := t.transport == 2
  let ether (mac : Nat) (ip : Nat) : Nat := if udp then ip else mac
  let (dst, port) : Nat × Nat :=
    match m with
    | .delayReq _ => (ether 0x011B19000000 0xE0000181, 319)
    | .pdelayReq _ | .pdelayResp _ _ _ => (ether 0x0180C200000E 0xE000006B, 319)
    | .pdelayRespFollowUp _ _ _ => (ether 0x0180C200000E 0xE000006B, 320)
    | .arpReply _ mac => (mac.toNat, 0)
  { tag := if t.vlan then some t.vid else none, transport := t.transport, domain := t.domain, src := t.mac, dst := dst
    port := if udp then port else 0, body := m }

/-- Frames leave the port. -/
def TimeBlk.emit (t : TimeBlk) (ms : List BridleTx) : TimeBlk := { t with sent := t.sent ++ ms.map t.frameOf }

/-- The port may transmit PTP frames. -/
def TimeBlk.mayTalk (t : TimeBlk) : Bool := t.ptpEn && t.mac != 0

/-- BRIDLE_FRAME_DROP: any other frame. -/
def execBridleFrameDrop (s : State) : Host.Outcome State Fault Refusal :=
  s.onDev (fun d => d.setTime d.time.dropFrame)

/-! ## Best master clock (R356) -/

def portVal (p : PortId) : Nat := p.clock.toNat * 65536 + p.port.toNat

/-- The quantities that the data set comparison of IEEE 1588-2019 compares, in its order. -/
def rankOf (a : Announce) : List Nat :=
  [a.priority1.toNat, a.clockClass.toNat, a.clockAccuracy.toNat, a.variance.toNat, a.priority2.toNat,
   a.grandmaster.toNat, a.stepsRemoved.toNat, portVal a.source]

def lexLt : List Nat → List Nat → Bool
  | x :: xs, y :: ys => decide (x < y) || (x == y && lexLt xs ys)
  | _, _ => false

def better (a b : Announce) : Bool := lexLt (rankOf a) (rankOf b)

/-- Nanoseconds of four announce intervals, the foreign-master window. -/
def window4 (a : Announce) : Nat := 4 * 2 ^ a.logInterval.toNat * 1000000000

/-- The best qualified master. -/
def bestOf (xs : List (Announce × U64 × Bool)) : Option Announce :=
  xs.foldl (fun b x =>
    if !x.2.2 then b
    else match b with
      | none => some x.1
      | some y => if better x.1 y then some x.1 else b) none

/-- The port follows the best qualified master; a new one begins without measurements. -/
def TimeBlk.chooseMaster (t : TimeBlk) : TimeBlk :=
  let b := bestOf t.foreign
  let same := match t.best, b with
    | some x, some y => decide (x.source = y.source)
    | none, none => true
    | _, _ => false
  if same then { t with best := b }
  else
    { t with
      best := b, syncRx := none, ms := none, pathDelay := if t.delayP2p then t.pathDelay else none, reqTx := none
      port := if b.isSome then .uncalibrated else .listening }

/-- An Announce with an accepted interval is recorded; its master qualifies with a second one within four
announce intervals. -/
def TimeBlk.announce (t : TimeBlk) (a : Announce) : TimeBlk :=
  if a.logInterval < 0 || 4 < a.logInterval || 255 ≤ a.stepsRemoved.toNat then t
  else
    let old := t.foreign.find? (fun x => x.1.source = a.source)
    let q := match old with
      | some x => x.2.2 || decide ((t.ns - x.2.1).toNat ≤ window4 a)
      | none => false
    let fresh := t.foreign.filter (fun x => x.1.source ≠ a.source
      && decide ((t.ns - x.2.1).toNat ≤ window4 x.1))
    { t with foreign := fresh ++ [(a, t.ns, q)] }.chooseMaster

def execAnnounceMessage (f : Frame) (a : Announce) (s : State) : Host.Outcome State Fault Refusal :=
  s.onDev (fun d => d.onPtp f (fun t => t.announce a))

/-- The bridle port is lost: its master is forgotten. -/
def TimeBlk.loseMaster (t : TimeBlk) : TimeBlk :=
  match t.best with
  | none => t
  | some b =>
    { t with
      foreign := t.foreign.filter (fun x => x.1.source ≠ b.source), best := none, syncRx := none, ms := none
      reqTx := none, port := .listening }

def execAnnounceReceiptTimeout (s : State) : Host.Outcome State Fault Refusal :=
  s.onDev (fun d => if d.time.ptpEn then (d.setTime d.time.loseMaster).reselect else d)

/-! ## Offset and delay -/

/-- The message comes from the selected master. -/
def TimeBlk.fromMaster (t : TimeBlk) (src : PortId) : Bool :=
  match t.best with
  | some b => decide (b.source = src)
  | none => false

/-- With the path delay and a Sync measured, the offset is known and the port is a SLAVE. -/
def TimeBlk.measure (t : TimeBlk) : TimeBlk :=
  match t.ms, t.pathDelay with
  | some m, some d => if t.best.isSome then { t with bridleOff := d - m, port := .slave } else t
  | _, _ => t

/-- t2 − t1 with the corrections. -/
def TimeBlk.syncDone (t : TimeBlk) (origin t2 : Stamp) (corr : Int) : TimeBlk :=
  { t with ms := some (stampVal t2 - stampVal origin - corr), syncRx := none }.measure

/-- A Sync of the selected master, with a logSyncInterval from −7 to +1 (Table 14.9). -/
def TimeBlk.sync (t : TimeBlk) (src : PortId) (seq : U16) (twoStep : Bool) (origin : Stamp) (corr logInterval : Int) :
    TimeBlk :=
  if !t.fromMaster src || logInterval < -7 || 1 < logInterval then t
  else
    let t := { t with logSync := logInterval }
    if twoStep then { t with syncRx := some (src, seq, t.rxStamp, corr) } else t.syncDone origin t.rxStamp corr

def execSyncMessage (f : Frame) (src : PortId) (seq : U16) (twoStep : Bool) (origin : Stamp) (corr : Int)
    (s : State) : Host.Outcome State Fault Refusal :=
  s.onDev (fun d => d.onPtp f (fun t => t.sync src seq twoStep origin corr f.logInterval))

def TimeBlk.followUp (t : TimeBlk) (src : PortId) (seq : U16) (origin : Stamp) (corr : Int) : TimeBlk :=
  match t.syncRx with
  | some (p, q, t2, c) =>
    if t.fromMaster src && p = src && q = seq then t.syncDone origin t2 (c + corr) else t
  | none => t

def execFollowUpMessage (f : Frame) (src : PortId) (seq : U16) (origin : Stamp) (corr : Int) (s : State) :
    Host.Outcome State Fault Refusal :=
  s.onDev (fun d => d.onPtp f (fun t => t.followUp src seq origin corr))

/-- A Delay_Req leaves: its transmit time is kept. -/
def TimeBlk.sendDelayReq (t : TimeBlk) : TimeBlk :=
  if !t.mayTalk || t.delayP2p || t.best.isNone then t
  else { t with reqSeq := t.reqSeq + 1, reqTx := some (t.reqSeq, t.txStamp) }.emit [.delayReq t.reqSeq]

def execDelayReqSend (s : State) : Host.Outcome State Fault Refusal :=
  s.onDev (fun d => d.setTime d.time.sendDelayReq)

/-- A Delay_Resp to the outstanding Delay_Req: delay is half of (t2 − t1) + (t4 − t3). -/
def TimeBlk.delayResp (t : TimeBlk) (src : PortId) (seq : U16) (received : Stamp) (corr logMin : Int) : TimeBlk :=
  match t.reqTx, t.ms with
  | some (q, t3), some m =>
    if t.delayP2p || !t.fromMaster src || q ≠ seq then t
    else
      { t with
        pathDelay := some ((m + (stampVal received - corr - stampVal t3)) / 2), reqTx := none
        logMinDelayReq := if 0 ≤ logMin && logMin ≤ 5 then logMin else t.logMinDelayReq }.measure
  | _, _ => t

def execDelayRespMessage (f : Frame) (src : PortId) (seq : U16) (received : Stamp) (corr logMinInterval : Int)
    (s : State) : Host.Outcome State Fault Refusal :=
  s.onDev (fun d => d.onPtp f (fun t => t.delayResp src seq received corr logMinInterval))

/-- A Pdelay_Req leaves, in the peer-to-peer profile. -/
def TimeBlk.sendPdelayReq (t : TimeBlk) : TimeBlk :=
  if !t.mayTalk || !t.delayP2p then t
  else
    { t with pReqSeq := t.pReqSeq + 1, pReqTx := some (t.pReqSeq, t.txStamp) }.emit [.pdelayReq t.pReqSeq]

def execPdelayReqSend (s : State) : Host.Outcome State Fault Refusal :=
  s.onDev (fun d => d.setTime d.time.sendPdelayReq)

/-- The peer's answer: delay is half of (t4 − t1) − (t3 − t2). -/
def TimeBlk.pdelayResp (t : TimeBlk) (seq : U16) (received sent : Stamp) : TimeBlk :=
  match t.pReqTx with
  | some (q, t1) =>
    if !t.delayP2p || q ≠ seq then t
    else
      { t with
        pathDelay := some (((stampVal t.rxStamp - stampVal t1) - (stampVal sent - stampVal received)) / 2)
        pReqTx := none }.measure
  | none => t

def execPdelayRespMessage (f : Frame) (_src : PortId) (seq : U16) (received sent : Stamp) (s : State) :
    Host.Outcome State Fault Refusal :=
  s.onDev (fun d => d.onPtp f (fun t => t.pdelayResp seq received sent))

/-- A Pdelay_Req of the link partner is answered two-step. -/
def TimeBlk.answerPdelay (t : TimeBlk) (src : PortId) (seq : U16) : TimeBlk :=
  if !t.mayTalk || !t.delayP2p then t
  else t.emit [.pdelayResp src seq t.rxStamp, .pdelayRespFollowUp src seq t.txStamp]

def execPdelayReqMessage (f : Frame) (src : PortId) (seq : U16) (s : State) : Host.Outcome State Fault Refusal :=
  s.onDev (fun d => d.onPtp f (fun t => t.answerPdelay src seq))

/-- An ARP request: accepted under UDP transport for the port's address, and answered once the port has a MAC
address; else dropped. -/
def TimeBlk.arp (t : TimeBlk) (tag : Option (BitVec 12)) (target sender : U32) (mac : BitVec 48) : TimeBlk :=
  if !t.tagOk tag || t.transport ≠ 2 || target ≠ t.ipv4 then t.dropFrame
  else if t.mac = 0 then t
  else t.emit [.arpReply sender mac]

def execArpRequest (tag : Option (BitVec 12)) (target sender : U32) (senderMac : BitVec 48) (s : State) :
    Host.Outcome State Fault Refusal :=
  s.onDev (fun d => d.setTime (d.time.arp tag target sender senderMac))

end Sys2Proof.Machine
end

