-- ==== Sys2Proof/Machine/Servo.lean ====
section
/-! DEFINITION. The servo (R359), setting and reading the time (R358), and the 1PPS input (R361). -/
namespace Sys2Proof.Machine
open Sys2Proof

/-! ## The servo -/

/-- An offset in 2⁻¹⁶ ns as the i32 nanoseconds of TIME_STATE, saturating. -/
def offsetReg (o : Int) : U32 :=
  let n := o / 65536
  BitVec.ofInt 32 (if n < -2147483648 then -2147483648 else if 2147483647 < n then 2147483647 else n)

/-- Updates kept for the mean of I: those of the last 1,000 s of lock. -/
def keepLock : Nat → List (Nat × Rat) → List (Nat × Rat)
  | _, [] => []
  | left, (d, i) :: r => if left ≤ d then [(left, i)] else (d, i) :: keepLock (left - d) r

/-- Counts of consecutive updates within ±100 ns and above 10 µs. -/
def TimeBlk.count (t : TimeBlk) (o : Int) : TimeBlk :=
  let a := o.natAbs
  { t with
    inRun := if a ≤ 100 * 65536 then t.inRun + 1 else 0
    outRun := if 10000 * 65536 < a then t.outRun + 1 else 0 }

/-- The move between ACQUIRE and LOCKED after 16 updates in a row (Table 14.10). -/
def TimeBlk.move (t : TimeBlk) : TimeBlk :=
  if t.servo = .acquire && 16 ≤ t.inRun then
    { t with servo := .locked, everLocked := true, inRun := 0, outRun := 0, labelled := true }
  else if t.servo = .locked && 16 ≤ t.outRun then t.acquire
  else t

/-- One update of R359: FREQ from the term I and the offset, then I. -/
def Dev.slew (s : Dev) (o : Int) (intervalNs : Nat) : Dev :=
  let (v, s) := s.fresh
  let t := s.time
  let r : Rat := (o : Rat) / 65536 * 1000000000 / (intervalNs : Rat)
  let freq := freqOf (freqClamp (t.integral + r / (2 ^ t.kp.toNat : Nat))) (v.getLsbD 0)
  let i := t.integral + r / (2 ^ t.ki.toNat : Nat)
  s.setTime { t with
    freq := freq, integral := i
    lockHist := if t.servo = .locked then keepLock 1000000000000 ((intervalNs, i) :: t.lockHist) else t.lockHist }

/-- The forward step of ACQUIRE.
DEDUCED, log entry 96. -/
def TimeBlk.stepForward (t : TimeBlk) (o : Int) : TimeBlk :=
  { t.setTotal (t.total + o * 1000000000) with steps := satAdd t.steps 1, stepped := true }

/-- The state after an update with the offset of the source.
DEDUCED, log entry 96. -/
def Dev.discipline (s : Dev) (b : Source) (intervalNs : Nat) : Dev :=
  let t := s.time
  let o := b.offset
  let s := s.setTime { t with offset := offsetReg o }
  let s := if t.servo = .acquire && t.stepOk && !t.stepped && 1000 * 65536 < o
    then s.setTime (s.time.stepForward o) else s.slew o intervalNs
  s.setTime ((s.time.count o).move)

def Dev.servoUpdate (s : Dev) (intervalNs : Nat) : Dev :=
  let s := s.reselect
  match s.bestSource with
  | none => s
  | some b =>
    if intervalNs = 0 then s
    else (s.discipline b intervalNs).advertise s.time.servo (some b)

def execServoUpdate (intervalNs : Nat) (s : State) : Host.Outcome State Fault Refusal :=
  s.onDev (fun d => d.servoUpdate intervalNs)

/-! ## TIME_SET and TIME_NOW (R358) -/

/-- Some context has an enabled bucket or update list. -/
def Dev.timeInUse (s : Dev) : Bool :=
  s.ctxs.any (fun x => x.2.bkts.any (fun b => b.2.live) || x.2.upd.live)

def Dev.timeSet (s : Dev) (v : U64) : Dev :=
  let t := s.time
  if s.timeInUse then s.setTime { t with opStatus := Status.notIdle.byte }
  else s.setTime { t with ns := v, frac := 0, acc := 0, labelled := true, opStatus := Status.done.byte }

def execTimeSet (v : U64) (s : State) : Host.Outcome State Fault Refusal :=
  s.onBar (fun d => d.timeSet v)

/-- A read of TIME_NOW answers the nanoseconds and latches the fraction. -/
def Dev.timeNow (s : Dev) : Dev :=
  { s with time := { s.time with fracLatch := s.time.frac }, hif := { s.hif with readData := s.time.ns } }

def execTimeNowRead (s : State) : Host.Outcome State Fault Refusal :=
  s.onBar Dev.timeNow

/-! ## 1PPS (R361) -/

/-- An edge is valid after the previous valid edge by 1 s ± 100 µs and with 100 ns of high time; with no
previous valid edge only the high time is tested. -/
def TimeBlk.edgeValid (t : TimeBlk) (highNs : Nat) : Bool :=
  decide (100 ≤ highNs) &&
    (match t.ppsLast with
     | none => true
     | some p => decide (999900000 ≤ (t.ns - p).toNat) && decide ((t.ns - p).toNat ≤ 1000100000))

/-- The nearest second minus the time of the edge, in 2⁻¹⁶ ns. -/
def TimeBlk.edgeOffset (t : TimeBlk) : Int :=
  let n := stampVal t.now
  let sec : Int := 65536 * 1000000000
  (n + sec / 2) / sec * sec - n

def Dev.ppsEdge (s : Dev) (highNs : Nat) : Dev :=
  let t := s.time
  if t.ppsMode = 0 then s
  else if t.edgeValid highNs then
    (s.setTime { t with pps := 1, ppsLast := some t.ns, ppsTs := t.ns, ppsOff := t.edgeOffset }).reselect
  else s.setTime { t with ppsBad := satAdd t.ppsBad 1 }

def execPpsEdge (highNs : Nat) (s : State) : Host.Outcome State Fault Refusal :=
  s.onDev (fun d => d.ppsEdge highNs)

def Dev.ppsLost (s : Dev) : Dev :=
  let t := s.time
  if t.ppsMode = 0 then s else (s.setTime { t with pps := 2, ppsLast := none }).reselect

def execPpsLoss (s : State) : Host.Outcome State Fault Refusal :=
  s.onDev Dev.ppsLost

end Sys2Proof.Machine
end

