-- ==== Sys2Proof/Machine/RegRead.lean ====
section
/-! DEFINITION. What each set-up register reads (the field tables of Tables 17.2), what a read clears (R407), and the
host's reads (R341, R404 to R407, R409, R410). Reserved and write-only fields read 0. -/
namespace Sys2Proof.Machine
open Sys2Proof

/-! ## Selected items (R409, R410) -/

/-- A logical tile as a register reports it: none at or above the tile-set size; the reset state while its
domain has lost it in Stand. -/
def Dev.seenTile (d : Dev) (c t : Nat) : Option Tile :=
  if (d.ctx c).ntile.toNat ≤ t then none
  else
    match d.phys c t with
    | some p => if (d.dom (tileDom p)).st = DomState.stand then some {} else some (d.ptile p).tile
    | none => some (d.tile c t)

/-- A value of the selected tile. -/
def Dev.tileVal (d : Dev) (c t : Nat) (f : Tile → Nat) : Nat :=
  match d.seenTile c t with
  | none => 0
  | some x => f x

/-- A status register: STATUS and PEND. -/
def statusVal (st : Byte) (pend : Bool) : Nat := st.toNat + at' (b2n pend) 8

/-- A 64-bit register made of two counts. -/
def pairVal (hi lo : U32) : Nat := at' hi.toNat 32 + lo.toNat

/-! ## Reads by block -/

def Dev.hifLinkVal (d : Dev) : Nat :=
  let h := d.hif
  at' h.downCnt.toNat 48 + at' h.width.toNat 12 + at' h.rate.toNat 8 + at' (b2n h.flit68) 7 + at' (b2n h.io) 6
    + at' (b2n h.cache) 5 + at' (b2n h.mem) 4 + at' (b2n h.biEn) 3 + at' (b2n h.ide) 2 + b2n h.up

def Ring.word0 (g : Ring) : Nat := at' g.base.toNat 12
def Ring.word1 (g : Ring) : Nat :=
  at' g.sizeLog2.toNat 59 + at' (b2n g.en) 58 + at' (b2n g.drop) 57 + at' (b2n g.ien) 31 + at' g.vec.toNat 26
    + at' g.icount.toNat 16 + g.itimer.toNat

def HostAcc.word0 (r : HostAcc) : Nat := at' r.base.toNat 12 + at' (b2n r.pw) 2 + at' (b2n r.pr) 1 + b2n r.en

def residCode : Residence → Nat
  | .resident => 0 | .saving => 1 | .preempted => 2 | .restoring => 3

def Pwr.railVal (p : Pwr) : Nat :=
  let gait := if p.actual.toNat ≤ 695 then 0 else if p.actual.toNat ≤ 800 then 1 else 2
  at' p.actual.toNat 36 + at' gait 34 + at' (b2n p.ramp) 33 + p.target.toNat

def Pwr.monVal (p : Pwr) : Nat := at' p.power.toNat 48 + at' p.icore.toNat 32 + at' p.vcore.toNat 20 + b2n p.isOver
def Pwr.thermVal (p : Pwr) : Nat :=
  at' p.tjMax.toNat 48 + at' p.sensor.toNat 40 + at' p.thresh.toNat 16 + b2n p.alarm

/-- DEDUCED, log entry 100. -/
def Dev.domVal (d : Dev) (n : Nat) : Nat :=
  let x := d.dom n
  let spare := [32, 33, 66, 67].contains n
  let st := match x.toSt, x.st with
    | some _, _ => 3
    | none, .stand => 0
    | none, .rest => 1
    | none, .running => 2
  at' x.trans.toNat 16 + at' (b2n spare) 2 + st

/-- The target that RST_BLK selects. -/
def Rst.target (r : Rst) : BlkTarget :=
  match r.blkTarget.toNat with
  | 1 => .context (Fin.ofNat 64 r.blkCtx.toNat)
  | 2 => .sync
  | 3 => .grx
  | 4 => .upd
  | 5 => .tel
  | _ => .invalid r.blkTarget

def State.blkStatusVal (s : State) : Nat :=
  let q := match s.rst.target with
    | .invalid _ => 0
    | t => s.dev.qstate t
  at' q 16 + statusVal s.rst.blkStatus s.rst.blkPend

def portCode : PortState → Nat
  | .disabled => 0 | .listening => 1 | .uncalibrated => 2 | .slave => 3 | .faulty => 4

def TimeBlk.stateVal (t : TimeBlk) : Nat :=
  at' t.offset.toNat 32 + at' (portCode t.port) 8 + at' t.pps.toNat 6 + t.servo.code
def TimeBlk.bridle0 (t : TimeBlk) : Nat := at' (b2n t.vlan) 60 + at' t.vid.toNat 48 + t.mac.toNat
def TimeBlk.bridle1 (t : TimeBlk) : Nat :=
  at' (b2n t.ptpEn) 43 + at' (b2n t.delayP2p) 42 + at' t.transport.toNat 40 + at' t.domain.toNat 32 + t.ipv4.toNat

def Fab.teamVal (f : Fab) : Nat := at' f.coord.toNat 40 + at' f.ext1.toNat 16 + b2n f.teamValid
def Dev.linkVal (d : Dev) : Nat :=
  let k := d.link d.fab.linkSel.toNat
  at' k.retrainCnt.toNat 48 + at' k.replay.toNat 32 + at' k.st.code 8 + at' (k.width % 4) 6 + at' (b2n k.spare) 5
def Dev.linkErrVal (d : Dev) : Nat :=
  let k := d.link d.fab.linkSel.toNat
  at' k.fecCorr.toNat 32 + at' k.fecUnc.toNat 16 + k.crcErr.toNat
def Fab.timeVal (f : Fab) : Nat :=
  at' f.timeHops.toNat 48 + at' f.timeCoord.toNat 24 + at' f.timeSource.toNat 16 + f.timeQual.toNat
def Dev.gangVal (d : Dev) (g : Nat) : Nat :=
  let x := d.gang g
  at' x.asym.toNat 48 + at' x.dim.toNat 5 + at' x.role.toNat 2 + b2n x.en

def Dev.poolVal (d : Dev) : Nat :=
  at' d.mem.winRej.toNat 32 + at' d.mem.nch.toNat 16 + at' (b2n d.mem.short) 1 + b2n d.memReady
/-- MEM_CH_SEL names a tile of its context's tile set; else what is reached through it reads 0 (R409).
DEDUCED, log entry 92. -/
def Dev.chanSeen (d : Dev) : Bool := decide (d.mem.selTile.toNat < (d.ctx d.mem.selCtx.toNat).ntile.toNat)
/-- A repair holds its bank for 4 µs, and the channel reads as in repair for that long (R221).
DEDUCED, log entry 92; DESIGN CHOICE, log entry 23. -/
def Dev.chanVal (d : Dev) : Nat :=
  let h := d.mem.chan d.mem.selCh.toNat
  if !d.chanSeen then 0
  else at' h.corr.toNat 32 + at' h.uncorr.toNat 24 + at' h.ppr.toNat 8 + (if h.retired then 2 else if h.repairAt.any (fun t => decide (d.time.ns.toNat < t + 4000)) then 1 else 0)

def HState.code : HState → Nat
  | .unmapped => 0 | .active => 1 | .discarded => 2 | .poisoned => 3

def Dev.hitchVal (d : Dev) : Nat :=
  match d.mapEntry d.sync.selCtx.toNat d.sync.selVid.toNat with
  | none => 0
  | some e =>
    let h := d.hitch e.key
    let n := if h.barrier then h.entries.length else h.count.toNat
    at' (n % 2 ^ 32) 32 + at' (if h.barrier then h.gen.toNat else 0) 16 + at' (min h.waiters.length 255) 8 + h.st.code

def PageState.code : PageState → Nat
  | .empty => 0 | .loading => 1 | .loaded => 2 | .closing => 3

def Tile.pageVal (x : Tile) (p : Nat) : Nat :=
  let g := x.page p
  at' g.gen.toNat 16 + at' (b2n g.chain) 3 + at' (b2n (x.pageInUse p)) 2 + g.st.code

/-- MTX_PART_STATE of the array that backs a logical tile (Table 4.5). -/
def Dev.partVal (s : Dev) (c t : Nat) : Nat :=
  at' (s.health c t).passCnt.toNat 32 + at' (s.health c t).faultCnt.toNat 16
    + ([3, 4, 5, 6].map (fun q => at' (s.quadCode c t q) (2 * (q - 3)))).sum

def FaultLog.val (l : FaultLog) : Nat :=
  at' l.tag.toNat 48 + at' l.c.toNat 42 + at' l.tile.toNat 35 + at' l.qmask.toNat 31 + at' l.part.toNat 28
    + at' l.cause.toNat 24 + b2n l.valid

def BankRec.val (b : BankRec) : Nat :=
  at' ((b.n - 1) % 4096) 24 + at' ((b.m - 1) % 4096) 12 + at' (b.aoff % 1024) 2 + b2n b.valid

/-- SFU_TBL_STATE of a table of a tile; a load of it in progress reads loading. -/
def Dev.tblVal (d : Dev) (x : Tile) (t i : Nat) : Nat :=
  let u : UserTbl := Tab.get {} x.tbls i
  let l := d.sfu.run
  let loading := d.sfu.state == 1 && !l.kind && l.index.toNat == i && l.c == d.sel.sfuCtx && l.tiles.contains t
  let st := if loading then 3 else if u.shadow.isSome then 1 else if x.tblSettled i then 0 else 2
  at' u.gen.toNat 16 + at' st 11 + u.cur.length % 2048

def SfuReq.ctlVal (l : SfuReq) : Nat :=
  at' l.c.toNat 32 + at' (b2n l.kind) 28 + at' l.index.toNat 20 + l.count.toNat

/-- LAY_TILE_POS (R194): die, column and row of the position the physical tile holds. -/
def Dev.posVal (d : Dev) (c t : Nat) : Nat :=
  if (d.ctx c).ntile.toNat ≤ t then 0
  else
    match d.phys c t with
    | none => 0
    | some p =>
      let die := dieOfPhys p
      let j := (d.ptile p).position - 68 * die
      at' 1 15 + at' die 8 + at' (j / 8 % 8) 4 + j % 8

/-- A table base with its enable (LAY_DTAB, GRX_BTAB). -/
def baseVal (base : BitVec 27) (en : Bool) : Nat := at' base.toNat 12 + b2n en

def BktState.code : BktState → Nat
  | .disabled => 0 | .waiting => 1 | .exchanging => 2 | .closing => 3 | .failed => 4

/-- Owned chunks of the current step not yet closed. -/
def Dev.openChunks (d : Dev) (c : Nat) (k : Bucket) : Nat :=
  match k.desc with
  | none => 0
  | some b => ((d.ownedBy c b d.fab.coord).filter (fun ch => !(k.ochunk ch).closed)).length

def Dev.bktVal (d : Dev) : Nat :=
  let c := d.sel.grxCtx.toNat
  let k := d.bucket c d.sel.grxBucket.toNat
  at' k.step.toNat 32 + at' (d.openChunks c k % 65536) 16 + at' (b2n k.efValid) 3 + k.st.code

def GrxEvents.word (e : GrxEvents) (w : Nat) : Nat :=
  if w = 0 then at' e.late.toNat 32 + at' e.rescale.toNat 16 + e.exhaust.toNat
  else at' e.frozen.toNat 32 + at' e.stepMis.toNat 16 + e.prepass.toNat

def UpdState.code : UpdState → Nat
  | .disabled => 0 | .waiting => 1 | .pass1 => 2 | .waitKappa => 3 | .pass2 => 4 | .failed => 5

def Upd.stateVal (u : Upd) : Nat :=
  at' u.step.toNat 32 + at' ((u.jobs.filter (fun j => j.ended.isNone)).length % 65536) 16 + u.st.code
def Upd.eventsVal (u : Upd) : Nat := at' u.evFrozen.toNat 32 + at' u.evRootFail.toNat 16 + u.evStepMis.toNat

def State.secVal (s : State) : Nat :=
  let r := s.rst
  at' r.counter.toNat 32 + at' r.opts.skipped.toNat 16 + at' (b2n r.opts.copyB) 4 + at' (b2n r.opts.dflt) 3
    + at' (b2n r.opts.opKey.isSome) 2 + at' (b2n s.dev.up.recovery) 1 + b2n r.fwOk

def Dev.faultVal (d : Dev) : Nat :=
  let f := d.farr
  at' f.faults.toNat 32 + at' f.ewRepeat.toNat 16 + at' f.cause.toNat 8 + at' (b2n f.ewLatch) 2 + at' (b2n f.repair) 1
    + b2n (d.ctxs.any (fun x => x.2.faultHold))

def Dev.shortBits (d : Dev) : Nat :=
  at' (b2n d.farr.noPwr) 3 + at' (b2n d.farr.hbmShort) 2 + at' (b2n d.farr.linkShort) 1 + b2n d.farr.tileShort

def Dev.shortVal (d : Dev) : Nat :=
  let narrow := ((List.range 32).filter (fun l => decide ((d.link l).lanes < 4))).length
  at' d.actTiles 56 + at' (d.sparesOn 0).length 52 + at' (d.sparesOn 1).length 48 + at' narrow 40 + d.shortBits

/-- Standbys identified on REMOUNT gangs. -/
def Dev.standbysSeen (d : Dev) : Nat :=
  ((List.range 8).filter (fun g => (d.gang g).role == 3
    && (gangLinks g).any (fun l => (d.link l).st == .identify && (d.link l).peer.any (fun p => p.kind == 2 && p.teamId == d.fab.teamId)))).length

def Dev.mountVal (d : Dev) : Nat :=
  at' d.farr.epoch.toNat 48 + at' d.farr.standby.toNat 40 + at' d.standbysSeen 32 + at' d.farr.notices.toNat 16
    + d.farr.kind.toNat

def Ctx.farrVal (x : Ctx) : Nat :=
  at' x.holdStep.toNat 32 + at' (b2n x.ewArm) 3 + at' (b2n x.ewHeld) 2 + at' (b2n x.ewReady) 1 + b2n x.faultHold

def selVal (c : BitVec 6) (rest : Nat) : Nat := at' c.toNat 32 + rest

/-- The value of a register. -/
def State.regValue (s : State) (r : Reg) : Nat :=
  let d := s.dev
  let e := d.sel
  match r with
  | .hifLink => d.hifLinkVal
  | .hifOpStatus => statusVal d.hif.status d.hif.pend
  | .hifCtxCfg c => (d.ctx c).ntile.toNat
  | .hifRing c r w => if w = 0 then (d.ring c r).word0 else (d.ring c r).word1
  | .hifRingPtr c r => pairVal (d.ring c r).dev (d.ring c r).host
  | .hifCtxEvents c =>
    let x := d.ctx c
    at' x.evtLost.toNat 48 + at' x.telLost.toNat 32 + at' x.headErr.toNat 16
  | .hifHostacc c i w =>
    let h : HostAcc := Tab.get {} (d.ctx c).hostAcc i
    if w = 0 then h.word0 else h.size.toNat
  | .hifCtxCtl c => at' (residCode (d.ctx c).resid) 2
  | .pwrRail => d.pwr.railVal
  | .pwrDomCtl => d.pwr.domSel.toNat
  | .pwrOpStatus => statusVal d.pwr.status d.pwr.pend
  | .pwrPace => at' d.pwr.pmin.toNat 48 + at' d.pwr.pace1.toNat 16 + d.pwr.pace0.toNat
  | .pwrBeats => d.pwr.beats.toNat
  | .pwrMon => d.pwr.monVal
  | .pwrPlimit => d.pwr.plimit.toNat
  | .pwrTherm => d.pwr.thermVal
  | .pwrDomState n => d.domVal n
  | .rstCtl => 0
  | .rstCause => at' s.rst.core.toNat 12 + s.rst.cause.toNat
  | .rstBlk => selVal s.rst.blkCtx s.rst.blkTarget.toNat
  | .rstBlkStatus => s.blkStatusVal
  | .timeNow => d.time.ns.toNat
  | .timeFrac => d.time.fracLatch.toNat
  | .timeSet => 0
  | .timeOpStatus => d.time.opStatus.toNat
  | .timeState => d.time.stateVal
  | .timeFreq => d.time.freq.toNat
  | .timeCfg => at' (b2n d.time.stepOk) 16 + at' d.time.ki.toNat 8 + d.time.kp.toNat
  | .timeBridle w => if w = 0 then d.time.bridle0 else d.time.bridle1
  | .timeLat => pairVal d.time.egress d.time.ingress
  | .timePps => d.time.ppsMode.toNat
  | .timePpsTs => d.time.ppsTs.toNat
  | .timeEvents => at' d.time.dropFrm.toNat 32 + at' d.time.steps.toNat 16 + d.time.ppsBad.toNat
  | .fabTeam => d.fab.teamVal
  | .fabTeamId => d.fab.teamId.toNat
  | .fabLinkSel => d.fab.linkSel.toNat
  | .fabLinkState => d.linkVal
  | .fabLinkErr => d.linkErrVal
  | .fabOpStatus => statusVal d.fab.status d.fab.pend
  | .fabOpTimeout => d.fab.opTimeout.toNat
  | .fabTimeState => d.fab.timeVal
  | .fabDrop => d.fab.drop.toNat
  | .fabGangCfg g => d.gangVal g
  | .fabEvents c =>
    let x := d.ctx c
    at' x.refused.toNat 32 + at' x.lostOp.toNat 16 + x.ovfAcc.toNat
  | .fabWin c i w =>
    let k : Win := Tab.get {} (d.ctx c).wins i
    if w = 0 then k.word0 else k.word1
  | .memOpStatus => statusVal d.mem.status d.mem.pend
  | .memPool => d.poolVal
  | .memChSel => selVal d.mem.selCtx (at' d.mem.selTile.toNat 8 + d.mem.selCh.toNat)
  | .memChState => d.chanVal
  | .memEcc => d.tileVal d.mem.selCtx.toNat d.mem.selTile.toNat (fun x => x.tsCorr.toNat)
  | .memScrub => at' d.mem.scrubPeriod.toNat 8 + b2n d.mem.scrubEn
  | .memAllot c =>
    let x := d.ctx c
    at' x.allotSize.toNat 32 + at' x.allotBase.toNat 1 + b2n x.allotEn
  | .memStg c i =>
    let g : StgRange := Tab.get {} (d.ctx c).stg i
    at' g.size.toNat 32 + at' g.base.toNat 1 + b2n g.en
  | .syncMapSel => selVal d.sync.selCtx d.sync.selVid.toNat
  | .syncMapEntry =>
    match d.mapEntry d.sync.selCtx.toNat d.sync.selVid.toNat with
    | none => 0
    | some h => h.word
  | .syncHitchOp => 0
  | .syncOpStatus => statusVal d.sync.status d.sync.pend
  | .syncHitchState => d.hitchVal
  | .syncEvents c => pairVal (d.ctx c).satCnt (d.ctx c).ignored
  | .dispPageSel => selVal e.dispCtx (at' e.dispTile.toNat 4 + e.dispPage.toNat)
  | .dispPageState => d.tileVal e.dispCtx.toNat e.dispTile.toNat (fun x => x.pageVal e.dispPage.toNat)
  | .dispDbErrors c => (d.ctx c).dbErrors.toNat
  | .mtxTileSel => selVal e.mtxCtx e.mtxTile.toNat
  | .mtxPartState => d.partVal e.mtxCtx.toNat e.mtxTile.toNat
  | .mtxFaultLog => d.mtxLog.val
  | .mtxEccCorr => d.tileVal e.mtxCtx.toNat e.mtxTile.toNat (fun x => pairVal x.eccAccum x.eccPlane)
  | .vecTileSel => selVal e.vecCtx (at' e.vecRec.toNat 7 + e.vecTile.toNat)
  | .vecBankRec => d.tileVal e.vecCtx.toNat e.vecTile.toNat
      (fun x => (x.bankRec (e.vecRec.toNat / 8) (e.vecRec.toNat % 8)).val)
  | .vecEvents => d.tileVal e.vecCtx.toNat e.vecTile.toNat (fun x => pairVal x.emptyRows x.satElem)
  | .sfuTileSel => selVal e.sfuCtx (at' e.sfuTbl.toNat 8 + e.sfuTile.toNat)
  | .sfuTblState => d.tileVal e.sfuCtx.toNat e.sfuTile.toNat (fun x => d.tblVal x e.sfuTile.toNat e.sfuTbl.toNat)
  | .sfuLoadSrc => d.sfu.regs.src.toNat
  | .sfuLoadTmask i => if i = 0 then d.sfu.regs.tmask0.toNat else d.sfu.regs.tmask1.toNat
  | .sfuLoadCtl => d.sfu.regs.ctlVal
  | .sfuLoadStatus => at' d.sfu.state.toNat 8 + d.sfu.status.toNat
  | .sfuEvents => d.tileVal e.sfuCtx.toNat e.sfuTile.toNat (fun x => pairVal x.varClamp x.posRange)
  | .layTileSel => selVal e.layCtx e.layTile.toNat
  | .layEvents => d.tileVal e.layCtx.toNat e.layTile.toNat (fun x => pairVal x.idxRange x.conflict)
  | .layTilePos => d.posVal e.layCtx.toNat e.layTile.toNat
  | .layDtab c => baseVal (d.ctx c).dtabBase (d.ctx c).dtabEn
  | .grxBktCtl => selVal e.grxCtx (at' (b2n e.grxEfKeep) 12 + e.grxBucket.toNat)
  | .grxOpStatus => statusVal d.grxStatus d.grxPend
  | .grxBktState => d.bktVal
  | .grxBtab c => baseVal (d.ctx c).btabBase (d.ctx c).btabEn
  | .grxEvents c w => (d.ctx c).grxEv.word w
  | .updBlkCtl => selVal e.updCtx e.updEntry.toNat
  | .updOpStatus => statusVal d.updStatus d.updPend
  | .updList c w => if w = 0 then (d.ctx c).upd.listW0.toNat else (d.ctx c).upd.listW1.toNat
  | .updNormCfg c w => if w = 0 then (d.ctx c).upd.normW0.toNat else (d.ctx c).upd.normW1.toNat
  | .updRootCfg c w => if w = 0 then (d.ctx c).upd.rootW0.toNat else (d.ctx c).upd.rootW1.toNat
  | .updTabs c w => if w = 0 then (d.ctx c).upd.tabsW0.toNat else (d.ctx c).upd.tabsW1.toNat
  | .updListState c => (d.ctx c).upd.stateVal
  | .updEvents c => (d.ctx c).upd.eventsVal
  | .telExcFlags c => (d.ctx c).exc.toNat
  | .secState => s.secVal
  | .secOp w => if w = 0 then s.rst.src.toNat else s.rst.len.toNat
  | .secOpStatus => statusVal s.rst.secStatus s.rst.secPend
  | .secAttkey i => fld s.rst.attKey.toNat (64 * i + 63) (64 * i)
  | .farrCtl => selVal d.farr.ctlCtx 0
  | .farrOpStatus => statusVal d.farr.status d.farr.pend
  | .farrState => d.faultVal
  | .farrShort => d.shortVal
  | .farrMount => d.mountVal
  | .farrCtx c => (d.ctx c).farrVal

/-! ## Read-clear fields (R407) -/

/-- A change of the selected tile, if the tile set has it. -/
def Dev.clearTile (d : Dev) (c t : Nat) (f : Tile → Tile) : Dev :=
  if (d.ctx c).ntile.toNat ≤ t then d else d.modTile c t f

/-- The fields a read clears; `hi` and `lo` say whether it covers bits [63:32] and [31:0]. -/
def Dev.regClear (d : Dev) (r : Reg) (hi lo : Bool) : Dev :=
  let e := d.sel
  let z {n : Nat} (b : Bool) (x : BitVec n) : BitVec n := if b then 0 else x
  match r with
  | .hifCtxEvents c => d.modCtx c (fun x => { x with
      evtLost := z hi x.evtLost, telLost := z hi x.telLost, headErr := z lo x.headErr })
  | .pwrPace => if hi then { d with pwr := { d.pwr with pmin := 0xFFFF } } else d
  | .timeEvents => d.setTime { d.time with
      dropFrm := z hi d.time.dropFrm, steps := z lo d.time.steps, ppsBad := z lo d.time.ppsBad }
  | .fabLinkState =>
    let l := d.fab.linkSel.toNat
    let k := d.link l
    if hi then d.setLink l { k with replay := 0 } else d
  | .fabLinkErr =>
    let l := d.fab.linkSel.toNat
    let k := d.link l
    d.setLink l { k with fecCorr := z hi k.fecCorr, fecUnc := z lo k.fecUnc, crcErr := z lo k.crcErr }
  | .fabDrop => { d with fab := { d.fab with drop := z lo d.fab.drop } }
  | .fabEvents c => d.modCtx c (fun x => { x with
      refused := z hi x.refused, lostOp := z lo x.lostOp, ovfAcc := z lo x.ovfAcc })
  | .memPool => { d with mem := { d.mem with winRej := z hi d.mem.winRej } }
  | .memChState =>
    let n := d.mem.selCh.toNat
    let h := d.mem.chan n
    if d.chanSeen then { d with mem := d.mem.setChan n { h with corr := z hi h.corr } } else d
  | .memEcc => d.clearTile d.mem.selCtx.toNat d.mem.selTile.toNat (fun x => { x with tsCorr := z lo x.tsCorr })
  | .syncEvents c => d.modCtx c (fun x => { x with satCnt := z hi x.satCnt, ignored := z lo x.ignored })
  | .dispDbErrors c => d.modCtx c (fun x => { x with dbErrors := z lo x.dbErrors })
  | .mtxEccCorr => d.clearTile e.mtxCtx.toNat e.mtxTile.toNat (fun x => { x with
      eccAccum := z hi x.eccAccum, eccPlane := z lo x.eccPlane })
  | .vecEvents => d.clearTile e.vecCtx.toNat e.vecTile.toNat (fun x => { x with
      emptyRows := z hi x.emptyRows, satElem := z lo x.satElem })
  | .sfuEvents => d.clearTile e.sfuCtx.toNat e.sfuTile.toNat (fun x => { x with
      varClamp := z hi x.varClamp, posRange := z lo x.posRange })
  | .layEvents => d.clearTile e.layCtx.toNat e.layTile.toNat (fun x => { x with
      idxRange := z hi x.idxRange, conflict := z lo x.conflict })
  | .grxEvents c w => d.modCtx c (fun x => { x with grxEv :=
      if w = 0 then { x.grxEv with late := z hi x.grxEv.late, rescale := z lo x.grxEv.rescale, exhaust := z lo x.grxEv.exhaust }
      else { x.grxEv with frozen := z hi x.grxEv.frozen, stepMis := z lo x.grxEv.stepMis, prepass := z lo x.grxEv.prepass } })
  | .updEvents c => d.modCtx c (fun x => { x with upd := { x.upd with
      evFrozen := z hi x.upd.evFrozen, evRootFail := z lo x.upd.evRootFail, evStepMis := z lo x.upd.evStepMis } })
  | .farrState => { d with farr := { d.farr with ewRepeat := z lo d.farr.ewRepeat } }
  | .farrMount => { d with farr := { d.farr with notices := z lo d.farr.notices } }
  | _ => d

/-! ## The host's reads -/

def Dev.answer (d : Dev) (v : Nat) : Dev := { d with hif := { d.hif with readData := BitVec.ofNat 64 v } }

/-- A read of TIME_NOW's low half latches TIME_FRAC (R406). -/
def Dev.latchFrac (d : Dev) (r : Reg) : Dev :=
  if r = Reg.timeNow then d.setTime { d.time with fracLatch := d.time.frac } else d

/-- A 64-bit read. -/
def State.read64 (s : State) (r : Reg) : State :=
  let v := s.regValue r
  { s with dev := ((s.dev.regClear r true true).latchFrac r).answer v }

/-- A 32-bit read of the low half: it latches the high half of a wide field. -/
def State.read32Low (s : State) (a : Nat) (r : Reg) : State :=
  let v := s.regValue r
  let d := ((s.dev.regClear r false true).latchFrac r).answer (v % 2 ^ 32)
  { s with dev :=
    if r.latches then { d with hif := { d.hif with latched := Tab.set d.hif.latched a (BitVec.ofNat 32 (v / 2 ^ 32)) } }
    else d }

/-- A 32-bit read of the high half: the latched value where there is one. -/
def State.read32High (s : State) (a : Nat) (r : Reg) : State :=
  let v := s.regValue r
  match Tab.find s.dev.hif.latched a with
  | some h =>
    let d := s.dev.answer h.toNat
    { s with dev := { d with hif := { d.hif with latched := Tab.del d.hif.latched a } } }
  | none => { s with dev := (s.dev.regClear r true false).answer (v / 2 ^ 32) }

/-- A read of BAR0 by the host. -/
def State.registerRead (s : State) (addr : Nat) (size : Access) : State :=
  let a := addr / 8 * 8
  let zero : State := { s with dev := s.dev.answer 0 }
  if !s.dev.secOpen then s
  else if s.dev.up.recovery && !inRecoveryWindow addr then zero
  else
    match regOf a, size with
    | none, _ => zero
    | some r, .word64 => if addr % 8 = 0 then s.read64 r else zero
    | some r, .word32 =>
      if addr % 8 = 0 then s.read32Low a r else if addr % 8 = 4 then s.read32High a r else zero
    | some _, .other => zero

end Sys2Proof.Machine
end

