-- ==== Sys2Proof/Machine/Spdm.lean ====
section
/-! DEFINITION. The SPDM requests that the groom firmware answers over the DOE mailbox (R402, Table 16.12). -/
namespace Sys2Proof.Machine
open Sys2Proof

/-- A request reaches running firmware through a link that is up; else nothing answers it. -/
def State.onSpdm (s : State) (f : State → State) : State :=
  if s.rst.fwRunning && s.dev.up.cxl && s.dev.hif.up then f s else s

def State.reply (s : State) (a : DoeAnswer) : State := { s with dev := { s.dev with hif := { s.dev.hif with doe := some a } } }
def State.spdmTo (s : State) (x : Spdm) : State := { s with rst := { s.rst with spdm := x } }

/-- A request outside its order is answered with an error.
DEDUCED, log entry 108. -/
def State.spdmIn (s : State) (ok : Bool) (f : State → State) : State :=
  s.onSpdm (fun s => if ok then f s else s.reply .error)

/-- GET_VERSION begins a connection anew. -/
def State.getVersion (s : State) : State := s.onSpdm (fun s => (s.spdmTo .version).reply .version)

def execGetVersion (s : State) : Host.Outcome State Fault Refusal := .next s.getVersion

def State.getCapabilities (s : State) : State :=
  s.spdmIn (s.rst.spdm == .version) (fun s => (s.spdmTo .capabilities).reply .capabilities)

def execGetCapabilities (s : State) : Host.Outcome State Fault Refusal := .next s.getCapabilities

/-- The requester's offers hold every algorithm of the device.
DEDUCED, log entry 108. -/
def State.negotiate (s : State) (offered : Bool) : State :=
  s.spdmIn (s.rst.spdm == .capabilities && offered) (fun s => (s.spdmTo .negotiated).reply .algorithms)

def execNegotiateAlgorithms (ed25519 sha512 secp384r1 aes256gcm : Bool) (s : State) :
    Host.Outcome State Fault Refusal :=
  .next (s.negotiate (ed25519 && sha512 && secp384r1 && aes256gcm))

/-! ## Measurements (Table 16.12) -/

/-- The algorithms have been negotiated. -/
def Spdm.ready (x : Spdm) : Bool := x == .negotiated || x == .session || x == .established

/-- The content of a measurement block. -/
def State.measurement (s : State) (i : Nat) : List Byte :=
  let r := s.rst
  match i with
  | 1 => Config.romHash
  | 2 => sha512 r.runImage
  | 3 => leBytes 4 r.runSvn.toNat ++ leBytes 4 r.rollback.toNat
  | 4 => sha512 r.opts.records
  | 5 => (match r.opts.opKey with
          | some k => sha512 (leBytes 32 k.toNat)
          | none => zeros 64)
  | _ => leBytes 1 (b2n r.opts.ide + at' (b2n r.opts.dflt) 1 + at' (b2n s.dev.up.recovery) 2)

/-- The blocks a request names: one, or all of them with index 0xFF. -/
def measurementIndices (index : Nat) : List Nat :=
  if index = 0xFF then [1, 2, 3, 4, 5, 6] else if 1 ≤ index && index ≤ 6 then [index] else []

/-- The blocks, signed by the ROM with the per-boot key over the nonce and the blocks. -/
def State.measure (s : State) (index : Nat) (nonce : BitVec 256) (sign : Bool) : State :=
  let ix := measurementIndices index
  s.spdmIn (s.rst.spdm.ready && !ix.isEmpty) (fun s =>
    let blocks := ix.map (fun i => (i, s.measurement i))
    let msg := leBytes 32 nonce.toNat ++ blocks.flatMap Prod.snd
    s.reply (.measurements blocks (if sign then some (Config.romSign s.rst.attKey msg) else none)))

def execGetMeasurements (index : Byte) (nonce : BitVec 256) (sign : Bool) (s : State) :
    Host.Outcome State Fault Refusal :=
  .next (s.measure index.toNat nonce sign)

/-! ## Sessions -/

/-- The device's own exchange data, 96 bytes of secp384r1, are drawn afresh (log entry 5). -/
def Dev.drawExchange (d : Dev) : List Byte × Dev :=
  let k := d.freeCtr
  ((List.range 12).flatMap (fun i => leBytes 8 (Config.freeValue (k + i)).toNat), { d with freeCtr := k + 12 })

def State.keyExchange (s : State) (data : List Byte) : State :=
  s.spdmIn (s.rst.spdm == .negotiated && data.length == 96) (fun s =>
    let (own, d) := s.dev.drawExchange
    (({ s with dev := d } : State).spdmTo .session).reply (.keyExchange own (Config.romSign s.rst.attKey (data ++ own))))

def execKeyExchange (exchangeData : List Byte) (s : State) : Host.Outcome State Fault Refusal :=
  .next (s.keyExchange exchangeData)

def State.finishSession (s : State) (macValid : Bool) : State :=
  s.spdmIn (s.rst.spdm == .session) (fun s =>
    if macValid then (s.spdmTo .established).reply .finished else (s.spdmTo .negotiated).reply .error)

def execFinish (macValid : Bool) (s : State) : Host.Outcome State Fault Refusal := .next (s.finishSession macValid)

def State.endSession (s : State) : State :=
  s.spdmIn (s.rst.spdm == .session || s.rst.spdm == .established) (fun s => (s.spdmTo .negotiated).reply .ended)

def execEndSession (s : State) : Host.Outcome State Fault Refusal := .next s.endSession

end Sys2Proof.Machine
end

