-- ==== Sys2Proof/Machine/Links.lean ====
section
/-! DEFINITION. Accesses that reach the device beside BAR0: the board sideband (R362), the power-management state (R340),
the CDAT (R342), CXL IDE key management (R336) and host snoops (Table 14.1). -/
namespace Sys2Proof.Machine
open Sys2Proof

/-! ## Board sideband (R362, Table 14.12, R402) -/

/-- Pace of the slower die.
DEDUCED, log entry 110. -/
def Pwr.pace (p : Pwr) : Nat := min p.pace0.toNat p.pace1.toNat

/-- A field that reads 0 until release step `k` has completed (R362). -/
def State.afterStep (s : State) (k v : Nat) : Nat := if s.rst.boot < k then 0 else v

/-- The bytes a sideband register reads; none for an index without a register. The island reads the sensors (step 1) and,
with the addresses of the option store, the regulators (step 2); the pace counters belong to the dies (step 8).
DEDUCED, log entry 110. -/
def State.sidebandValue (s : State) (index : Nat) : List Byte :=
  let d := s.dev
  match index with
  | 0x00 => leBytes 2 0xC0D0
  | 0x02 => leBytes 1 0xB1
  | 0x03 => leBytes 1 (s.rst.boot + at' (b2n d.up.recovery) 7)
  | 0x04 => leBytes 2 (s.afterStep 1 d.pwr.tjMax.toNat)
  | 0x06 => leBytes 2 (s.afterStep 8 d.pwr.pace)
  | 0x08 => leBytes 2 (s.afterStep 2 d.pwr.power.toNat)
  | 0x0A => leBytes 2 (at' d.actTiles 8 + d.shortBits)
  | 0x0C => leBytes 1 (at' d.fab.timeQual.toNat 2 + d.farr.kind.toNat)
  | 0x10 => [d.side.alert]
  | 0x11 => [d.side.alertEn]
  | 0x20 => if s.rst.fwOk then (sha512 (leBytes 32 s.rst.attKey.toNat)).take 16 else zeros 16
  | _ => []

/-- SB_ALERT_N is asserted. -/
def Side.alerting (a : Side) : Bool := a.alert &&& a.alertEn != 0

/-- A write by the board controller: ALERT bits written as 1 are cleared, ALERTEN is set; every other register is
read-only. -/
def Side.write (a : Side) (index : Nat) (bs : List Byte) : Side :=
  match index, bs with
  | 0x10, [b] => { a with alert := a.alert &&& ~~~b }
  | 0x11, [b] => { a with alertEn := b }
  | _, _ => a

def State.sideband (s : State) (index : Nat) (write : Option (List Byte)) : State :=
  match write with
  | none => { s with dev := { s.dev with side := { s.dev.side with read := s.sidebandValue index } } }
  | some bs => { s with dev := { s.dev with side := s.dev.side.write index bs } }

def execSidebandAccess (index : Byte) (write : Option (List Byte)) (s : State) : Host.Outcome State Fault Refusal :=
  .next (s.sideband index.toNat write)

/-! ## Configuration space and DOE -/

/-- The configuration space answers. -/
def Dev.cfgOpen (d : Dev) : Bool := d.up.cxl && d.hif.up

/-- D3hot disables BAR decoding and nothing else (Table 14.2). -/
def execD3hotTransition (enter : Bool) (s : State) : Host.Outcome State Fault Refusal :=
  s.onDev (fun d => if d.cfgOpen then { d with hif := { d.hif with d3hot := enter } } else d)

def Dev.doeReply (d : Dev) (a : DoeAnswer) : Dev := { d with hif := { d.hif with doe := some a } }

/-- The entries of the CDAT (R342). -/
def cdatEntries : List CdatEntry :=
  [.dsmas 0 windowSize, .readLatencyNs 600, .writeLatencyNs 600, .readBandwidthGBs 54, .writeBandwidthGBs 54]

def Dev.cdatRead (d : Dev) (entry : Nat) : Dev :=
  if d.cfgOpen then d.doeReply (match cdatEntries[entry]? with | some e => .cdat e | none => .error) else d

def execCdatTableAccess (entry : U16) (s : State) : Host.Outcome State Fault Refusal :=
  s.onDev (fun d => d.cdatRead entry.toNat)

/-- IDE keys are managed over an established session, where the IDE option is enabled.
DEDUCED, log entry 109. -/
def State.ideOpen (s : State) : Bool := s.rst.spdm == .established && s.rst.opts.ide && s.dev.cfgOpen

/-- A key is programmed for a stream; keys in place come into use; their use ends.
DEDUCED, log entry 109. -/
def Dev.ideKey (d : Dev) (m : IdeMsg) : Dev :=
  match m with
  | .keyProg st key =>
    ({ d with hif := { d.hif with ideKeys := Tab.set d.hif.ideKeys st.toNat key } } : Dev).doeReply .ideAck
  | .keySetGo st =>
    if (Tab.find d.hif.ideKeys st.toNat).isSome then
      ({ d with hif := { d.hif with ide := true } } : Dev).doeReply .ideAck
    else d.doeReply .error
  | .keySetStop st =>
    let keys := Tab.del d.hif.ideKeys st.toNat
    ({ d with hif := { d.hif with ide := d.hif.ide && !keys.isEmpty, ideKeys := keys } } : Dev).doeReply .ideAck

def execIdeKeyManagement (m : IdeMsg) (s : State) : Host.Outcome State Fault Refusal :=
  s.onDev (fun d => if s.ideOpen then d.ideKey m else d)

/-- The device caches no host line, so that every snoop is answered as a miss. -/
def execHostSnoop (_line : Nat) (s : State) : Host.Outcome State Fault Refusal :=
  s.onDev (fun d => if d.hif.up && d.hif.cache then { d with hif := { d.hif with snoopMiss := d.hif.snoopMiss + 1 } } else d)

end Sys2Proof.Machine
end

