-- ==== Sys2Proof/Machine/Registers.lean ====
section
/-! DEFINITION. The host's writes of set-up registers (R341, R404 to R409): fields of their own are set or cleared, and a
register that carries an operation performs it. -/
namespace Sys2Proof.Machine
open Sys2Proof

/-- A register write: the value with the fields of the halves not written as they stand, and which halves are
written (R405). -/
structure RegW where
  val : Nat
  hi : Bool
  lo : Bool
  deriving DecidableEq, Repr

def RegW.fld (x : RegW) (hi lo : Nat) : Nat := Machine.fld x.val hi lo
def RegW.bit (x : RegW) (i : Nat) : Bool := Machine.bit x.val i
def RegW.word (x : RegW) : U64 := BitVec.ofNat 64 x.val

/-- A bit written as 1, for a field that a write of 1 clears. -/
def RegW.one (x : RegW) (i : Nat) : Bool := (if 32 ≤ i then x.hi else x.lo) && x.bit i

/-! ## Registers of the TIME block -/

/-- PTP switched on or off. -/
def TimeBlk.enable (t : TimeBlk) (on : Bool) : TimeBlk :=
  if on = t.ptpEn then t
  else if on then { t with ptpEn := true, port := .listening }
  else
    { t with
      ptpEn := false, port := .disabled, foreign := [], best := none, syncRx := none, ms := none, pathDelay := none
      reqTx := none, pReqTx := none }

/-- TIME_BRIDLE word 1; a TRANSPORT other than 1 and 2 is refused. -/
def Dev.bridleWrite (d : Dev) (x : RegW) : Dev :=
  let tr := x.fld 41 40
  if tr = 1 || tr = 2 then
    let t := { d.time with
      delayP2p := x.bit 42, transport := BitVec.ofNat 2 tr, domain := BitVec.ofNat 8 (x.fld 39 32)
      ipv4 := BitVec.ofNat 32 (x.fld 31 0) }
    (d.setTime (t.enable (x.bit 43))).reselect
  else d

/-- TIME_PPS; MODE 3 is refused, and OFF ignores what came before. -/
def Dev.ppsWrite (d : Dev) (x : RegW) : Dev :=
  let m := x.fld 1 0
  if m = 3 then d
  else
    let t := { d.time with ppsMode := BitVec.ofNat 2 m }
    (d.setTime (if m = 0 then { t with pps := 0, ppsLast := none } else t)).reselect

/-- The word that a write of the high half makes: with the low half that waits for it (R406), or with the
other half as it stands when none waits (R405). -/
def RegW.withLow (x : RegW) (lo : Option U32) : U64 :=
  match x.lo, lo with
  | false, some l => BitVec.ofNat 64 (at' (x.fld 63 32) 32 + l.toNat)
  | _, _ => x.word

/-- TIME_SET: a 32-bit write of the low half waits for the high half (R406). -/
def Dev.timeSetWrite (d : Dev) (x : RegW) : Dev :=
  if x.hi then (d.setTime { d.time with setLo := none }).timeSet (x.withLow d.time.setLo)
  else d.setTime { d.time with setLo := some (BitVec.ofNat 32 (x.fld 31 0)) }

/-! ## Operation registers -/

/-- SYNC_MAP_ENTRY: as TIME_SET (R406). -/
def Dev.mapEntryWrite (d : Dev) (x : RegW) : Dev :=
  if x.hi then { d with sync := { d.sync with entryLo := none } }.mapWrite (x.withLow d.sync.entryLo)
  else { d with sync := { d.sync with entryLo := some (BitVec.ofNat 32 (x.fld 31 0)) } }

/-- SYNC_HITCH_OP (Table 8.6). -/
def Dev.hitchOpWrite (d : Dev) (x : RegW) : Dev :=
  let n : U32 := BitVec.ofNat 32 (x.fld 63 32)
  if !x.lo then d
  else
    match x.fld 3 0 with
    | 1 => d.hitchOp (fun e => failIf e.barrier .invalidWord) (fun d c e => d.runJobs [.raise c e.key n.toNat])
    | 2 => d.hitchOp (fun e => failIf ((d.hitch e.key).st == .poisoned) .ownerLost) (fun d _ e => d.setHitchOp e.key n)
    | 3 => d.hitchOp (fun _ => none) (fun d _ e => d.poisonHitch e.key)
    | _ => if d.sync.pend then d else d.syncStatus .invalidWord

/-- PWR_DOM_CTL (Table 15.9); with no operation DOMAIN alone is set. -/
def Dev.domCtlWrite (d : Dev) (x : RegW) : Dev :=
  let n : BitVec 7 := BitVec.ofNat 7 (x.fld 6 0)
  match x.fld 9 8 with
  | 1 => d.domOp n .stand
  | 2 => d.domOp n .rest
  | 3 => d.domOp n .running
  | _ =>
    if d.pwr.pend then d
    else if 80 ≤ n.toNat then d.pwrStatus .range
    else ({ d with pwr := { d.pwr with domSel := n } } : Dev).pwrStatus .done

/-- FARR_CTL (Table 13.6). -/
def Dev.farrCtlWrite (d : Dev) (x : RegW) : Dev :=
  let c := x.fld 37 32
  let d := if d.farr.pend then d else { d with farr := { d.farr with ctlCtx := BitVec.ofNat 6 c } }
  if !x.lo then d
  else
    match x.fld 3 0 with
    | 1 => d.resume c
    | 2 => d.repairOp
    | 3 => d.farrOp (fun d => (.done, d.latchWarning ewRaiseSource))
    | 4 => d.farrOp (fun d => (.done, d.ewRelease))
    | 5 => d.farrOp (fun d => (.done, d.withdraw))
    | _ => d.farrOp (fun d => (.invalidWord, d))

/-- GRX_BKT_CTL (Table 11.9). -/
def Dev.bktCtlWrite (d : Dev) (x : RegW) : Dev :=
  let c := x.fld 37 32
  let b := x.fld 9 0
  let d := if d.grxPend then d else d.selectBucket c b (x.bit 12)
  match x.fld 11 10 with
  | 1 => d.enable c b (x.bit 12)
  | 2 => d.bucketOp c b (fun _ => {})
  | 3 => d.bucketOp c b (fun k => { k with scales := [], scalesQ := [] })
  | _ => d

/-- UPD_BLK_CTL (Table 12.10). -/
def Dev.updCtlWrite (d : Dev) (x : RegW) : Dev :=
  let c := x.fld 37 32
  let j := x.fld 15 0
  let d := if d.updPend then d else d.selectEntry c j
  match x.fld 31 30 with
  | 1 => d.setFrozen c j true
  | 2 => d.setFrozen c j false
  | _ => d

/-- HIF_CTX_CTL (Table 14.25). -/
def Dev.ctxCtlWrite (d : Dev) (c : Nat) (x : RegW) : Dev :=
  match x.fld 1 0 with
  | 1 => d.preempt c
  | 2 => d.ctxResume c
  | _ => d

/-! ## Writes of the device's registers -/

def selCtxOf (x : RegW) : BitVec 6 := BitVec.ofNat 6 (x.fld 37 32)
def tileOf7 (x : RegW) (lo : Nat) : BitVec 7 := BitVec.ofNat 7 (x.fld (lo + 6) lo)

/-- A write of a register outside the RST and SEC blocks. Fields that are not writable keep their value. -/
def Dev.regWrite (d : Dev) (r : Reg) (x : RegW) : Dev :=
  let e := d.sel
  match r with
  | .hifCtxCfg c => d.ctxCfgWrite c x.word
  | .hifRing c r w => d.ringCfgWrite c r w x.word
  | .hifHostacc c i w => d.hostAccWrite c i w x.word
  | .hifCtxCtl c => d.ctxCtlWrite c x
  | .pwrRail => d.railWrite x.word
  | .pwrDomCtl => d.domCtlWrite x
  | .pwrMon => { d with pwr := { d.pwr with isOver := d.pwr.isOver && !x.one 0 } }
  | .pwrPlimit => { d with pwr := { d.pwr with plimit := BitVec.ofNat 16 (x.fld 15 0) } }
  | .pwrTherm => { d with pwr := { d.pwr with
      thresh := BitVec.ofNat 16 (x.fld 31 16), alarm := d.pwr.alarm && !x.one 0 } }
  | .timeSet => d.timeSetWrite x
  | .timeCfg => d.setTime { d.time with
      stepOk := x.bit 16, ki := BitVec.ofNat 8 (x.fld 15 8), kp := BitVec.ofNat 8 (x.fld 7 0) }
  | .timeBridle w =>
    if w = 0 then d.setTime { d.time with
      vlan := x.bit 60, vid := BitVec.ofNat 12 (x.fld 59 48), mac := BitVec.ofNat 48 (x.fld 47 0) }
    else d.bridleWrite x
  | .timeLat => d.setTime { d.time with egress := BitVec.ofNat 32 (x.fld 63 32), ingress := BitVec.ofNat 32 (x.fld 31 0) }
  | .timePps => d.ppsWrite x
  | .fabLinkSel => { d with fab := { d.fab with linkSel := BitVec.ofNat 5 (x.fld 4 0) } }
  | .fabOpTimeout =>
    if x.fld 31 0 = 0 then d else { d with fab := { d.fab with opTimeout := BitVec.ofNat 32 (x.fld 31 0) } }
  | .fabGangCfg g => d.gangCfgWrite g x.word
  | .fabWin c i w => d.winWrite c i w x.word
  | .memChSel => { d with mem := { d.mem with
      selCtx := selCtxOf x, selTile := tileOf7 x 8, selCh := BitVec.ofNat 8 (x.fld 7 0) } }
  | .memScrub =>
    let p := x.fld 23 8
    { d with mem := { d.mem with
      scrubPeriod := if p = 0 then d.mem.scrubPeriod else BitVec.ofNat 16 p, scrubEn := x.bit 0 } }
  | .memAllot c => d.memAllotWrite c x.word
  | .memStg c i => d.memStgWrite c i x.word
  | .syncMapSel => { d with sync := { d.sync with selCtx := selCtxOf x, selVid := BitVec.ofNat 16 (x.fld 15 0) } }
  | .syncMapEntry => d.mapEntryWrite x
  | .syncHitchOp => d.hitchOpWrite x
  | .dispPageSel => { d with sel := { e with
      dispCtx := selCtxOf x, dispTile := tileOf7 x 4, dispPage := BitVec.ofNat 4 (x.fld 3 0) } }
  | .mtxTileSel => { d with sel := { e with mtxCtx := selCtxOf x, mtxTile := tileOf7 x 0 } }
  | .mtxFaultLog => { d with mtxLog := { d.mtxLog with valid := d.mtxLog.valid && !x.one 0 } }
  | .vecTileSel => { d with sel := { e with
      vecCtx := selCtxOf x, vecRec := BitVec.ofNat 4 (x.fld 10 7), vecTile := tileOf7 x 0 } }
  | .sfuTileSel => { d with sel := { e with
      sfuCtx := selCtxOf x, sfuTbl := BitVec.ofNat 4 (x.fld 11 8), sfuTile := tileOf7 x 0 } }
  | .sfuLoadSrc => { d with sfu := { d.sfu with regs := { d.sfu.regs with src := x.word } } }
  | .sfuLoadTmask i =>
    let l := d.sfu.regs
    { d with sfu := { d.sfu with regs := if i = 0 then { l with tmask0 := x.word } else { l with tmask1 := x.word } } }
  | .sfuLoadCtl => d.sfuLoad x.word
  | .layTileSel => { d with sel := { e with layCtx := selCtxOf x, layTile := tileOf7 x 0 } }
  | .layDtab c => d.modCtx c (fun k => { k with dtabBase := BitVec.ofNat 27 (x.fld 38 12), dtabEn := x.bit 0 })
  | .grxBktCtl => d.bktCtlWrite x
  | .grxBtab c => d.modCtx c (fun k => { k with btabBase := BitVec.ofNat 27 (x.fld 38 12), btabEn := x.bit 0 })
  | .updBlkCtl => d.updCtlWrite x
  | .updList c w => d.updListWrite c w x.word
  | .updNormCfg c w => d.updCfgWrite .normCfg c w x.word
  | .updRootCfg c w => d.updCfgWrite .rootCfg c w x.word
  | .updTabs c w => d.updCfgWrite .tabs c w x.word
  | .telExcFlags c =>
    let m : BitVec 9 := if x.lo then BitVec.ofNat 9 (x.fld 8 0) else 0
    d.modCtx c (fun k => { k with exc := k.exc &&& ~~~m })
  | .farrCtl => d.farrCtlWrite x
  | .farrCtx c => d.modCtx c (fun k => { k with ewArm := x.bit 3 })
  | _ => d

/-! ## RST and SEC -/

/-- RST_CTL (Table 16.13). -/
def State.rstCtlWrite (s : State) (x : RegW) : State :=
  match x.fld 1 0 with
  | 1 => s.warm
  | 2 => s.reboot
  | _ => s

/-- RST_BLK (Table 16.14). -/
def State.rstBlkWrite (s : State) (x : RegW) : State :=
  if s.rst.blkPend then s
  else
    let s := { s with rst := { s.rst with blkCtx := selCtxOf x, blkTarget := BitVec.ofNat 4 (x.fld 3 0) } }
    match x.fld 9 8 with
    | 1 => s.quiesceOp s.rst.target
    | 2 => s.resetOp s.rst.target
    | _ => s

/-- SEC_OP word 1 (Table 16.15). -/
def State.secOpWrite (s : State) (x : RegW) : State :=
  let len : BitVec 25 := BitVec.ofNat 25 (x.fld 24 0)
  if !x.hi then (if s.rst.secPend then s else { s with rst := { s.rst with len := len } })
  else
    match x.fld 34 32 with
    | 1 => s.secOp false (some len) State.optPush
    | 2 => s.secOp true (some len) (State.fwPush [])
    | 3 => s.secOp false (some len) State.rollFwd
    | 4 => s.secOp false (some len) State.assignOp
    | _ => s.secOp false (some len) (fun s => (.invalidWord, s))

/-- A write of a register. -/
def State.regWrite (s : State) (r : Reg) (x : RegW) : State :=
  match r with
  | .rstCtl => s.rstCtlWrite x
  | .rstBlk => s.rstBlkWrite x
  | .secOp w =>
    if w = 0 then
      (if s.rst.secPend then s else { s with rst := { s.rst with src := BitVec.ofNat 52 (x.fld 51 0) } })
    else s.secOpWrite x
  | r => { s with dev := s.dev.regWrite r x }

/-- The value that a write of one half makes, with the other half as it reads.
DEDUCED, log entry 91. -/
def mergeHalf (old v : Nat) (hi : Bool) : Nat :=
  if hi then at' (v % 2 ^ 32) 32 + old % 2 ^ 32 else at' (old / 2 ^ 32 % 2 ^ 32) 32 + v % 2 ^ 32

/-- A write of BAR0 by the host.
DEDUCED, log entry 91. -/
def State.registerWrite (s : State) (addr : Nat) (size : Access) (v : Nat) : State :=
  if !s.dev.secOpen || (s.dev.up.recovery && !inRecoveryWindow addr) then s
  else
    match regOf (addr / 8 * 8), size with
    | none, _ => s
    | some r, .word64 => if addr % 8 = 0 then s.regWrite r ⟨v, true, true⟩ else s
    | some r, .word32 =>
      if addr % 8 = 0 then s.regWrite r ⟨mergeHalf (s.regValue r) v false, false, true⟩
      else if addr % 8 = 4 then s.regWrite r ⟨mergeHalf (s.regValue r) v true, true, false⟩
      else s
    | some _, .other => s

end Sys2Proof.Machine
end

