-- ==== Sys2Proof/Machine/Bars.lean ====
section
/-! DEFINITION. The host's memory-mapped accesses beside BAR0 and the configuration space: the doorbell pages of BAR2
(R348), the MSI-X table, pending bits and component registers of BAR4 (R341, R353), and the configuration space (R336,
R340). -/
namespace Sys2Proof.Machine
open Sys2Proof

/-- The 32-bit words that an access covers, lowest first: none for an access that is not aligned or not of 32 or 64
bits (R341). -/
def wordsOf (addr : Nat) (size : Access) : List Nat :=
  match size with
  | .word32 => if addr % 4 = 0 then [addr] else []
  | .word64 => if addr % 8 = 0 then [addr, addr + 4] else []
  | .other => []

/-- The value an access reads, word by word. -/
def readWords (word : Nat → U32) (ws : List Nat) : Nat := ws.reverse.foldl (fun v a => at' v 32 + (word a).toNat) 0

/-! ## Doorbell pages (R348, Table 14.5) -/

/-- Context and ring of a word of a doorbell page. -/
def doorbellOf (addr : Nat) : Option (Nat × Nat) :=
  let o := addr % 4096
  if addr < 2 ^ 18 && o % 8 = 0 && o / 8 < 4 then some (addr / 4096, o / 8) else none

/-- The word last written, 0 elsewhere. -/
def Dev.doorbellWord (s : Dev) (addr : Nat) : U32 :=
  match doorbellOf addr with
  | some (c, r) => (s.ring c r).door
  | none => 0

/-- A write uses the low 32 bits, and acts as SQ_TAIL or a head (R56, R350). -/
def Dev.doorbellWrite (s : Dev) (addr : Nat) (size : Access) (v : U64) : Dev :=
  match doorbellOf addr, wordsOf addr size with
  | some (c, r), _ :: _ => if r = 0 then s.tailWrite c (v.truncate 32) else s.headWrite c r (v.truncate 32)
  | _, _ => s

/-! ## BAR4 (Table 14.3) -/

/-- Entries of the MSI-X table end here, the pending bits begin at 0x8000, and the component registers at 0x1_0000
(Table 14.2). -/
def msixEntries : Nat := 2048 * 16
def pendAt : Nat := 0x8000
def componentAt : Nat := 0x10000

/-- A word of BAR4. An entry of the MSI-X table holds its address, its data and its mask bit, as PCI Express lays it out.
PRESUMED, log entry 120. -/
def Dev.bar4Word (s : Dev) (a : Nat) : U32 :=
  let v := a / 16
  if a < msixEntries then
    let e : U64 × U32 := Tab.get (0, 0) s.hif.msixTable v
    match a % 16 / 4 with
    | 0 => e.1.truncate 32
    | 1 => (e.1 >>> 32).truncate 32
    | 2 => e.2
    | _ => BitVec.ofNat 32 (b2n (bit (s.ctx (v / 32)).msixMask.toNat (v % 32)))
  else if pendAt ≤ a && a < pendAt + 256 then (s.ctx ((a - pendAt) / 4)).msixPend
  else if componentAt ≤ a && a < 2 ^ 20 then
    Config.componentWord (a - componentAt) s.hif.hdmCommitted s.hif.hdmBase s.hif.hdmSize
  else 0

/-- A write of a word of BAR4: entries of the MSI-X table. The pending bits are read-only, and the HDM decoder is
written by its commit (log entry 42).
PRESUMED, log entry 120. -/
def Dev.bar4Write (s : Dev) (a : Nat) (w : U32) : Dev :=
  let v := a / 16
  if a < msixEntries then
    let e : U64 × U32 := Tab.get (0, 0) s.hif.msixTable v
    let put (e : U64 × U32) : Dev := { s with hif := { s.hif with msixTable := Tab.set s.hif.msixTable v e } }
    match a % 16 / 4 with
    | 0 => put (e.1 / 2 ^ 32 * 2 ^ 32 + w.zeroExtend 64, e.2)
    | 1 => put (e.1 % 2 ^ 32 + w.zeroExtend 64 * 2 ^ 32, e.2)
    | 2 => put (e.1, w)
    | _ => s.maskVector v (w.getLsbD 0)
  else s

/-! ## Configuration space (R336, R340, Table 14.2) -/

/-- Support of a feature (Table 14.1). -/
def cxlSupports (ide : Bool) (f : CxlFeature) : Bool :=
  match f with
  | .cache | .mem | .hdmDb | .flit256 | .portRouting | .doe | .poison => true
  | .ide => ide
  | .hdmH | .hdmD | .flit256LatOpt | .flit68 | .mld | .dynamicCapacity | .multiHead | .cxlReset | .flr
  | .persistentFlush => false

def allFeatures : List CxlFeature :=
  [.cache, .mem, .hdmDb, .hdmH, .hdmD, .flit256, .flit256LatOpt, .flit68, .portRouting, .mld, .dynamicCapacity, .multiHead,
   .ide, .doe, .poison, .cxlReset, .flr, .persistentFlush]

/-- A word with the capability bits that lie in it: that of a feature reads 1 where the feature is supported, and else
0 (R336). -/
def capBits (ide : Bool) (off : Nat) (w : U32) : U32 :=
  allFeatures.foldl (fun (w : U32) f =>
    let (o, i) := Config.capPlace f
    let b : U32 := BitVec.ofNat 32 (2 ^ i)
    if o = off then (if cxlSupports ide f then w ||| b else w &&& ~~~b) else w) w

/-- Size of the BAR whose low word lies at an offset of the type 0 header (Table 14.3). -/
def barSize (off : Nat) : Option Nat :=
  match off with
  | 0x10 => some (2 ^ 24)
  | 0x18 => some (2 ^ 18)
  | 0x20 => some (2 ^ 20)
  | _ => none

/-- Words of the type 0 header that the host writes: the command word, the BARs and their high halves. -/
def hostWord (off : Nat) : Bool := off = 0x4 || (0x10 ≤ off && off < 0x28)

/-- A word of the configuration space. The offsets of the type 0 header are those of PCI Express.
PRESUMED, log entry 120. -/
def State.configWord (s : State) (off : Nat) : U32 :=
  let h := s.dev.hif
  let put : U32 := Tab.get 0 h.cfgWords off
  match off with
  | 0x00 | 0x2C => 0xC0D01E7A
  | 0x08 => 0x120000B1
  | 0x0C => 0
  | _ =>
    if hostWord off then
      match barSize off with
      | some n => BitVec.ofNat 32 (put.toNat / n * n + 4)
      | none => put
    else if off = Config.msixCap then
      BitVec.ofNat 32 (at' (b2n h.msixEn) 31 + at' (b2n h.msixFnMask) 30 + at' 2047 16 + (Config.configWord off).toNat % 2 ^ 16)
    else capBits s.rst.opts.ide off (Config.configWord off)

/-- A write of a word of the configuration space: what the host sets up, and the control word of MSI-X.
PRESUMED, log entry 120. -/
def Dev.configWrite (s : Dev) (off : Nat) (w : U32) : Dev :=
  if hostWord off then { s with hif := { s.hif with cfgWords := Tab.set s.hif.cfgWords off w } }
  else if off = Config.msixCap then s.msixControl (w.getLsbD 31) (w.getLsbD 30)
  else s

/-! ## The accesses -/

/-- A read or write of the host beside BAR0 reaches the device: BAR2 and BAR4 while they decode, the configuration space
while the link is up. -/
def Dev.pageOpen (s : Dev) (p : HostPage) : Bool :=
  match p with
  | .config => s.cfgOpen
  | _ => s.barOpen

/-- A word that an access beside BAR0 reads. -/
def State.pageWord (s : State) (p : HostPage) (a : Nat) : U32 :=
  match p with
  | .bar0 => 0
  | .doorbells => s.dev.doorbellWord a
  | .bar4 => s.dev.bar4Word a
  | .config => s.configWord a

/-- An access reads the words it covers.
DEDUCED, log entry 90. -/
def State.hostRead (s : State) (p : HostPage) (addr : Nat) (size : Access) : State :=
  match p with
  | .bar0 => s.registerRead addr size
  | p => if s.dev.pageOpen p then { s with dev := s.dev.answer (readWords (s.pageWord p) (wordsOf addr size)) } else s

/-- An access writes the words it covers.
DEDUCED, log entry 90. -/
def State.hostWrite (s : State) (p : HostPage) (addr : Nat) (size : Access) (v : U64) : State :=
  let each (f : Dev → Nat → U32 → Dev) : Dev :=
    ((wordsOf addr size).zip [v.truncate 32, (v >>> 32).truncate 32]).foldl (fun d e => f d e.1 e.2) s.dev
  match p with
  | .bar0 => s.registerWrite addr size v.toNat
  | .doorbells => { s with dev := s.dev.doorbellWrite addr size v }
  | .bar4 => if s.dev.barOpen then { s with dev := each Dev.bar4Write } else s
  | .config => if s.dev.cfgOpen then { s with dev := each Dev.configWrite } else s

def execRegisterWrite (addr : HostAddr) (size : Access) (v : U64) (s : State) : Host.Outcome State Fault Refusal :=
  .next (s.hostWrite addr.page addr.off.toNat size v)

def execRegisterRead (addr : HostAddr) (size : Access) (s : State) : Host.Outcome State Fault Refusal :=
  .next (s.hostRead addr.page addr.off.toNat size)

end Sys2Proof.Machine
end

