-- ==== Sys2Proof/Machine/Dispatch.lean ====
section
/-! DEFINITION. One arm per command of the block: each calls the meaning of its command. -/
namespace Sys2Proof.Machine
open Sys2Proof

/-- The effect of a command on everything but the queue. -/
def exec (i : Instr) (s : State) : Host.Outcome State Fault Refusal :=
  match i with
  | .sqTail c v hostWrites => Sys2Proof.Machine.execSqTail c v hostWrites s
  | .cqHead c v => Sys2Proof.Machine.execCqHead c v s
  | .eqHead c v => Sys2Proof.Machine.execEqHead c v s
  | .tqHead c v => Sys2Proof.Machine.execTqHead c v s
  | .load c => Sys2Proof.Machine.execLoad c s
  | .loadChain c => Sys2Proof.Machine.execLoadChain c s
  | .start c => Sys2Proof.Machine.execStart c s
  | .abort c => Sys2Proof.Machine.execAbort c s
  | .fence c => Sys2Proof.Machine.execFence c s
  | .pageLoadEnd c pos => Sys2Proof.Machine.execPageLoadEnd c pos s
  | .startQueueBegin c t => Sys2Proof.Machine.execStartQueueBegin c t s
  | .wordIssue c t => Sys2Proof.Machine.execWordIssue c t s
  | .loadCopy c t u => Sys2Proof.Machine.execLoadCopy c t u s
  | .multicast c t u => Sys2Proof.Machine.execMulticast c t u s
  | .gather c t u => Sys2Proof.Machine.execGather c t u s
  | .storeCopy c t u => Sys2Proof.Machine.execStoreCopy c t u s
  | .scatter c t u => Sys2Proof.Machine.execScatter c t u s
  | .scatterAdd c t u => Sys2Proof.Machine.execScatterAdd c t u s
  | .accumulate c t u => Sys2Proof.Machine.execAccumulate c t u s
  | .mma c t u => Sys2Proof.Machine.execMma c t u s
  | .inline c t u => Sys2Proof.Machine.execInline c t u s
  | .chain c t u => Sys2Proof.Machine.execChain c t u s
  | .apply c t u => Sys2Proof.Machine.execApply c t u s
  | .put c t => Sys2Proof.Machine.execPut c t s
  | .get c t => Sys2Proof.Machine.execGet c t s
  | .acc c t => Sys2Proof.Machine.execAcc c t s
  | .fadd c t => Sys2Proof.Machine.execFadd c t s
  | .swap c t => Sys2Proof.Machine.execSwap c t s
  | .cas c t => Sys2Proof.Machine.execCas c t s
  | .signal c t => Sys2Proof.Machine.execSignal c t s
  | .waitSignal c t w => Sys2Proof.Machine.execWaitSignal c t w s
  | .barrier c t w => Sys2Proof.Machine.execBarrier c t w s
  | .slotComplete c t w slot => Sys2Proof.Machine.execSlotComplete c t w slot s
  | .completionRecordWrite c => Sys2Proof.Machine.execCompletionRecordWrite c s
  | .partitionSelfTest c t pass => Sys2Proof.Machine.execPartitionSelfTest c t pass s
  | .mapWrite entry => Sys2Proof.Machine.execMapWrite entry s
  | .hostSignal n => Sys2Proof.Machine.execHostSignal n s
  | .set n => Sys2Proof.Machine.execSet n s
  | .poison => Sys2Proof.Machine.execPoison s
  | .memAllotWrite c v => Sys2Proof.Machine.execMemAllotWrite c v s
  | .memStgWrite c d v => Sys2Proof.Machine.execMemStgWrite c d v s
  | .patrolScrub line found => Sys2Proof.Machine.execPatrolScrub line found s
  | .rowRepair ch bank row spareLeft => Sys2Proof.Machine.execRowRepair ch bank row spareLeft s
  | .channelRetirement ch => Sys2Proof.Machine.execChannelRetirement ch s
  | .hostWindowRead a cached => Sys2Proof.Machine.execHostWindowRead a cached s
  | .hostWindowWrite a data => Sys2Proof.Machine.execHostWindowWrite a data s
  | .backInvalidateTimeout line => Sys2Proof.Machine.execBackInvalidateTimeout line s
  | .hdmCommit base size backInvalidate => Sys2Proof.Machine.execHdmCommit base size backInvalidate s
  | .dataFlit l flit fec => Sys2Proof.Machine.execDataFlit l flit fec s
  | .idleFlit l flit fec => Sys2Proof.Machine.execIdleFlit l flit fec s
  | .nakFlit l flit fec => Sys2Proof.Machine.execNakFlit l flit fec s
  | .timeFlit l flit fec => Sys2Proof.Machine.execTimeFlit l flit fec s
  | .timeFlitSend g => Sys2Proof.Machine.execTimeFlitSend g s
  | .nakResendTimeout l => Sys2Proof.Machine.execNakResendTimeout l s
  | .laneFail l => Sys2Proof.Machine.execLaneFail l s
  | .lossOfSignal l => Sys2Proof.Machine.execLossOfSignal l s
  | .detectRetry l signal => Sys2Proof.Machine.execDetectRetry l signal s
  | .trainingStateExit l => Sys2Proof.Machine.execTrainingStateExit l s
  | .trainingTimeout l => Sys2Proof.Machine.execTrainingTimeout l s
  | .putRequest => Sys2Proof.Machine.execPutRequest s
  | .getRequest => Sys2Proof.Machine.execGetRequest s
  | .accRequest => Sys2Proof.Machine.execAccRequest s
  | .faddRequest => Sys2Proof.Machine.execFaddRequest s
  | .swapRequest => Sys2Proof.Machine.execSwapRequest s
  | .casRequest => Sys2Proof.Machine.execCasRequest s
  | .signalRequest => Sys2Proof.Machine.execSignalRequest s
  | .ack => Sys2Proof.Machine.execAck s
  | .getData => Sys2Proof.Machine.execGetData s
  | .atomRes => Sys2Proof.Machine.execAtomRes s
  | .opTimeout op => Sys2Proof.Machine.execOpTimeout op s
  | .handover => Sys2Proof.Machine.execHandover s
  | .handoverTimeout l => Sys2Proof.Machine.execHandoverTimeout l s
  | .gangTimeSilence g => Sys2Proof.Machine.execGangTimeSilence g s
  | .fabGangCfgWrite g v => Sys2Proof.Machine.execFabGangCfgWrite g v s
  | .fabWinWrite c w word v => Sys2Proof.Machine.execFabWinWrite c w word v s
  | .ewNotice => Sys2Proof.Machine.execEwNotice s
  | .hold => Sys2Proof.Machine.execHold s
  | .holdAck => Sys2Proof.Machine.execHoldAck s
  | .remount => Sys2Proof.Machine.execRemount s
  | .enable c b efkeep => Sys2Proof.Machine.execEnable c b efkeep s
  | .disable c b => Sys2Proof.Machine.execDisable c b s
  | .rescaleReset c b => Sys2Proof.Machine.execRescaleReset c b s
  | .bucketStart c b => Sys2Proof.Machine.execBucketStart c b s
  | .admissionRetry c b owner => Sys2Proof.Machine.execAdmissionRetry c b owner s
  | .ownerArrival c b => Sys2Proof.Machine.execOwnerArrival c b s
  | .shareDeadline c b => Sys2Proof.Machine.execShareDeadline c b s
  | .ringSlotArrival c b => Sys2Proof.Machine.execRingSlotArrival c b s
  | .ringDeadline c b => Sys2Proof.Machine.execRingDeadline c b s
  | .slotCredit c b => Sys2Proof.Machine.execSlotCredit c b s
  | .notice c b => Sys2Proof.Machine.execNotice c b s
  | .resend c b => Sys2Proof.Machine.execResend c b s
  | .prepass c b => Sys2Proof.Machine.execPrepass c b s
  | .scale c b => Sys2Proof.Machine.execScale c b s
  | .phat c b => Sys2Proof.Machine.execPhat c b s
  | .updListWrite c word v => Sys2Proof.Machine.execUpdListWrite c word v s
  | .updateStepStart c => Sys2Proof.Machine.execUpdateStepStart c s
  | .normShareArrival c => Sys2Proof.Machine.execNormShareArrival c s
  | .kappaRecord c d => Sys2Proof.Machine.execKappaRecord c d s
  | .distributionPut c d => Sys2Proof.Machine.execDistributionPut c d s
  | .rootJob c => Sys2Proof.Machine.execRootJob c s
  | .rootJobEnd c k => Sys2Proof.Machine.execRootJobEnd c k s
  | .telemetryRecordWrite c d => Sys2Proof.Machine.execTelemetryRecordWrite c d s
  | .freeze c entry => Sys2Proof.Machine.execFreeze c entry s
  | .thaw c entry => Sys2Proof.Machine.execThaw c entry s
  | .resume c => Sys2Proof.Machine.execResume c s
  | .repair => Sys2Proof.Machine.execRepair s
  | .ewRaise => Sys2Proof.Machine.execEwRaise s
  | .ewRelease => Sys2Proof.Machine.execEwRelease s
  | .withdraw => Sys2Proof.Machine.execWithdraw s
  | .ewarnN ticks => Sys2Proof.Machine.execEwarnN ticks s
  | .hifCtxCfgWrite c v => Sys2Proof.Machine.execHifCtxCfgWrite c v s
  | .hifHostaccWrite c range word v => Sys2Proof.Machine.execHifHostaccWrite c range word v s
  | .hifRingWrite c r word v => Sys2Proof.Machine.execHifRingWrite c r word v s
  | .preempt c => Sys2Proof.Machine.execPreempt c s
  | .ctxResume c => Sys2Proof.Machine.execCtxResume c s
  | .contextSaveEnd c => Sys2Proof.Machine.execContextSaveEnd c s
  | .contextRestoreEnd c => Sys2Proof.Machine.execContextRestoreEnd c s
  | .interruptTimer c r => Sys2Proof.Machine.execInterruptTimer c r s
  | .cxlLinkDown => Sys2Proof.Machine.execCxlLinkDown s
  | .cxlLinkUp width rate flit256 => Sys2Proof.Machine.execCxlLinkUp width rate flit256 s
  | .announceMessage f a => Sys2Proof.Machine.execAnnounceMessage f a s
  | .syncMessage f src seq twoStep origin corr => Sys2Proof.Machine.execSyncMessage f src seq twoStep origin corr s
  | .followUpMessage f src seq origin corr => Sys2Proof.Machine.execFollowUpMessage f src seq origin corr s
  | .delayRespMessage f src seq received corr logMinInterval => Sys2Proof.Machine.execDelayRespMessage f src seq received corr logMinInterval s
  | .delayReqSend => Sys2Proof.Machine.execDelayReqSend s
  | .pdelayReqSend => Sys2Proof.Machine.execPdelayReqSend s
  | .pdelayReqMessage f src seq => Sys2Proof.Machine.execPdelayReqMessage f src seq s
  | .pdelayRespMessage f src seq received sent => Sys2Proof.Machine.execPdelayRespMessage f src seq received sent s
  | .arpRequest tag target sender senderMac => Sys2Proof.Machine.execArpRequest tag target sender senderMac s
  | .announceReceiptTimeout => Sys2Proof.Machine.execAnnounceReceiptTimeout s
  | .servoUpdate intervalNs => Sys2Proof.Machine.execServoUpdate intervalNs s
  | .timeSet v => Sys2Proof.Machine.execTimeSet v s
  | .timeNowRead => Sys2Proof.Machine.execTimeNowRead s
  | .ppsEdge highNs => Sys2Proof.Machine.execPpsEdge highNs s
  | .ppsLoss => Sys2Proof.Machine.execPpsLoss s
  | .sfuLoad ctl => Sys2Proof.Machine.execSfuLoad ctl s
  | .pwrRailWrite v => Sys2Proof.Machine.execPwrRailWrite v s
  | .rampStep => Sys2Proof.Machine.execRampStep s
  | .rampTimeout => Sys2Proof.Machine.execRampTimeout s
  | .stand d => Sys2Proof.Machine.execStand d s
  | .rest d => Sys2Proof.Machine.execRest d s
  | .run d => Sys2Proof.Machine.execRun d s
  | .domainTransitionEnd d sparePass => Sys2Proof.Machine.execDomainTransitionEnd d sparePass s
  | .paceUpdate near off beats => Sys2Proof.Machine.execPaceUpdate near off beats s
  | .regulatorPoll power icore vcore => Sys2Proof.Machine.execRegulatorPoll power icore vcore s
  | .sensorRead readings => Sys2Proof.Machine.execSensorRead readings s
  | .powerOn cause => Sys2Proof.Machine.execPowerOn cause s
  | .groomWatchdog core => Sys2Proof.Machine.execGroomWatchdog core s
  | .heartbeatCheck beats => Sys2Proof.Machine.execHeartbeatCheck beats s
  | .cxlConventionalReset => Sys2Proof.Machine.execCxlConventionalReset s
  | .warm => Sys2Proof.Machine.execWarm s
  | .reboot => Sys2Proof.Machine.execReboot s
  | .alwaysOnRelease => Sys2Proof.Machine.execAlwaysOnRelease s
  | .optionLoading => Sys2Proof.Machine.execOptionLoading s
  | .groomCoresRelease => Sys2Proof.Machine.execGroomCoresRelease s
  | .firmwareVerification => Sys2Proof.Machine.execFirmwareVerification s
  | .hbmRelease => Sys2Proof.Machine.execHbmRelease s
  | .hbmInitDone failed => Sys2Proof.Machine.execHbmInitDone failed s
  | .dunindRelease => Sys2Proof.Machine.execDunindRelease s
  | .cxlRelease => Sys2Proof.Machine.execCxlRelease s
  | .tilesRelease sparePass => Sys2Proof.Machine.execTilesRelease sparePass s
  | .quiesce t => Sys2Proof.Machine.execQuiesce t s
  | .reset t => Sys2Proof.Machine.execReset t s
  | .optpush len => Sys2Proof.Machine.execOptpush len s
  | .fwpush push => Sys2Proof.Machine.execFwpush push s
  | .rollfwd => Sys2Proof.Machine.execRollfwd s
  | .assign len => Sys2Proof.Machine.execAssign len s
  | .getVersion => Sys2Proof.Machine.execGetVersion s
  | .getCapabilities => Sys2Proof.Machine.execGetCapabilities s
  | .negotiateAlgorithms ed25519 sha512 secp384r1 aes256gcm => Sys2Proof.Machine.execNegotiateAlgorithms ed25519 sha512 secp384r1 aes256gcm s
  | .getMeasurements index nonce sign => Sys2Proof.Machine.execGetMeasurements index nonce sign s
  | .keyExchange exchangeData => Sys2Proof.Machine.execKeyExchange exchangeData s
  | .finish macValid => Sys2Proof.Machine.execFinish macValid s
  | .endSession => Sys2Proof.Machine.execEndSession s
  | .registerWrite addr size v => Sys2Proof.Machine.execRegisterWrite addr size v s
  | .registerRead addr size => Sys2Proof.Machine.execRegisterRead addr size s
  | .sidebandAccess index write => Sys2Proof.Machine.execSidebandAccess index write s
  | .d3hotTransition enter => Sys2Proof.Machine.execD3hotTransition enter s
  | .cdatTableAccess entry => Sys2Proof.Machine.execCdatTableAccess entry s
  | .ideKeyManagement m => Sys2Proof.Machine.execIdeKeyManagement m s
  | .hostSnoop line => Sys2Proof.Machine.execHostSnoop line s
  | .backInvalidateResponse line => Sys2Proof.Machine.execBackInvalidateResponse line s
  | .ewarnNDeassertion => Sys2Proof.Machine.execEwarnNDeassertion s
  | .regulatorConfirm => Sys2Proof.Machine.execRegulatorConfirm s
  | .farrierRepairEnd => Sys2Proof.Machine.execFarrierRepairEnd s
  | .updCfgWrite reg c word v => Sys2Proof.Machine.execUpdCfgWrite reg c word v s
  | .bridleFrameDrop => Sys2Proof.Machine.execBridleFrameDrop s
  | .msixVectorUnmask v => Sys2Proof.Machine.execMsixVectorUnmask v s

end Sys2Proof.Machine
end

