-- ==== Sys2Proof/Machine/Step.lean ====
section
/-! DEFINITION. One step: the command at the front of the queue runs with the queue's rest; on an empty
queue one tick of the timebase passes (log entry 1). -/
namespace Sys2Proof.Machine
open Sys2Proof

/-- DESIGN CHOICE, log entry 1.
DESIGN CHOICE, log entry 114. -/
def step (s : State) : Host.Outcome State Fault Refusal :=
  match s.pending with
  | [] => .next { s with dev := s.dev.tick }
  | i :: rest => exec i { s with pending := rest }

/-- The state with the command that a word spells in front of its queue; the opcode table gives no row
bits, so no word spells one (log entry 2). -/
def State.withFetchWord (s : State) (nbits w : Nat) : State :=
  match decodeTableWord nbits w with
  | some i => { s with pending := i :: s.pending }
  | none => s

end Sys2Proof.Machine
end

