-- ==== Sys2Proof/WellFormed.lean ====
section
/-! DEFINITION. Which commands are commands of the block: a flit is 256 bytes (R236), and a host write to the window
covers bytes of one 64-byte line (R228). Every other operand's type admits only what the spec admits. -/
namespace Sys2Proof

/-- A flit of 256 bytes. -/
def flitSized (flit : List Byte) : Bool := flit.length == 256

/-- Bytes of one line of the window. -/
def inOneLine (a n : Nat) : Bool := 0 < n && a % 64 + n ≤ 64

/-- The command is well formed. -/
def Instr.wf : Instr → Bool
  | .dataFlit _ flit _ => flitSized flit
  | .idleFlit _ flit _ => flitSized flit
  | .nakFlit _ flit _ => flitSized flit
  | .timeFlit _ flit _ => flitSized flit
  | .hostWindowWrite a data => inOneLine a data.length
  | _ => true

end Sys2Proof
end

