-- ==== Sys2Proof/Safety.lean ====
section
/-! DEFINITION. What counts as a safe state of the block: the MRAM that the SEC block writes is in canonical form, firmware
runs only behind step 4 of the release order (R390, R396), and it is not older than the anti-rollback counter (R396, R399). -/
namespace Sys2Proof.Safety
open Sys2Proof Sys2Proof.Machine

/-- Every store of the MRAM that commands write is in canonical form. -/
def mramCanonical (s : State) : Bool := s.rst.optA.wf && s.rst.optB.wf && s.rst.fwStore.wf

/-- Firmware runs only once step 4 is complete and while a later step, or none, comes next. -/
def bootAgrees (s : State) : Bool := !s.rst.fwRunning || (decide (4 ≤ s.rst.boot) && decide (5 ≤ s.rst.nextStep))

/-- The running image has an SVN no lower than the anti-rollback counter. -/
def notRolledBack (s : State) : Bool := !s.rst.fwRunning || decide (s.rst.rollback.toNat ≤ s.rst.runSvn.toNat)

/-- The invariant of the boot and security state. -/
def bootSafe (s : State) : Bool := mramCanonical s && bootAgrees s && notRolledBack s

end Sys2Proof.Safety

namespace Sys2Proof.Machine

/-- The device without its contexts and its host interface: what records, events and messages leave alone. -/
def Dev.outer (s : Dev) : Dev := { s with ctxs := [], hif := {} }

/-- The device without its contexts, tiles, hitches and host interface: what the cascades of the hitch fabric leave
alone. -/
def Dev.still (s : Dev) : Dev := { s with ctxs := [], tiles := [], sync := {}, hif := {} }

/-- The state with another device, or another reset, boot and security block. -/
abbrev State.withDev (s : State) (d : Dev) : State := { s with dev := d }
abbrev State.withRst (s : State) (r : Rst) : State := { s with rst := r }

/-- Nothing holds an access to the pool back or meets it: the host may cache no line that it touches (R229), and no line
that it reads awaits a check (R217) or is poisoned (R219). -/
def Dev.linesFree (s : Dev) (touch reads : List Nat) : Prop :=
  s.mem.cached touch = [] ∧ s.mem.latent.filter (fun e => reads.contains e.1) = [] ∧ s.mem.poisoned reads = false

/-- The stores of the tiles named have met no upset that a read would find (R226). -/
def Dev.storesClean (s : Dev) (c : Nat) (ts : List Nat) : Prop := ∀ t ∈ ts, (s.health c t).storeErr = none

/-- Where an engine's wait through virtual hitch `vid` may take its credits at once: the entry, mapped to an ACTIVE hitch
that is no barrier, with no waiter and at least the threshold of credits, while SYNC is not quiesced (R199, R210, R392);
`id` is the engine's number in `Dev.takeCredits`. -/
def Dev.creditsAt (s : Dev) (c id vid : Nat) (e : HEntry) : Prop :=
  s.mapEntry c vid = some e ∧ (s.hitch e.key).st = .active ∧ (s.hitch e.key).barrier = false ∧
  (s.hitch e.key).waiters = [] ∧ e.thresh1.toNat + 1 ≤ (s.hitch e.key).count.toNat ∧
  s.up.quiesced.contains 2 = false ∧ s.sync.grants.contains (.engine c id vid) = false

/-- The hitch of an entry with one threshold of credits taken (R199). -/
def Dev.paid (s : Dev) (e : HEntry) : Dev :=
  s.setHitch e.key { s.hitch e.key with
    count := BitVec.ofNat 32 ((s.hitch e.key).count.toNat - (e.thresh1.toNat + 1)) }

/-- The move at the head of its queue may be performed: it is of the kind named, its tensors lie where they can be reached,
nothing holds its pool lines back, and the stores it touches are sound. -/
def Dev.moveReady (s : Dev) (c t : Nat) (store : Bool) (op : Nat) (w : IWord) (y : ISlot) (conv : Option Conv)
    (src dst : Desc) (idx : Option Desc) : Prop :=
  s.headReady c t (if store then 5 else 1) (isMove store op) = some (w, y) ∧
  y.op = .move store op conv src dst idx ∧
  (([src, dst] ++ idx.toList).any Desc.inHost = true → s.hif.hostUp = true) ∧
  s.linesFree ((([src] ++ idx.toList ++ (if store && (op == 5 || op == 6) then [dst] else [])).flatMap (s.descLines c))
    ++ s.descLines c dst)
    (([src] ++ idx.toList ++ (if store && (op == 5 || op == 6) then [dst] else [])).flatMap (s.descLines c)) ∧
  s.storesClean c (([src, dst] ++ idx.toList).filterMap Desc.storeTile)

/-- The request at the front of its kind lies in its window, and neither the host's cache nor poison holds it back: the
packet, the inbox without it, and its place (R17, R229, R256). -/
def Dev.requestReady (s : Dev) (op : Nat) (n : Packet → Nat) (reads : Bool) (p : Packet) (rest : List Packet) (sp : Space)
    (a : Nat) : Prop :=
  takeOp op s.fab.inbox = some (p, rest) ∧ s.target p (n p) = some (sp, a) ∧
  (sp = .hbm → s.linesFree (linesOf ((s.ctx p.ctx).pool a) (n p))
    (if reads then linesOf ((s.ctx p.ctx).pool a) (n p) else []))

/-- The device without the packets it has taken up. -/
def Dev.withInbox (s : Dev) (rest : List Packet) : Dev := { s with fab := { s.fab with inbox := rest } }

/-- A performed request raises its hitch and is answered (R204, R250). -/
def Dev.answerRequest (s : Dev) (p : Packet) (rsp : Nat) (v : AccOut) (data : List Byte) : Dev :=
  (s.raiseRemote p).2.respond p rsp (s.raiseRemote p).1 v data

/-- A flit that a link takes in and that is sound, its header read (R236, R237). -/
def Dev.soundFlit (s : Dev) (l : Nat) (flit : List Byte) (type : Nat) : Prop :=
  flit.length = 256 ∧ (s.link l).receives = true ∧ s.linkPowered l = true ∧ flitOk flit = true ∧ (parseFlit flit).type = type

/-- The host caches no line of the ranges an engine touches, and no line it reads awaits a check or is poisoned (R217,
R219, R229). -/
def Dev.rangesFree (s : Dev) (touch reads : List (Nat × Nat)) : Prop :=
  (s.mem.snoop ++ s.mem.biWait).filter (inRanges touch) = [] ∧
  s.mem.latent.filter (fun e => inRanges reads e.1) = [] ∧ s.mem.poison.any (inRanges reads) = false

/-- A bucket that its engine may work on. -/
def Dev.bucketReady (s : Dev) (c b : Nat) (d : BktDesc) : Prop :=
  (s.bucket c b).desc = some d ∧ (s.bucket c b).live = true ∧ (s.ctx c).resid = .resident ∧
  s.rangesFree (s.bucketTouch c d) (s.bucketOwn c d)

/-- An update list that its engines may work on. -/
def Dev.listReady (s : Dev) (c : Nat) : Prop :=
  (s.ctx c).upd.live = true ∧ (s.ctx c).resid = .resident ∧ (s.ctx c).faultHold = false ∧
  s.rangesFree (s.listRanges c) (s.listRanges c)

/-- A management packet at the front of its kind whose reserved fields are zero (R261). -/
def Dev.mgmtReady (s : Dev) (op mask : Nat) (p : Packet) (rest : List Packet) : Prop :=
  takeOp op s.fab.inbox = some (p, rest) ∧ mgmtOk p mask = true

end Sys2Proof.Machine
end

