-- ==== Sys2Proof/Certificates/Slice0/Obligations.lean ====
section
/-! DEFINITION. The statements for the provers. Each docstring names the rules that the statement rests on. -/
open Sys2Proof Sys2Proof.Machine

/-! ## The whole machine -/

/-- A step takes the command at the front of the queue and runs it with the queue's rest. -/
def Obligations.StepRunsFrontCommand : Prop :=
  ∀ (c : Instr) (rest : List Instr) (s : State),
    step { s with pending := c :: rest } = exec c { s with pending := rest }

/-- No command changes the queue of waiting commands: exec's effect is on everything but the queue. -/
def Obligations.CommandsLeaveQueue : Prop :=
  ∀ (c : Instr) (s t : State), exec c s = .next t → t.pending = s.pending

/-- Every well-formed command completes in every state: it answers a next state, but for an access to the window beyond
its 512 GiB (R228), which no address names. -/
def Obligations.EveryCommandCompletes : Prop :=
  ∀ (c : Instr) (s : State), c.wf = true →
    (∀ a b, c = .hostWindowRead a b → a < windowSize) → (∀ a d, c = .hostWindowWrite a d → a < windowSize) →
    ∃ t, exec c s = .next t

/-- Accesses beyond the window name no address and stop (R228); a flit that is not 256 bytes is no flit (R236). -/
def Obligations.ImpossibleAccessesStop : Prop :=
  (∀ (a : Nat) (b : Bool) (s : State), windowSize ≤ a → exec (.hostWindowRead a b) s = .fault (.noSuchAddress a)) ∧
  (∀ (a : Nat) (d : List Byte) (s : State), windowSize ≤ a → exec (.hostWindowWrite a d) s = .fault (.noSuchAddress a)) ∧
  (∀ (l : LinkId) (flit : List Byte) (f : Fec) (s : State), flit.length ≠ 256 →
    ∃ w, exec (.dataFlit l flit f) s = .refused (.illFormed w) ∧ exec (.idleFlit l flit f) s = .refused (.illFormed w) ∧
      exec (.nakFlit l flit f) s = .refused (.illFormed w) ∧ exec (.timeFlit l flit f) s = .refused (.illFormed w))

/-- The boot and security invariant: MRAM in canonical form, firmware only behind step 4 (R390, R396), and never older
than the anti-rollback counter (R396, R399); every step keeps it, from every state that has it. -/
def Obligations.StepsKeepBootSafe : Prop :=
  ∀ s t : State, Safety.bootSafe s = true → step s = .next t → Safety.bootSafe t = true

/-- The anti-rollback counter only rises, only by ROLLFWD (the command, or a write of SEC_OP word 1), to the SVN of the
running image; a ROLLFWD that would not raise it completes with DONE and has no effect (R399). -/
def Obligations.RollbackCounterOnlyRises : Prop :=
  (∀ (c : Instr) (s t : State), exec c s = .next t →
    t.rst.rollback = s.rst.rollback ∨
      (s.rst.rollback.toNat < t.rst.rollback.toNat ∧ t.rst.rollback = s.rst.runSvn ∧
        (c = .rollfwd ∨ ∃ a z v, c = .registerWrite ⟨.bar0, a⟩ z v ∧ regOf (a.toNat / 8 * 8) = some (.secOp 1)))) ∧
  (∀ s : State, s.dev.secOpen = true → s.rst.secPend = false → s.dev.up.recovery = false →
    (s.rst.rollback.toNat < s.rst.runSvn.toNat →
      exec .rollfwd s = .next (s.withRst { s.rst with
        rollback := s.rst.runSvn, counter := s.rst.runSvn, secStatus := Status.done.byte })) ∧
    (s.rst.runSvn.toNat ≤ s.rst.rollback.toNat →
      exec .rollfwd s = .next (s.withRst { s.rst with secStatus := Status.done.byte })))

/-- Right after reset nothing waits, nothing is released, and the registers that the spec gives reset values hold them:
the rail at 750 mV, PMIN and PLIMIT, the operation timeout, no time source, no firmware (R362, R369, R390). The
invariant of the boot and security state holds right after reset. -/
def Obligations.ResetState : Prop :=
  (let s := State.reset
  s.pending = [] ∧ s.rst.boot = 0 ∧ s.rst.nextStep = 1 ∧ s.rst.fwRunning = false ∧ s.dev.up = {} ∧ s.dev.mem.pool = [] ∧
  s.dev.pwr.actual.toNat = 750 ∧ s.dev.pwr.target.toNat = 750 ∧ s.dev.pwr.plimit.toNat = 2400 ∧ s.dev.pwr.pmin.toNat = 65535 ∧
  s.dev.fab.opTimeout.toNat = 10000 ∧ s.dev.fab.timeQual = 3 ∧ s.dev.fab.timeHops = 0xFF ∧ s.dev.mem.scrubEn = true ∧
  s.dev.time.servo = .freerun ∧
  (∀ c r, s.dev.ring c r = {}) ∧ (∀ c v, s.dev.mapEntry c v = none) ∧ (∀ l, (s.dev.link l).st = .down) ∧
  (∀ d, (s.dev.dom d).st = .running)) ∧
  (Safety.bootSafe State.reset = true)

/-! ## Doorbells, completion records and interrupts -/

/-- A doorbell that its ring accepts is stored in the doorbell word and becomes the tail (R56) or head (R350); nothing
else changes but the host memory that the host has written itself (R349). -/
def Obligations.DoorbellsAccepted : Prop :=
  (∀ (c : CtxId) (v : U32) (hw : List Host.Cell) (s : State), s.dev.barOpen = true → (s.dev.ring c.val 0).en = true →
    v ≠ (s.dev.ring c.val 0).host → (v - (s.dev.ring c.val 0).host).toNat < 2 ^ 31 →
    (v - (s.dev.ring c.val 0).dev).toNat ≤ (s.dev.ring c.val 0).size →
    exec (.sqTail c v hw) s = .next (s.withDev ((s.dev.hostStores hw).setRing c.val 0
      { s.dev.ring c.val 0 with door := v, host := v }))) ∧
  (∀ (c : CtxId) (v : U32) (s : State), s.dev.barOpen = true → (s.dev.ring c.val 1).en = true →
    (s.dev.ring c.val 1).headOk v = true →
    exec (.cqHead c v) s = .next (s.withDev (s.dev.setRing c.val 1 { s.dev.ring c.val 1 with door := v, host := v }))) ∧
  (∀ (c : CtxId) (v : U32) (s : State), s.dev.barOpen = true → (s.dev.ring c.val 2).en = true →
    (s.dev.ring c.val 2).headOk v = true →
    exec (.eqHead c v) s = .next (s.withDev (s.dev.setRing c.val 2 { s.dev.ring c.val 2 with door := v, host := v }))) ∧
  (∀ (c : CtxId) (v : U32) (s : State), s.dev.barOpen = true → (s.dev.ring c.val 3).en = true →
    (s.dev.ring c.val 3).headOk v = true →
    exec (.tqHead c v) s = .next (s.withDev (s.dev.setRing c.val 3 { s.dev.ring c.val 3 with door := v, host := v })))

/-- A doorbell that its ring does not accept is stored and counted: a tail that moves backward or past the ring's size
in DISP_DB_ERRORS (R56), a head that moves backward or past the device index in HEADERR (R350); on a disabled ring it is
stored alone (R348). -/
def Obligations.DoorbellsIgnored : Prop :=
  (∀ (c : CtxId) (v : U32) (s : State), s.dev.barOpen = true → (s.dev.ring c.val 0).en = true →
    v ≠ (s.dev.ring c.val 0).host →
    (2 ^ 31 ≤ (v - (s.dev.ring c.val 0).host).toNat ∨ (s.dev.ring c.val 0).size < (v - (s.dev.ring c.val 0).dev).toNat) →
    ∃ t, exec (.sqTail c v []) s = .next t ∧ (t.dev.ctx c.val).dbErrors = satAdd (s.dev.ctx c.val).dbErrors 1 ∧
      t.dev.ring c.val 0 = { s.dev.ring c.val 0 with door := v } ∧ t.dev.outer = s.dev.outer ∧
      ∀ k, k ≠ c.val → t.dev.ctx k = s.dev.ctx k) ∧
  (∀ (c : CtxId) (v : U32) (s : State), s.dev.barOpen = true → (s.dev.ring c.val 1).en = true →
    (s.dev.ring c.val 1).headOk v = false →
    ∃ t, exec (.cqHead c v) s = .next t ∧ (t.dev.ctx c.val).headErr = satAdd (s.dev.ctx c.val).headErr 1 ∧
      t.dev.ring c.val 1 = { s.dev.ring c.val 1 with door := v } ∧ t.dev.outer = s.dev.outer ∧
      ∀ k, k ≠ c.val → t.dev.ctx k = s.dev.ctx k) ∧
  (∀ (c : CtxId) (v : U32) (s : State), s.dev.barOpen = true → (s.dev.ring c.val 0).en = false →
    exec (.sqTail c v []) s = .next (s.withDev (s.dev.setRing c.val 0 { s.dev.ring c.val 0 with door := v })))

/-- The oldest completion record waiting of a context, of an enabled ring with room and a reachable host memory, is written:
its 64 bytes stand at the ring's write index and no other byte of host memory changes, RETIRED is that of the record or
else the last position retired, the index advances by one, and the record no longer waits (R57, R67, R350). Its launch
record is no longer outstanding, unless the status is FAULT_DISCARDED, which leaves the outstanding records as they are
(R57). The interrupt timer of a ring with records counted restarts the count and sends the ring's message, or leaves it
pending on a masked vector; with none counted it does nothing. Unmasking a vector sends its pending message, while MSI-X
is enabled and the function is not masked (R353). -/
def Obligations.RecordsAndInterruptsAreSent : Prop :=
  (∀ (c : CtxId) (s : State) (q : Cpl) (rest : List Cpl), (s.dev.ctx c.val).cpls = q :: rest →
    (s.dev.ring c.val 1).en = true → (s.dev.ring c.val 1).room = true → s.dev.hif.hostUp = true →
    s.dev.hif.hostMem.wf = true →
    let g := s.dev.ring c.val 1
    let a := g.base.toNat * 4096 + g.dev.toNat % g.size * 64
    ∃ t r, exec (.completionRecordWrite c) s = .next t ∧ (∀ x, q.retiredAt = some x → r = x) ∧
      (q.retiredAt = none → 0 < (t.dev.ctx c.val).retired →
        r = BitVec.ofNat 64 (((t.dev.ctx c.val).retired - 1) % 2 ^ 32)) ∧
      Mem.readN t.dev.hif.hostMem a 64 = q.bytes g.phase r s.dev.time.ns (s.dev.ctx c.val).exc ∧
      (∀ x, (x < a ∨ a + 64 ≤ x) → Mem.read t.dev.hif.hostMem x = Mem.read s.dev.hif.hostMem x) ∧
      (t.dev.ring c.val 1).dev = g.dev + 1 ∧ rest <+: (t.dev.ctx c.val).cpls ∧
      (q.status ≠ .faultDiscarded → ∀ l ∈ (t.dev.ctx c.val).launches, l.pos ≠ q.pos) ∧
      (q.status = .faultDiscarded → (t.dev.ctx c.val).launches = (s.dev.ctx c.val).launches) ∧
      t.rst = s.rst ∧ t.dev.time = s.dev.time ∧ t.dev.mem = s.dev.mem ∧ t.dev.fab = s.dev.fab ∧
      t.dev.tiles = s.dev.tiles ∧ t.dev.sync = s.dev.sync ∧ ∀ k, k ≠ c.val → t.dev.ctx k = s.dev.ctx k) ∧
  ((∀ (c : CtxId) (r : Fin 4) (s : State), (s.dev.ring c.val r.val).ien = true → (s.dev.ring c.val r.val).itimer ≠ 0 →
    0 < (s.dev.ring c.val r.val).k → s.dev.hif.up = true → s.dev.hif.msixEn = true → s.dev.hif.msixFnMask = false →
    let vec := (s.dev.ring c.val r.val).vec.toNat
    ∃ t, exec (.interruptTimer c r) s = .next t ∧
      t.dev.ring c.val r.val = { s.dev.ring c.val r.val with k := 0 } ∧ t.dev.outer = s.dev.outer ∧ t.rst = s.rst ∧
      (bit (s.dev.ctx c.val).msixMask.toNat vec = false →
        t.dev.hif = { s.dev.hif with msgs := s.dev.hif.msgs ++ [32 * c.val + vec] }) ∧
      (bit (s.dev.ctx c.val).msixMask.toNat vec = true →
        bit (t.dev.ctx c.val).msixPend.toNat vec = true ∧ t.dev.hif = s.dev.hif)) ∧
  (∀ (c : CtxId) (r : Fin 4) (s : State), (s.dev.ring c.val r.val).k = 0 → exec (.interruptTimer c r) s = .next s) ∧
  (∀ (v : Fin 2048) (s : State), s.dev.barOpen = true →
    let x := s.dev.ctx (v.val / 32)
    (s.dev.hif.msixEn = true → s.dev.hif.msixFnMask = false → bit x.msixPend.toNat (v.val % 32) = true →
      ∃ t, exec (.msixVectorUnmask v) s = .next t ∧ t.dev.hif = { s.dev.hif with msgs := s.dev.hif.msgs ++ [v.val] } ∧
        bit (t.dev.ctx (v.val / 32)).msixMask.toNat (v.val % 32) = false ∧
        bit (t.dev.ctx (v.val / 32)).msixPend.toNat (v.val % 32) = false ∧ t.dev.outer = s.dev.outer ∧ t.rst = s.rst) ∧
    ((s.dev.hif.msixEn = false ∨ s.dev.hif.msixFnMask = true ∨ bit x.msixPend.toNat (v.val % 32) = false) →
      exec (.msixVectorUnmask v) s = .next (s.withDev (s.dev.modCtx (v.val / 32) (fun x => { x with
        msixMask := x.msixMask &&& ~~~(BitVec.ofNat 32 (2 ^ (v.val % 32))) })))))) 

/-! ## The dispatcher -/

/-- A record that is read and passes its checks has the effect of its type (Table 2.14): a LOAD or LOAD_CHAIN begins to
load its pages, a START starts its tiles, an ABORT latches against its targets, a FENCE waits for the records before it
(R55, R56, R58 to R60, R65, R66). In all of them the head moves past the record, which is outstanding. -/
def Obligations.DispatcherActsOnRecords : Prop :=
  ∀ (c : CtxId) (s : State), s.dev.canRead c.val = true → s.dev.recordFail c.val (s.dev.peek c.val) = none →
    let r := s.dev.peek c.val
    let d := (s.dev.takeRecord c.val).2
    let pos := (s.dev.ring c.val 0).dev
    (r.type = 1 → r.tiles ≠ [] → (r.force = true ∨ ∀ t ∈ r.tiles, ∀ p ∈ r.pages, (d.tile c.val t).pageInUse p = false) →
      exec (.load c) s = .next (s.withDev (d.beginLoad c.val r))) ∧
    (r.type = 3 → r.tiles ≠ [] → (r.force = true ∨ ∀ t ∈ r.tiles, ∀ p ∈ r.pages, (d.tile c.val t).pageInUse p = false) →
      exec (.loadChain c) s = .next (s.withDev (d.beginLoad c.val r))) ∧
    (r.type = 2 → r.tiles ≠ [] → d.startFail c.val r = none → (∀ t ∈ r.tiles, (d.tile c.val t).startq.length < 4 ∧
        ((d.tile c.val t).page r.page).st ≠ .loading) →
      exec (.start c) s = .next (s.withDev (r.tiles.foldl (Dev.startTile pos r c.val)
        (d.modLaunch c.val pos (fun l => { l with phase := .running, left := r.tiles }))))) ∧
    (r.type = 4 → ∀ ts, d.abortTargets c.val (s.dev.takeRecord c.val).1 = ts → ts ≠ [] →
      exec (.abort c) s = .next (s.withDev (ts.foldl (Dev.abortLaunch c.val)
        (d.modLaunch c.val pos (fun l => { l with phase := .aborting, targets := ts }))))) ∧
    (r.type = 5 →
      (∃ k ∈ (s.dev.ctx c.val).launches, (k.pos - BitVec.ofNat 32 (s.dev.ctx c.val).retired).toNat
        < (pos - BitVec.ofNat 32 (s.dev.ctx c.val).retired).toNat) →
      exec (.fence c) s = .next (s.withDev (d.modLaunch c.val pos (fun l => { l with phase := .fence }))))

/-- Reading a record moves the head by one and makes the launch outstanding at its ring position; nothing else of the
context changes (R56, R57). A record that is read and fails its checks starts nothing: every tile stays as it was, and
its completion record waits with the failure (R9, R55, R57). -/
def Obligations.RecordsAreReadOnce : Prop :=
  (∀ (d : Dev) (c : Nat),
    ((d.takeRecord c).2.ring c 0).dev = (d.ring c 0).dev + 1 ∧
    ((d.takeRecord c).2.ctx c).launches = (d.ctx c).launches ++ [(d.takeRecord c).1] ∧
    (d.takeRecord c).1.pos = (d.ring c 0).dev ∧ (d.takeRecord c).2.outer = d.outer ∧
    ∀ k, k ≠ c → (d.takeRecord c).2.ctx k = d.ctx k) ∧
  (∀ (c : CtxId) (s : State) (f : Failure), s.dev.canRead c.val = true →
    s.dev.recordFail c.val (s.dev.peek c.val) = some f →
    (∀ l ∈ (s.dev.ctx c.val).launches, l.pos ≠ (s.dev.ring c.val 0).dev) →
    ∀ i ∈ [(1, Instr.load c), (2, .start c), (3, .loadChain c), (4, .abort c), (5, .fence c)],
      (s.dev.peek c.val).type.toNat = i.1 →
      ∃ t, exec i.2 s = .next t ∧ t.dev.tiles = s.dev.tiles ∧ t.dev.sync = s.dev.sync ∧
        (∃ q, (t.dev.ctx c.val).cpls = (s.dev.ctx c.val).cpls ++ [q] ∧ q.pos = (s.dev.ring c.val 0).dev ∧
          q.status = f.status ∧ q.tile = f.tile))

/-- A load that ends with good data leaves its pages written and completes; the starts that waited are tried (R60, R61).
A start queue's head begins once its tile is free (R58). At program start s0 and s1 hold the arguments of the launch and
s2 to s63 hold 0, and scalar arithmetic wraps modulo 2^64 (R35, Table 2.4). -/
def Obligations.LoadsAndStartsGoOn : Prop :=
  ((∀ (c : CtxId) (pos : U32) (s : State) (l : Launch) (a : Addr) (starts : List Nat),
    s.dev.launch? c.val pos = some l → l.phase = .loading → (s.dev.ctx c.val).resid = .resident →
    (∀ t ∈ l.record.tiles, ∀ p ∈ l.record.pages, (s.dev.tile c.val t).closingBusy p = false) →
    l.record.srcAddr = some a → (a.space ≠ .hbm → s.dev.hif.hostUp = true) →
    (a.space = .hbm → s.dev.linesFree (linesOf ((s.dev.ctx c.val).pool a.off) l.record.bytes)
      (linesOf ((s.dev.ctx c.val).pool a.off) l.record.bytes)) →
    l.record.check (s.dev.readBytes c.val a l.record.bytes) = .ok starts →
    let d := l.record.tiles.foldl (Dev.writePages c.val l.pos l.record (s.dev.readBytes c.val a l.record.bytes)
      (some starts)) s.dev
    exec (.pageLoadEnd c pos) s = .next (s.withDev ((if l.record.go && l.record.type == 1 then d.startPart c.val l
      else d.finishLaunch c.val l.pos .done).retryStarts c.val))) ∧
  (∀ (c : CtxId) (t : TileId) (s : State) (e : StartReq) (rest : List StartReq), (s.dev.tile c.val t.val).startq = e :: rest →
    s.dev.freeToStart c.val t.val = true → (s.dev.ctx c.val).resid = .resident →
    exec (.startQueueBegin c t) s = .next (s.withDev
      ((s.dev.setTile c.val t.val ({ s.dev.tile c.val t.val with startq := rest }.begin' e)).retryStarts c.val)))) ∧
  ((∀ (x : Tile) (e : StartReq), (x.begin' e).reg 0 = e.arg0 ∧ (x.begin' e).reg 1 = e.arg1 ∧
    ∀ r, 2 ≤ r → (x.begin' e).reg r = 0) ∧
  (∀ a b : U64, (scalarArith 0x01 a b).toNat = (a.toNat + b.toNat) % 2 ^ 64 ∧
    (scalarArith 0x02 a b).toNat = (2 ^ 64 + a.toNat - b.toNat) % 2 ^ 64 ∧
    (scalarArith 0x03 a b).toNat = a.toNat * b.toNat % 2 ^ 64))

/-- Each load of a page, successful or not, sets the page's generation to the old generation plus 1; a load that a
device fault discards leaves its pages empty with the generation plus 1 (R61). -/
def Obligations.LoadsAdvanceGenerations : Prop :=
  (∀ (r : LaunchRec) (bs : List Byte) (res : Option (List Nat)) (closing : Bool) (p : Nat) (old : Page),
    (loadedPage r bs res closing p old).gen = old.gen + 1) ∧
  (∀ (c t p : Nat) (pos : U32) (r : LaunchRec) (bs : List Byte) (res : Option (List Nat)) (d : Dev),
    (d.tile? c t).isSome = true → p ∈ r.pages → (((Dev.writePages c pos r bs res d t).tile c t).page p).gen = ((d.tile c t).page p).gen + 1) ∧
  (∀ (x : Tile) (p : Nat), (x.page p).st = .loading →
    ((x.discardWork.page p).st = .empty ∧ (x.discardWork.page p).gen = (x.page p).gen + 1))

/-! ## Words and slots -/

/-- A program's next word that has every wait it asks for is checked, and placed where its queues have room (R45 to R47);
the signals of a WAIT_SIGNAL word are raised, and a BARRIER word enters its group, once every slot has completed (R44,
R207); a performed slot that need not wait for one before it commits its region, posts its flags, writes its returned
value and raises its SIG (R49, R83, R99, R109, R253). -/
def Obligations.WordsGoOn : Prop :=
  (∀ (c : CtxId) (t : TileId) (s : State) (d : Dev) (g g' : Prog),
    (s.dev.tile c.val t.val).prog = some g → g.stopped = false → (s.dev.ctx c.val).resid = .resident →
    s.dev.barrierStall c.val t.val (s.dev.tile c.val t.val) = false →
    ((s.dev.tile c.val t.val).page (g.off / 4096)).st = .loaded → (s.dev.tile c.val t.val).fetchStale g = false →
    (∀ l, s.dev.launch? c.val g.pos = some l → l.abort = false) →
    let w := (s.dev.tile c.val t.val).fetch g.off
    let g1 := g.latch w (s.dev.tile c.val t.val)
    (w.lstart = false ∨ g1.returning = true ∨ g1.count ≠ some 0) →
    (s.dev.modTile c.val t.val (fun x => { x with prog := some g1 })).askWaits c.val t.val w = (none, d) →
    (d.tile c.val t.val).prog = some g' → d.linesFree (d.wordLines c.val t.val w) (d.wordLines c.val t.val w) →
    exec (.wordIssue c t) s = .next (s.withDev (d.checkAndPlace c.val t.val g' w))) ∧
  (∀ (c : CtxId) (t : TileId) (seq : Nat) (s : State) (w : IWord) (h : HSlot), (s.dev.tile c.val t.val).word? seq = some w →
    w.hitch = some h → h.barrier = false → h.fin = false → w.slotsDone = true → (s.dev.ctx c.val).away = false →
    exec (.waitSignal c t seq) s = .next (s.withDev ((s.dev.modTile c.val t.val (fun x =>
      x.modWord seq (fun w => { w with hitch := some { h with fin := true } }))).runJobs
        (raiseJobs c.val [h.sig1, h.sig2] ++ [.sweep c.val t.val])))) ∧
  (∀ (c : CtxId) (t : TileId) (seq : Nat) (s : State) (d : Dev) (w : IWord) (h : HSlot) (g : HRef),
    (s.dev.tile c.val t.val).word? seq = some w → w.hitch = some h → h.group = some g → h.barrier = true → h.fin = false →
    h.entered = false → w.slotsDone = true → (s.dev.ctx c.val).away = false →
    (s.dev.modTile c.val t.val (fun x => x.modWord seq (fun w => { w with hitch := some { h with entered := true } }))).enterBarrier
      c.val t.val seq g.key = (true, d) →
    exec (.barrier c t seq) s = .next (s.withDev d)) ∧
  (∀ (c : CtxId) (t : TileId) (seq : Nat) (num : Fin 8) (s : State) (y : ISlot),
    (s.dev.tile c.val t.val).slot? seq num.val = some y → y.st = .performed → (s.dev.ctx c.val).away = false →
    (s.dev.tile c.val t.val).mustWait seq y = false →
    exec (.slotComplete c t seq num) s = .next (s.withDev (((s.dev.modTile c.val t.val (fun x =>
      ((x.takeResult y.res).commit y.work).modSlot seq num.val
        (fun z => { z with st := .ended, work := [] }))).postFlags c.val y.flags).runJobs
          (raiseJobs c.val [y.sig] ++ [.arm c.val t.val num.val, .sweep c.val t.val]))))

/-- The commands of the control core and of the hitch fabric change contexts, tiles, hitches and the host interface, and
nothing else: no memory of the device, no timebase, no link, no power state (R46, R49, R199, R202, R207, R210, R212). -/
def Obligations.ControlCoreFrame : Prop :=
  ∀ (s t : State) (i : Instr),
    ((∃ c u w, i = .waitSignal c u w) ∨ (∃ c u w, i = .barrier c u w) ∨ (∃ c u w n, i = .slotComplete c u w n) ∨
      (∃ n, i = .hostSignal n) ∨ (∃ n, i = .set n) ∨ i = .poison ∨ (∃ c u, i = .startQueueBegin c u)) →
    exec i s = .next t → t.dev.still = s.dev.still ∧ t.rst = s.rst

/-! ## The engines of a tile -/

/-- A move that is ready and meets no error moves its elements and is performed, each by the rule of its opcode: COPY
and STORE_COPY (R183), MULTICAST (R184), GATHER (R185), SCATTER (R186), SCATTER_ADD and ACCUMULATE (R187); the
beats it lost to bank conflicts are counted (R181, a free value, log entry 115). A copy changes no byte of the stacks and
staging stores but the cells it writes, and no other part of the device than contexts, tiles, hitches, these memories and
the host interface (R178, R183). -/
def Obligations.MovesArePerformed : Prop :=
  (∀ (c : CtxId) (t : TileId) (s : State) (w : IWord) (y : ISlot) (conv : Option Conv) (src dst i : Desc),
    let fin (num : Nat) (ls : List (Nat × Nat)) (r : Dev × Flags) : State :=
      s.withDev ((r.1.lostBeats c.val t.val ls).endPerform c.val t.val w.seq num r.2)
    let two := src.storeLines false ++ dst.storeLines false
    let three := src.storeLines false ++ i.storeLines false ++ dst.storeLines false
    let ready (store : Bool) (op : Nat) (idx : Option Desc) : Prop :=
      s.dev.moveReady c.val t.val store op w y conv src dst idx
    (ready false 1 none → exec (.loadCopy c t .clean) s = .next (fin 1 two (s.dev.moveCopy c.val w.step conv src dst))) ∧
    (ready false 2 none → exec (.multicast c t .clean) s = .next (fin 1 (src.storeLines false ++ dst.storeLines true)
        (s.dev.moveMulticast c.val w.step conv src dst))) ∧
    (ready false 3 (some i) →
      exec (.gather c t .clean) s = .next (fin 1 three (s.dev.moveGather c.val t.val w.step conv src dst i))) ∧
    (ready true 1 none → exec (.storeCopy c t .clean) s = .next (fin 5 two (s.dev.moveCopy c.val w.step conv src dst))) ∧
    (ready true 4 (some i) →
      exec (.scatter c t .clean) s = .next (fin 5 three (s.dev.moveScatter c.val t.val w.step conv src dst i))) ∧
    (ready true 5 (some i) →
      exec (.scatterAdd c t .clean) s = .next (fin 5 three (s.dev.moveScatterAdd c.val t.val w.step conv src dst i))) ∧
    (ready true 6 none → exec (.accumulate c t .clean) s = .next (fin 5 two (s.dev.moveAccumulate c.val w.step conv src dst)))) ∧
  (∀ (c : CtxId) (t : TileId) (s u : State) (w : IWord) (y : ISlot) (conv : Option Conv) (src dst : Desc),
    s.dev.moveReady c.val t.val false 1 w y conv src dst none → exec (.loadCopy c t .clean) s = .next u →
    u.rst = s.rst ∧ u.dev.time = s.dev.time ∧ u.dev.fab = s.dev.fab ∧ u.dev.pwr = s.dev.pwr ∧ u.dev.farr = s.dev.farr ∧
      u.dev.mem = (s.dev.writeCells c.val dst.base.space
        (dst.putCells conv w.step (indices dst.lext) src.fmt (s.dev.codes c.val src)).1).mem)

/-- The matrix, vector and function slots at the head of their queues are performed on a tile whose store is sound: an MMA
on a partition in service, whose bank region no MMA in progress writes, works out its region (R92, R93, R105, R109), a
vector slot its chain's output (R112, R119), a function slot its function of every element (R157). Committed, the work of
an MMA leaves in word (m, n) of its region the accumulation of its row and column, and every word of the banks outside
the region as it was (R93, R108, R109). -/
def Obligations.ComputingSlotsArePerformed : Prop :=
  (∀ (c : CtxId) (t : TileId) (s : State) (w : IWord) (y : ISlot), s.dev.storesClean c.val [t.val] →
    let fin (num : Nat) (r : Dev × Flags) : State := s.withDev (r.1.endPerform c.val t.val w.seq num r.2)
    (∀ fs ft bank acc keep axis sd td m n k aoff part, s.dev.headReady c.val t.val 2 isMma = some (w, y) →
      y.op = .mma fs ft bank acc keep axis sd td m n k aoff part → (s.dev.health c.val t.val).fencedPart part = false →
      (s.dev.tile c.val t.val).bankBusy bank (16 * aoff) (m * n) = false →
      exec (.mma c t .clean) s
        = .next (fin 2 (s.dev.startMma c.val t.val w.seq acc keep axis sd td bank m n k aoff part))) ∧
    (∀ (inl : Bool) st fi fo sr scm tid inp out ty ch, s.dev.headReady c.val t.val 3 (isVec inl) = some (w, y) →
      y.op = .vec inl st fi fo sr scm tid inp out ty ch →
      exec (if inl then .inline c t .clean else .chain c t .clean) s
        = .next (fin 3 (s.dev.vecEffect c.val t.val (w.key t.val 3) w.step inl st fi sr scm tid inp out ty))) ∧
    (∀ scm f inp out, s.dev.headReady c.val t.val 4 isFn = some (w, y) →
      y.op = .fn scm f inp out → exec (.apply c t .clean) s = .next (fin 4 (s.dev.fnEffect c.val f inp out)))) ∧
  (∀ (d : Dev) (c t : Nat) (acc keep axis : Bool) (sd : Desc) (td : Option Desc) (bank m n k aoff part : Nat),
    let x := d.tile c t
    let y := x.commit (d.mmaWork c t acc keep axis sd td bank m n k aoff part).1
    let block := d.mmaBlock c t keep axis td m k part
    (∀ i j, i < m → j < n → y.acc bank (accWord aoff m i j) =
      (mmaElem (if acc then x.acc bank (accWord aoff m i j) else 0) ((List.range k).map (blockElem block axis i))
        ((List.range k).map (fun q => d.operandAt c sd q j))).1) ∧
    (∀ b w, (b ≠ bank ∨ w < 16 * aoff ∨ 16 * aoff + n * m ≤ w) → b < 2 → w < 16384 → bank < 2 →
      16 * aoff + n * m ≤ 16384 → y.acc b w = x.acc b w))

/-- A remote slot at the head of its queue, with no earlier GET outstanding into its local tensor, starts: its operation
joins the remote queue with the packets it asks for, and what may be sent is sent (R20, R250 to R255). -/
def Obligations.RemoteSlotsStart : Prop :=
  ∀ (c : CtxId) (t : TileId) (s : State) (w : IWord) (y : ISlot) (k : Nat) (coord : BitVec 24) (win off : Nat) (rse : Bool)
    (rhitch : U16) (loc : Option Desc) (resreg : Nat) (operand compare : U64),
    s.dev.headReady c.val t.val 6 (isRem k) = some (w, y) →
    y.op = .rem k coord win off rse rhitch loc resreg operand compare →
    let lines := s.dev.remLines c.val loc
    s.dev.getsInto c.val t.val loc = false → s.dev.linesFree lines (if k = 2 then [] else lines) →
    s.dev.storesClean c.val (if k = 2 then [] else (loc.bind Desc.storeTile).toList) →
    let data := s.dev.remData c.val k loc compare
    let len := loc.elim 0 Desc.packedLen
    let val := if k = 4 ∨ k = 5 ∨ k = 6 then operand else 0
    let ask : Ask := { kind := k, dst := coord, win := win, off := off, rse := rse, rhitch := rhitch, data := data, len := len, operand := val }
    ∀ i ∈ [(1, Instr.put c t), (2, .get c t), (3, .acc c t), (4, .fadd c t), (5, .swap c t), (6, .cas c t),
        (7, .signal c t)], k = i.1 →
      exec i.2 s = .next (s.withDev ((((s.dev.modTile c.val t.val (fun x => x.modSlot w.seq 6 (fun z =>
        { z with st := .started }))).startOp (.slot c.val t.val w.seq 6) .slot c.val ask loc).runJobs
          [.arm c.val t.val 6]).pump))

/-! ## Hitches -/

/-- A signal adds its credits, saturating; a wait that is met takes exactly its threshold; and when waiters are served,
the credits they take and those left are the credits there were, and every waiter wakes or stays, in order (R199). -/
def Obligations.CreditsAreConserved : Prop :=
  (∀ (d : Dev) (c k n : Nat), (d.hitch k).st = .active → (d.hitch k).barrier = false →
    ((d.signal c k n).hitch k).count.toNat = min ((d.hitch k).count.toNat + n) (2 ^ 32 - 1) ∧
    ∀ j, j ≠ k → (d.signal c k n).hitch j = d.hitch j) ∧
  (∀ (d : Dev) (k n : Nat) (who : Sleeper), (d.wait k n who).1 = .taken →
    n ≤ (d.hitch k).count.toNat ∧ ((d.wait k n who).2.hitch k).count.toNat = (d.hitch k).count.toNat - n) ∧
  (∀ (away : Nat → Bool) (n : Nat) (held : Bool) (ws : List Waiter),
    let r := serveList away n held ws
    r.1 + (r.2.1.map (·.amount)).sum = n ∧ r.2.1.Sublist ws ∧ r.2.2.Sublist ws ∧
      r.2.1.length + r.2.2.length = ws.length)

/-- SYNC_HITCH_OP on a hitch on which nothing waits: SIGNAL adds credits, SET replaces them (of a barrier group, its
generation), POISON poisons; each answers DONE and touches no other hitch (R210, R212). A map write answers its status
at once; one that is accepted makes the entry read as written, or unmapped, and leaves every other entry of every
context as it was; one that is refused changes nothing else (R196 to R198). -/
def Obligations.HitchRegisterOperations : Prop :=
  (∀ (n : U32) (s : State) (e : HEntry), s.dev.barOpen = true → s.dev.sync.pend = false →
    s.dev.mapEntry s.dev.sync.selCtx.toNat s.dev.sync.selVid.toNat = some e →
    (s.dev.hitch e.key).waiters = [] → (s.dev.hitch e.key).entries = [] →
    (e.barrier = false → (s.dev.hitch e.key).st = .active → (s.dev.hitch e.key).barrier = false →
      (s.dev.hitch e.key).count.toNat + n.toNat < 2 ^ 32 →
      exec (.hostSignal n) s = .next (s.withDev ((s.dev.setHitch e.key { s.dev.hitch e.key with
        count := (s.dev.hitch e.key).count + n }).syncStatus .done))) ∧
    ((s.dev.hitch e.key).st ≠ .poisoned → (s.dev.hitch e.key).barrier = false →
      exec (.set n) s = .next (s.withDev ((s.dev.setHitch e.key { s.dev.hitch e.key with
        st := .active, count := n, disc := [] }).syncStatus .done))) ∧
    ((s.dev.hitch e.key).st ≠ .poisoned → (s.dev.hitch e.key).barrier = true →
      exec (.set n) s = .next (s.withDev ((s.dev.setHitch e.key { s.dev.hitch e.key with
        st := .active, gen := n.truncate 16, disc := [] }).syncStatus .done))) ∧
    ((s.dev.hitch e.key).st ≠ .unmapped →
      exec .poison s = .next (s.withDev ((s.dev.setHitch e.key { s.dev.hitch e.key with
        st := .poisoned }).syncStatus .done)))) ∧
  (∀ (v : U64) (s : State), s.dev.barOpen = true → s.dev.sync.pend = false →
    let c := s.dev.sync.selCtx.toNat
    let vid := s.dev.sync.selVid.toNat
    (s.dev.mapStatus c vid v.toNat = .done → ∃ t, exec (.mapWrite v) s = .next t ∧ t.dev.sync.status = 0 ∧
      t.dev.mapEntry c vid = (if (parseEntry v.toNat).2 then some (parseEntry v.toNat).1 else none) ∧
      (∀ k w, (k ≠ c ∨ w ≠ vid) → t.dev.mapEntry k w = s.dev.mapEntry k w) ∧ t.dev.still = s.dev.still ∧
      t.dev.tiles = s.dev.tiles ∧ t.rst = s.rst) ∧
    (s.dev.mapStatus c vid v.toNat ≠ .done →
      exec (.mapWrite v) s = .next (s.withDev (s.dev.syncStatus (s.dev.mapStatus c vid v.toNat)))))

/-! ## Memory -/

/-- MEM_ALLOT and MEM_STG take an accepted value and answer DONE; an enabled allotment then lies in the pool and meets
no other of at least one unit; a refused write changes the status alone (R215, R227, R415). -/
def Obligations.AllotmentsAndRanges : Prop :=
  (∀ (c : CtxId) (v : U64) (s : State), s.dev.barOpen = true → s.dev.mem.pend = false →
    s.dev.allotStatus c.val v.toNat = .done → ∃ t, exec (.memAllotWrite c v) s = .next t ∧ t.dev.mem.status = 0 ∧
      (t.dev.ctx c.val).allotEn = v.getLsbD 0 ∧ (t.dev.ctx c.val).allotBase = v.extractLsb' 1 11 ∧
      (t.dev.ctx c.val).allotSize = v.extractLsb' 32 12 ∧ (∀ k, k ≠ c.val → t.dev.ctx k = s.dev.ctx k) ∧
      ((t.dev.ctx c.val).allotEn = true →
        ((t.dev.ctx c.val).allotBase.toNat + (t.dev.ctx c.val).allotSize.toNat) * 2 ^ 28 ≤ t.dev.mem.capacity ∧
        ∀ k, k < 64 → k ≠ c.val → (t.dev.ctx k).allotEn = true → 0 < (t.dev.ctx k).allotSize.toNat →
          (t.dev.ctx c.val).allotBase.toNat + (t.dev.ctx c.val).allotSize.toNat ≤ (t.dev.ctx k).allotBase.toNat ∨
          (t.dev.ctx k).allotBase.toNat + (t.dev.ctx k).allotSize.toNat ≤ (t.dev.ctx c.val).allotBase.toNat)) ∧
  (∀ (c : CtxId) (d : DieId) (v : U64) (s : State), s.dev.barOpen = true → s.dev.mem.pend = false →
    s.dev.stgStatus c.val d.val v.toNat = .done → ∃ t, exec (.memStgWrite c d v) s = .next t ∧ t.dev.mem.status = 0 ∧
      (Tab.get {} (t.dev.ctx c.val).stg d.val : StgRange) = ⟨v.extractLsb' 32 14, v.extractLsb' 1 13, v.getLsbD 0⟩ ∧
      (∀ k, k ≠ c.val → t.dev.ctx k = s.dev.ctx k) ∧ t.dev.mem.pool = s.dev.mem.pool ∧ t.rst = s.rst) ∧
  (∀ (c : CtxId) (d : DieId) (v : U64) (s : State), s.dev.barOpen = true → s.dev.mem.pend = false →
    (s.dev.allotStatus c.val v.toNat ≠ .done →
      exec (.memAllotWrite c v) s = .next (s.withDev (s.dev.memStatus (s.dev.allotStatus c.val v.toNat)))) ∧
    (s.dev.stgStatus c.val d.val v.toNat ≠ .done →
      exec (.memStgWrite c d v) s = .next (s.withDev (s.dev.memStatus (s.dev.stgStatus c.val d.val v.toNat)))))

/-- Where the decoder is committed and holds the byte, a read of a line whose codeword has met nothing answers its 64 bytes
with their poison mark, a write changes the bytes it names and no other, and an access the pool cannot answer is counted
and reads as poison (R228, R229, R342). Snoops and the HDM decoder: an unanswered back-invalidate is a device fault
(R342), an answered one releases its line (R229), a host snoop is a miss, and a commit with back-invalidate of a size
within the window opens it, base and size in whole units of 256 MiB, where any other leaves it closed (R342). -/
def Obligations.WindowAndSnoops : Prop :=
  ((∀ (a : Nat) (k : Bool) (s : State), a < windowSize → s.dev.windowHolds a = true → s.dev.memReady = true →
    a < s.dev.mem.capacity → Tab.find s.dev.mem.latent (a / 64) = none →
    ∃ t, exec (.hostWindowRead a k) s = .next t ∧
      t.dev.hif.winData = Mem.readN s.dev.mem.pool (64 * (a / 64)) 64 ∧
      t.dev.hif.winPoison = s.dev.mem.poison.contains (a / 64) ∧ t.dev.mem.pool = s.dev.mem.pool ∧
      t.dev.ctxs = s.dev.ctxs ∧ t.rst = s.rst ∧ (k = true → a / 64 ∈ t.dev.mem.snoop) ∧
      (k = false → t.dev.mem = s.dev.mem)) ∧
  (∀ (a : Nat) (bs : List Byte) (s : State), a < windowSize → bs ≠ [] → a % 64 + bs.length ≤ 64 →
    s.dev.windowHolds a = true → s.dev.memReady = true → a < s.dev.mem.capacity → s.dev.mem.pool.wf = true →
    ∃ t, exec (.hostWindowWrite a bs) s = .next t ∧ Mem.readN t.dev.mem.pool a bs.length = bs ∧
      (∀ x, (x < a ∨ a + bs.length ≤ x) → Mem.read t.dev.mem.pool x = Mem.read s.dev.mem.pool x) ∧
      { t with dev := { t.dev with mem := s.dev.mem } } = s) ∧
  (∀ (a : Nat) (k : Bool) (bs : List Byte) (s : State), a < windowSize → bs ≠ [] → a % 64 + bs.length ≤ 64 →
    s.dev.windowHolds a = true → (s.dev.mem.capacity ≤ a ∨ s.dev.memReady = false) →
    exec (.hostWindowWrite a bs) s = .next (s.withDev s.dev.rejectWindow) ∧
    exec (.hostWindowRead a k) s = .next (s.withDev ({ s.dev with hif := { s.dev.hif with
      winData := List.replicate 64 0, winPoison := true } } : Dev).rejectWindow))) ∧
  ((∀ (l : Nat) (s : State), l ∈ s.dev.mem.biWait →
    (∃ t, exec (.backInvalidateTimeout l) s = .next t ∧ l ∉ t.dev.mem.biWait ∧ t.dev.farr.cause = 0x3F ∧
      t.dev.farr.faults = satAdd s.dev.farr.faults 1 ∧ t.rst = s.rst) ∧
    (s.dev.sfu.state ≠ 1 → ∃ t, exec (.backInvalidateResponse l) s = .next t ∧ l ∉ t.dev.mem.biWait ∧
      l ∉ t.dev.mem.snoop ∧ t.dev.mem.pool = s.dev.mem.pool ∧ t.dev.ctxs = s.dev.ctxs ∧ t.dev.fab = s.dev.fab)) ∧
  (∀ (l : Nat) (s : State), s.dev.hif.up = true → s.dev.hif.cache = true →
    exec (.hostSnoop l) s = .next (s.withDev { s.dev with hif := { s.dev.hif with snoopMiss := s.dev.hif.snoopMiss + 1 } })) ∧
  (∀ (b z : Nat) (bi : Bool) (s : State), s.dev.barOpen = true → s.dev.hif.flit68 = false →
    (z ≤ windowSize → bi = true → exec (.hdmCommit b z bi) s = .next (s.withDev { s.dev with hif := { s.dev.hif with
      hdmCommitted := true, hdmBase := b / 2 ^ 28 * 2 ^ 28, hdmSize := z / 2 ^ 28 * 2 ^ 28, biEn := true, mem := true } })) ∧
    ((windowSize < z ∨ bi = false) → exec (.hdmCommit b z bi) s = .next (s.withDev { s.dev with hif := { s.dev.hif with
      hdmCommitted := false, mem := false } }))))

/-- Errors of HBM. A scrub of a line with no upset outstanding changes nothing, counts a corrected line, and poisons and
counts one it cannot correct (R218 to R220). A row that is to be repaired is repaired with an entry in the repair log while
its bank has a spare row; without one the bank is noted as spent (R221). A channel that R222 calls to be retired is
retired, which is a device fault: it leaves the pool, whose contents are lost, and allotments that no longer fit are
disabled; any other channel stays as it is (R222, R323). Once the stacks are released their initialisation fills the pool
with zeros over the channels that trained, makes the repairs of the log permanent, and sets READY; a channel that fails
training is a device fault (R213, R221, R222, R317). -/
def Obligations.ErrorsAndInitialisationOfHbm : Prop :=
  ((∀ (l : Nat) (s : State), s.dev.mem.scrubEn = true → s.dev.memReady = true → 64 * l < s.dev.mem.capacity →
    Tab.find s.dev.mem.latent l = none →
    exec (.patrolScrub l .clean) s = .next s ∧
    (∃ t, exec (.patrolScrub l .corrected) s = .next t ∧
      (t.dev.mem.chan (s.dev.mem.place (64 * l)).1).corr
        = satAdd (s.dev.mem.chan (s.dev.mem.place (64 * l)).1).corr 1 ∧
      t.dev.mem.poison = s.dev.mem.poison ∧ t.dev.mem.pool = s.dev.mem.pool ∧
      { t with dev := { t.dev with mem := s.dev.mem } } = s) ∧
    (∃ t, exec (.patrolScrub l .uncorrectable) s = .next t ∧ l ∈ t.dev.mem.poison ∧
      (t.dev.mem.chan (s.dev.mem.place (64 * l)).1).uncorr
        = satAdd (s.dev.mem.chan (s.dev.mem.place (64 * l)).1).uncorr 1 ∧
      (∀ p ∈ s.dev.mem.poison, p ∈ t.dev.mem.poison) ∧ t.dev.mem.pool = s.dev.mem.pool ∧
      { t with dev := { t.dev with mem := s.dev.mem } } = s)) ∧
  (∀ (k : Fin 256) (b r : Nat) (s : State), (s.dev.mem.chan k.val).retired = false → s.dev.memReady = true →
    s.dev.rowFails (s.dev.mem.chan k.val) b r = true →
    (∃ t, exec (.rowRepair k b r true) s = .next t ∧
      t.rst = { s.rst with repairLog := s.rst.repairLog ++ [(k.val, b, r)] } ∧
      (t.dev.mem.chan k.val).ppr = satAdd (s.dev.mem.chan k.val).ppr 1 ∧
      (t.dev.mem.chan k.val).repairAt = some s.dev.time.ns.toNat ∧ (b, r) ∈ (t.dev.mem.chan k.val).repaired ∧
      t.dev.rowFails (t.dev.mem.chan k.val) b r = false ∧ t.dev.mem.pool = s.dev.mem.pool ∧
      ∀ j, j ≠ k.val → t.dev.mem.chan j = s.dev.mem.chan j) ∧
    (∃ t, exec (.rowRepair k b r false) s = .next t ∧ t.rst = s.rst ∧ b ∈ (t.dev.mem.chan k.val).spent ∧
      t.dev.rowFails (t.dev.mem.chan k.val) b r = true ∧ t.dev.mem.pool = s.dev.mem.pool)) ∧
  (∀ (k : Fin 256) (s : State), (s.dev.mem.chan k.val).retired = false → s.dev.mem.nch ≠ 0 →
    ((s.dev.mem.chan k.val).mustRetire = true → ∃ t, exec (.channelRetirement k) s = .next t ∧
      (t.dev.mem.chan k.val).retired = true ∧ (∀ j, j ≠ k.val → t.dev.mem.chan j = s.dev.mem.chan j) ∧
      t.dev.mem.nch = s.dev.mem.nch - 1 ∧ t.dev.mem.pool = [] ∧ t.dev.mem.poison = [] ∧ t.dev.mem.ready = true ∧
      t.dev.mem.short = true ∧ t.dev.farr.hbmShort = true ∧
      t.dev.farr.faults = satAdd s.dev.farr.faults 1 ∧ t.dev.farr.cause = 0x04 ∧
      (∀ c, c < 64 → (t.dev.ctx c).launches = [] ∧ (t.dev.ctx c).faultHold = true ∧
        (t.dev.ctx c).allotEn = ((s.dev.ctx c).allotEn &&
          fitsPool t.dev.mem (s.dev.ctx c).allotBase.toNat (s.dev.ctx c).allotSize.toNat))) ∧
    ((s.dev.mem.chan k.val).mustRetire = false → exec (.channelRetirement k) s = .next s))) ∧
  (∀ (failed : List (Fin 256)) (s : State), s.dev.up.hbm = true → s.dev.mem.ready = false → failed.Nodup →
    ∃ t, exec (.hbmInitDone failed) s = .next t ∧ t.dev.mem.ready = true ∧ t.dev.mem.pool = [] ∧ t.dev.mem.poison = [] ∧
      t.dev.mem.nch.toNat = 256 - failed.length ∧ t.dev.mem.short = decide (failed ≠ []) ∧
      (∀ k : Fin 256, (t.dev.mem.chan k.val).retired = decide (k ∈ failed) ∧ (t.dev.mem.chan k.val).repaired
        = (s.rst.repairLog.filter (fun e => e.1 == k.val)).map (fun e => (e.2.1, e.2.2))) ∧
      (failed = [] → t.dev.ctxs = s.dev.ctxs ∧ t.dev.farr = s.dev.farr) ∧
      (failed ≠ [] → t.dev.farr.cause = 0x04 ∧ t.dev.farr.hbmShort = true) ∧ t.rst = s.rst)

/-- A device fault discards all work in flight: no launch, no remote operation and no word is left, every context is
held, and the Farrier is to repair the device (R318). -/
def Obligations.DeviceFaultDiscards : Prop :=
  ∀ (d : Dev) (cause : Nat), cause < 256 →
    let e := d.deviceFault cause
    e.fab.ops = [] ∧ e.farr.faults = satAdd d.farr.faults 1 ∧ e.farr.cause.toNat = cause ∧ e.farr.repair = true ∧
    (∀ c, c < 64 → (e.ctx c).launches = [] ∧ (e.ctx c).faultHold = true) ∧
    (∀ c t, c < 64 → t < (e.ctx c).ntile.toNat → (e.tile c t).words = [] ∧ (e.tile c t).prog = none ∧
      (e.tile c t).startq = [])

/-! ## Links -/

/-- A sound flit on a link that takes it in: on an ACTIVE link a DATA flit in order advances the sequence number, and a flit
of any TYPE out of order is discarded with one NAK request (R238); an IDLE flit in training brings the peer's identity
record (R243, R261); a NAK replays the buffer (R238); a TIME flit makes the gang a candidate (R259, R260). -/
def Obligations.SoundFlits : Prop :=
  ∀ (l : LinkId) (flit : List Byte) (n : Nat) (s : State),
    (s.dev.soundFlit l.val flit 0 → (s.dev.link l.val).st = .active → (parseFlit flit).seq = (s.dev.link l.val).rxSeq →
      ∃ t, exec (.dataFlit l flit (.decoded n)) s = .next t ∧ (t.dev.link l.val).rxSeq = (s.dev.link l.val).rxSeq + 1 ∧
        (t.dev.link l.val).nakPending = false ∧ (t.dev.link l.val).st = .active ∧ t.rst = s.rst ∧ t.dev.mem = s.dev.mem) ∧
    (s.dev.soundFlit l.val flit 0 → (s.dev.link l.val).st = .active → (parseFlit flit).seq ≠ (s.dev.link l.val).rxSeq →
      ∃ t, exec (.dataFlit l flit (.decoded n)) s = .next t ∧ (t.dev.link l.val).rxSeq = (s.dev.link l.val).rxSeq ∧
        (t.dev.link l.val).nakPending = true ∧ (t.dev.link l.val).sendNak
          = (s.dev.link l.val).sendNak + (if (s.dev.link l.val).nakPending then 0 else 1) ∧
        t.dev.fab.inbox = s.dev.fab.inbox) ∧
    (∀ i ∈ [(1, Instr.idleFlit l flit (.decoded n)), (2, .nakFlit l flit (.decoded n)), (3, .timeFlit l flit (.decoded n))],
      s.dev.soundFlit l.val flit i.1 → (s.dev.link l.val).st = .active → (parseFlit flit).seq ≠ (s.dev.link l.val).rxSeq →
      ∃ t, exec i.2 s = .next t ∧ (t.dev.link l.val).rxSeq = (s.dev.link l.val).rxSeq ∧
        (t.dev.link l.val).nakPending = true ∧ (t.dev.link l.val).sendNak
          = (s.dev.link l.val).sendNak + (if (s.dev.link l.val).nakPending then 0 else 1) ∧
        (t.dev.link l.val).buffer = (s.dev.link l.val).buffer ∧ t.dev.fab.gangs = s.dev.fab.gangs) ∧
    (∀ p, s.dev.soundFlit l.val flit 1 → (s.dev.link l.val).st ≠ .active → (parseFlit flit).plen = 4 →
      parseIdent (flitPayload flit (parseFlit flit)) = some p →
      ∃ t, exec (.idleFlit l flit (.decoded n)) s = .next t ∧ (t.dev.link l.val).peer = some p ∧
        (t.dev.link l.val).crcErr = (s.dev.link l.val).crcErr ∧ t.rst = s.rst ∧ t.dev.mem = s.dev.mem) ∧
    (s.dev.soundFlit l.val flit 2 → (s.dev.link l.val).st = .active → (parseFlit flit).seq = (s.dev.link l.val).rxSeq →
      ((s.dev.link l.val).acked (parseFlit flit).ack).buffer ≠ [] →
      ∃ t, exec (.nakFlit l flit (.decoded n)) s = .next t ∧
        (t.dev.link l.val).replay = satAdd (s.dev.link l.val).replay 1 ∧ t.rst = s.rst ∧ t.dev.mem = s.dev.mem) ∧
    (s.dev.soundFlit l.val flit 3 → (s.dev.link l.val).st = .active → (parseFlit flit).seq = (s.dev.link l.val).rxSeq →
      (parseFlit flit).plen = 7 →
      timePayloadOk (flitPayload flit (parseFlit flit)) = true →
      ∃ t, exec (.timeFlit l flit (.decoded n)) s = .next t ∧ (t.dev.gang (l.val / 4)).cand.valid = true ∧
        (t.dev.gang (l.val / 4)).cand.hops
          = min 255 (((flitPayload flit (parseFlit flit)).getD 49 0).toNat + 1) ∧
        (t.dev.gang (l.val / 4)).lastRx = some (stampAt (flitPayload flit (parseFlit flit)) 0, s.dev.now) ∧
        t.rst = s.rst ∧ t.dev.mem = s.dev.mem)

/-- A flit that fails its CRC or its fields is counted and acted on in no other way: no sequence number moves, no packet
is taken up, no acknowledgement or credit is applied (R236, R237). -/
def Obligations.CorruptFlitsAreCounted : Prop :=
  ∀ (l : LinkId) (flit : List Byte) (n : Nat) (s : State), flit.length = 256 → (s.dev.link l.val).receives = true →
    s.dev.linkPowered l.val = true → flitOk flit = false →
    ∀ i ∈ [Instr.dataFlit l flit (.decoded n), .idleFlit l flit (.decoded n), .nakFlit l flit (.decoded n),
        .timeFlit l flit (.decoded n)],
      ∃ t, exec i s = .next t ∧ (t.dev.link l.val).crcErr = satAdd (s.dev.link l.val).crcErr 1 ∧
        (t.dev.link l.val).rxSeq = (s.dev.link l.val).rxSeq ∧ (t.dev.link l.val).buffer = (s.dev.link l.val).buffer ∧
        (t.dev.link l.val).credits = (s.dev.link l.val).credits ∧ t.dev.fab.inbox = s.dev.fab.inbox ∧
        t.dev.fab.outbox = s.dev.fab.outbox ∧ t.dev.ctxs = s.dev.ctxs ∧
        (∀ k, k ≠ l.val → t.dev.link k = s.dev.link k)

/-- Training of a powered link goes from state to state in the order of R242, a state that outlasts its limit returns to
DETECT, and a DOWN link of an enabled gang that sees a signal starts to detect (R242). -/
def Obligations.LinkTraining : Prop :=
  ∀ (l : LinkId) (s : State), s.dev.linkPowered l.val = true →
    let k := s.dev.link l.val
    let toSt (st : LinkState) : State := s.withDev (s.dev.setLink l.val { k with st := st })
    (k.st = .detect → exec (.trainingStateExit l) s = .next (toSt .equalise)) ∧
    (k.st = .equalise → exec (.trainingStateExit l) s = .next (toSt .align)) ∧
    (k.st = .align → exec (.trainingStateExit l) s = .next (s.withDev (s.dev.setLink l.val { k with
      st := .waitId, width := widthOf k.lanes }))) ∧
    (k.st = .waitId → s.dev.mayIdentify (l.val / 4) = true →
      exec (.trainingStateExit l) s = .next (s.withDev (s.dev.setLink l.val { k with st := .identify, credits := [] }))) ∧
    (∀ p, k.st = .identify → (s.dev.gang (l.val / 4)).role ≠ 3 → k.peer = some p → s.dev.identOk l.val p = false →
      ∃ t, exec (.trainingStateExit l) s = .next t ∧ (t.dev.link l.val).st = .miswired) ∧
    (∀ p, k.st = .identify → (s.dev.gang (l.val / 4)).role ≠ 3 → k.peer = some p → s.dev.identOk l.val p = true →
      ∃ t, exec (.trainingStateExit l) s = .next t ∧ (t.dev.link l.val).st = .active) ∧
    (k.st = .retrain → ∃ t, exec (.trainingStateExit l) s = .next t ∧ (t.dev.link l.val).st = .active) ∧
    (k.st ∈ [LinkState.detect, .equalise, .align, .identify, .retrain] →
      exec (.trainingTimeout l) s = .next (s.withDev (s.dev.setLink l.val { k with st := .detect, width := 0, peer := none }))) ∧
    (k.st = .down → (s.dev.gang (l.val / 4)).en = true → 0 < k.lanes → exec (.detectRetry l true) s = .next (toSt .detect))

/-- A link that loses its signal goes DOWN, with the flits it has not had acknowledged kept for the handover record, and
drops them when none comes (R234, R241); a failed lane takes the gang's spare, or narrows the link and is a device fault
(R240); an unanswered NAK is sent again (R238). -/
def Obligations.LinksThatFail : Prop :=
  (∀ (l : LinkId) (s : State), (s.dev.link l.val).st = .active →
    ∃ t, exec (.lossOfSignal l) s = .next t ∧ (t.dev.link l.val).st = .down ∧ (t.dev.link l.val).width = 0 ∧
      (t.dev.link l.val).buffer = (s.dev.link l.val).buffer ∧
      (t.dev.link l.val).downHold = !(s.dev.link l.val).buffer.isEmpty ∧ t.rst = s.rst ∧ t.dev.mem = s.dev.mem ∧
      t.dev.tiles = s.dev.tiles) ∧
  (∀ (l : LinkId) (s : State), (s.dev.link l.val).downHold = true →
    exec (.handoverTimeout l) s = .next (s.withDev (s.dev.setLink l.val { s.dev.link l.val with
      buffer := [], downHold := false }))) ∧
  (∀ (l : LinkId) (s : State), (s.dev.link l.val).lanes ≠ 0 → (s.dev.link l.val).st ≠ .active →
    (s.dev.gang (l.val / 4)).spareUsed = false →
    exec (.laneFail l) s = .next (s.withDev ((s.dev.setGang (l.val / 4) { s.dev.gang (l.val / 4) with
      spareUsed := true }).setLink l.val { s.dev.link l.val with spare := true }))) ∧
  (∀ (l : LinkId) (s : State), (s.dev.link l.val).lanes = 4 → (s.dev.gang (l.val / 4)).spareUsed = true →
    ∃ t, exec (.laneFail l) s = .next t ∧ (t.dev.link l.val).lanes = 3 ∧ (t.dev.link l.val).width ≤ 2 ∧
      t.dev.farr.linkShort = true ∧ t.dev.farr.faults = satAdd s.dev.farr.faults 1 ∧ t.dev.farr.cause = 0x05) ∧
  (∀ (l : LinkId) (s : State), (s.dev.link l.val).st = .active → (s.dev.link l.val).nakPending = true →
    exec (.nakResendTimeout l) s = .next (s.withDev (s.dev.setLink l.val (s.dev.link l.val).askAgain)) ∧
    (s.dev.link l.val).askAgain.sendNak = (s.dev.link l.val).sendNak + 1)

/-- A TIME flit is sent on an ACTIVE link of a gang that has one, and on a REMOUNT gang without one on its lowest link in
IDENTIFY (R259, R332); a silent gang is no candidate (R260). FAB_GANG_CFG and FAB_WIN take the fields of an accepted value,
and a window that its context's memory does not hold is refused with RANGE (R262). -/
def Obligations.GangsAndWindows : Prop :=
  (∀ (g : GangId) (s : State),
    let pay := s.dev.timePayload g.val
    let sent := fun l => s.withDev ((s.dev.setLink l ((s.dev.link l).emit (s.dev.link l).txSeq 3 0 pay)).setGang g.val
      { s.dev.gang g.val with timeSent := (s.dev.gang g.val).timeSent + 1, lastTx := pay })
    (s.dev.gangUp g.val = true →
      ∃ l ∈ gangLinks g.val, (s.dev.link l).st = .active ∧ exec (.timeFlitSend g) s = .next (sent l)) ∧
    (∀ l, s.dev.gangUp g.val = false → (s.dev.gang g.val).role = 3 →
      (gangLinks g.val).find? (fun l => (s.dev.link l).st == .identify) = some l →
      exec (.timeFlitSend g) s = .next (sent l))) ∧
  (∀ (g : GangId) (s : State), ∃ t, exec (.gangTimeSilence g) s = .next t ∧ (t.dev.gang g.val).cand.valid = false ∧
    (∀ k, k ≠ g.val → t.dev.gang k = s.dev.gang k) ∧ t.dev.fab.links = s.dev.fab.links ∧ t.rst = s.rst) ∧
  (∀ (g : GangId) (v : U64) (s : State), s.dev.barOpen = true → s.dev.fab.pend = false → s.dev.gangUp g.val = false →
    (v.extractLsb' 2 3).toNat ≤ 3 → v.getLsbD 0 = true →
    exec (.fabGangCfgWrite g v) s = .next (s.withDev ((s.dev.setGang g.val { s.dev.gang g.val with
      asym := v.extractLsb' 48 16, dim := v.extractLsb' 5 2, role := v.extractLsb' 2 3, en := true }).fabStatus .done))) ∧
  (∀ (g : GangId) (v : U64) (s : State), s.dev.barOpen = true → s.dev.fab.pend = false →
    (v.extractLsb' 2 3).toNat ≤ 3 → s.dev.gangUp g.val = true →
    exec (.fabGangCfgWrite g v) s = .next (s.withDev (s.dev.fabStatus .notIdle))) ∧
  (∀ (c : CtxId) (w : Fin 16) (v : U64) (s : State), s.dev.barOpen = true → s.dev.fab.pend = false →
    v.toNat < 2 ^ 39 → v.extractLsb' 8 4 = 0 → v.getLsbD 1 = false →
    let new := parseWin v.toNat (Tab.get {} (s.dev.ctx c.val).wins w.val : Win).word1
    new.space ≠ 3 →
    ((s.dev.ctx c.val).winFits new = true →
      exec (.fabWinWrite c w 0 v) s = .next (s.withDev ((s.dev.modCtx c.val (fun k => { k with
        wins := Tab.set k.wins w.val new })).fabStatus .done))) ∧
    ((s.dev.ctx c.val).winFits new = false →
      exec (.fabWinWrite c w 0 v) s = .next (s.withDev (s.dev.fabStatus .range)))) ∧
  (∀ (c : CtxId) (w : Fin 16) (v : U64) (s : State), s.dev.barOpen = true → s.dev.fab.pend = false → v.toNat < 2 ^ 22 →
    let new := parseWin (Tab.get {} (s.dev.ctx c.val).wins w.val : Win).word0 v.toNat
    new.space ≠ 3 →
    ((s.dev.ctx c.val).winFits new = true →
      exec (.fabWinWrite c w 1 v) s = .next (s.withDev ((s.dev.modCtx c.val (fun k => { k with
        wins := Tab.set k.wins w.val new })).fabStatus .done))) ∧
    ((s.dev.ctx c.val).winFits new = false →
      exec (.fabWinWrite c w 1 v) s = .next (s.withDev (s.dev.fabStatus .range))))

/-! ## Remote operations -/

/-- A request that its window admits, with nothing holding its bytes back, is performed and answered: PUT stores its data,
GET returns the bytes, ACC adds element by element with saturation, the atomics replace 8 bytes and return the old ones,
SIGNAL raises its hitch (R204, R251 to R253, R256). The bytes of a PUT and of an atomic are then there to be read; a
PUT request changes no byte of the pool outside the bytes it names, which lie in the window and in the context's usable
allotment. A request outside its window changes no memory, is counted, and is answered with RANGE (R17, R256). -/
def Obligations.RequestsArePerformedInTheirWindow : Prop :=
  (∀ (s : State) (p : Packet) (rest : List Packet) (sp : Space) (a : Nat),
    let d := s.dev.withInbox rest
    let at8 := fun (f : U64 → U64) => d.atomic p ⟨sp, a⟩ f
    (s.dev.requestReady 0x01 (fun p => p.data.length) false p rest sp a →
      exec .putRequest s = .next (s.withDev ((d.writeBytes p.ctx ⟨sp, a⟩ p.data).answerRequest p 0x81 {} []))) ∧
    (s.dev.requestReady 0x02 Packet.len true p rest sp a →
      exec .getRequest s = .next (s.withDev (d.answerRequest p 0x82 {} (d.readBytes p.ctx ⟨sp, a⟩ p.len)))) ∧
    (s.dev.requestReady 0x03 (fun p => p.data.length) true p rest sp a →
      exec .accRequest s = .next (s.withDev
        (((d.accPacket p ⟨sp, a⟩).dev.noteAccOvf p (d.accPacket p ⟨sp, a⟩).acc).answerRequest p 0x81
          (d.accPacket p ⟨sp, a⟩).acc []))) ∧
    (s.dev.requestReady 0x04 (fun _ => 8) true p rest sp a →
      exec .faddRequest s = .next (s.withDev
        ((at8 (fun v => v + p.h3)).dev.answerRequest p 0x84 {} (at8 (fun v => v + p.h3)).data))) ∧
    (s.dev.requestReady 0x05 (fun _ => 8) true p rest sp a →
      exec .swapRequest s = .next (s.withDev ((at8 (fun _ => p.h3)).dev.answerRequest p 0x84 {} (at8 (fun _ => p.h3)).data))) ∧
    (s.dev.requestReady 0x06 (fun _ => 8) true p rest sp a →
      ∃ f : U64 → U64, (∀ v, f v = if v.toNat = leNat p.data then p.h3 else v) ∧
        exec .casRequest s = .next (s.withDev ((at8 f).dev.answerRequest p 0x84 {} (at8 f).data))) ∧
    (takeOp 0x07 s.dev.fab.inbox = some (p, rest) →
      exec .signalRequest s = .next (s.withDev (d.answerRequest p 0x81 {} [])))) ∧
  ((∀ (x y : Nat), sext 32 (accAdd x y).1 = max (-(2 ^ 31)) (min (2 ^ 31 - 1) (sext 32 x + sext 32 y))) ∧
  (∀ (n : Nat) (old new : List Byte) (i : Nat), i < n →
    leAt (accBytes n old new).1 (4 * i) 4 = (accAdd (leAt old (4 * i) 4) (leAt new (4 * i) 4)).1) ∧
  (∀ (d : Dev) (p : Packet) (a : Addr) (f : U64 → U64), a.space = .hbm → d.mem.pool.wf = true →
    (d.atomic p a f).data = d.readBytes p.ctx a 8 ∧
    (d.atomic p a f).dev.readBytes p.ctx a 8 = leBytes 8 (f (BitVec.ofNat 64 (leNat (d.readBytes p.ctx a 8)))).toNat) ∧
  (∀ (d : Dev) (p : Packet) (e : HEntry), p.rse = true → d.mapEntry p.ctx p.rhitch = some e → e.barrier = false →
    (d.hitch e.key).st = .active → (d.hitch e.key).barrier = false → (d.hitch e.key).waiters = [] →
    (d.hitch e.key).count.toNat + (e.width1.toNat + 1) < 2 ^ 32 →
    (d.raiseRemote p).1 = .done ∧
    ((d.raiseRemote p).2.hitch e.key).count.toNat = (d.hitch e.key).count.toNat + (e.width1.toNat + 1)) ∧
  (∀ (d : Dev) (p : Packet), p.rse = false → d.raiseRemote p = (.done, d))) ∧
  ((∀ (s : State) (p : Packet) (rest : List Packet) (a : Nat),
    s.dev.requestReady 0x01 (fun p => p.data.length) false p rest .hbm a → s.dev.mem.pool.wf = true →
    ∃ t, exec .putRequest s = .next t ∧ t.dev.readBytes p.ctx ⟨.hbm, a⟩ p.data.length = p.data ∧
      a + p.data.length ≤ (s.dev.ctx p.ctx).usable ∧
      ∀ x, (x < (s.dev.ctx p.ctx).pool a ∨ (s.dev.ctx p.ctx).pool a + p.data.length ≤ x) →
        Mem.read t.dev.mem.pool x = Mem.read s.dev.mem.pool x) ∧
  (∀ (s : State) (p : Packet) (rest : List Packet),
    ∀ i ∈ [(0x01, 0x81, p.data.length, Instr.putRequest), (0x02, 0x82, p.len, .getRequest),
        (0x03, 0x81, p.data.length, .accRequest), (0x04, 0x84, 8, .faddRequest), (0x05, 0x84, 8, .swapRequest),
        (0x06, 0x84, 8, .casRequest)],
      takeOp i.1 s.dev.fab.inbox = some (p, rest) → s.dev.target p i.2.2.1 = none →
      exec i.2.2.2 s = .next (s.withDev (((s.dev.withInbox rest).modCtx p.ctx (fun x => { x with
        refused := satAdd x.refused 1 })).respond p i.2.1 .range {} []))) ∧
  (∀ (d : Dev) (p : Packet) (n a : Nat) (sp : Space), d.target p n = some (sp, a) →
    let w : Win := Tab.get {} (d.ctx p.ctx).wins p.win
    w.en = true ∧ p.off + n ≤ w.size.toNat * 4096 ∧ a = w.base.toNat * 4096 + p.off ∧ (p.op = 1 → w.pput = true) ∧
      (p.op = 2 → w.pget = true) ∧ (p.op = 3 → w.pacc = true) ∧ (4 ≤ p.op → w.patom = true)))

/-- A response that brings the data its packet asks for answers the outstanding packet that has its identifier, with its
status: a GET's data is stored, an atomic's old value kept; one that answers nothing is counted (R250, R251, R253, R257).
An operation with a packet unanswered ends with LINKLOST and is counted (R257). The operation that completes next has
every packet answered, and none before it in its queue that may complete is outstanding (R255). -/
def Obligations.ResponsesAnswerOperations : Prop :=
  (∀ (s : State) (p : Packet) (rest : List Packet) (o : ROp) (i : Nat), s.dev.fab.answers p = some (o, i) →
    p.data.length = o.answerLen i → s.dev.mem.cached (s.dev.remLines o.c o.loc) = [] →
    let d := s.dev.withInbox rest
    let st := statusOf p.status
    let ovf := p.h1.getLsbD 39
    (takeOp 0x81 s.dev.fab.inbox = some (p, rest) →
      exec .ack s = .next (s.withDev ((d.modOp o.id (fun o => o.answer i st ovf false none)).settle))) ∧
    (takeOp 0x82 s.dev.fab.inbox = some (p, rest) → p.data ≠ [] →
      exec .getData s = .next (s.withDev (((d.storeGet o i p.data).modOp o.id (fun o => o.answer i st ovf true none)).settle))) ∧
    (takeOp 0x84 s.dev.fab.inbox = some (p, rest) →
      exec .atomRes s = .next (s.withDev (((d.storeGet o i p.data).modOp o.id (fun o =>
        o.answer i st ovf true (some (BitVec.ofNat 64 (leNat p.data))))).settle)))) ∧
  (∀ (s : State) (p : Packet) (rest : List Packet), s.dev.fab.answers p = none →
    ∀ i ∈ [(0x81, Instr.ack), (0x82, .getData), (0x84, .atomRes)], takeOp i.1 s.dev.fab.inbox = some (p, rest) →
      exec i.2 s = .next (s.withDev ((s.dev.withInbox rest).lateResponse p.ctx))) ∧
  (∀ (s : State) (k : Nat) (o : ROp), s.dev.fab.ops.find? (fun o => o.id = k) = some o →
    o.pkts.any (fun q => q.sent && !q.acked) = true →
    exec (.opTimeout k) s = .next (s.withDev (((s.dev.modOp k (fun o => o.cut .linkLost)).lateResponse o.c).settle))) ∧
  (∀ (o : ROp) (st : Status), (o.cut st).allAcked = true ∧ (o.cut st).status = st) ∧
  (∀ (held : ROp → Bool) (ops : List ROp) (o : ROp), nextDone held [] ops = some o →
    o.allAcked = true ∧ held o = false ∧ ∃ before after, ops = before ++ o :: after ∧
      ∀ e ∈ before, held e = false → e.owner.queue ≠ o.owner.queue)

/-! ## The gradient exchange -/

/-- ENABLE of an entry whose bytes and descriptors nothing holds back copies it and opens its step where the entry passes
its checks, and is refused with the status of the first check that fails otherwise (R266, R271); DISABLE and RESCALE_RESET
act on a bucket that rests and are refused with NOTIDLE otherwise (R295). -/
def Obligations.BucketOperations : Prop :=
  (∀ (c : CtxId) (b : Fin 1024) (keep : Bool) (s : State), s.dev.barOpen = true → s.dev.grxPend = false →
    let x := s.dev.ctx c.val
    let e := s.dev.selectBucket c.val b.val keep
    let tab := [(x.pool (x.btabBase.toNat * 4096 + 64 * b.val), 64)] ++ (e.bucketWords c.val b.val).elim []
      (fun w => x.descRange (fld (listGet w 1) 63 52) ++ x.descRange (fld (listGet w 1) 51 40))
    s.dev.rangesFree tab tab →
    (∀ d, e.enableCheck c.val b.val = (.done, some d) →
      exec (.enable c b keep) s = .next (s.withDev ((e.enableBucket c.val b.val d keep).grxStatusSet .done))) ∧
    (∀ st, (e.enableCheck c.val b.val).1 = st → st ≠ .done →
      exec (.enable c b keep) s = .next (s.withDev (e.grxStatusSet st)))) ∧
  (∀ (c : CtxId) (b : Fin 1024) (s : State), s.dev.barOpen = true → s.dev.grxPend = false →
    let e := s.dev.selectBucket c.val b.val s.dev.sel.grxEfKeep
    (s.dev.restful c.val (s.dev.bucket c.val b.val) = true →
      exec (.disable c b) s = .next (s.withDev ((((e.setBucket c.val b.val {}).engineOff c.val (fun i => i == b.val)).ewCheck
        c.val).grxStatusSet .done)) ∧
      exec (.rescaleReset c b) s = .next (s.withDev ((e.setBucket c.val b.val { s.dev.bucket c.val b.val with
        scales := [], scalesQ := [] }).grxStatusSet .done))) ∧
    (s.dev.restful c.val (s.dev.bucket c.val b.val) = false →
      exec (.disable c b) s = .next (s.withDev (e.grxStatusSet .notIdle)) ∧
      exec (.rescaleReset c b) s = .next (s.withDev (e.grxStatusSet .notIdle))))

/-- A contributor's part, for a bucket whose engine may work and whose wait has its credits: the start of a step takes its
STARTH credits and prepares the contribution to every chunk (R267). An owner record that has not been handled takes its
credit, is marked, and is acted on by its type: NOTICE (R288), RESEND (R283), PREPASS and SCALE (R285), PHAT (R274); where
a record of the type has a foreign TAG, the bucket fails with INVALID_WORD instead (R292); with no record of the type,
nothing happens. -/
def Obligations.ContributorCommands : Prop :=
  ∀ (c : CtxId) (b : Fin 1024) (s : State) (d : BktDesc), s.dev.bucketReady c.val b.val d →
    let k := s.dev.bucket c.val b.val
    (∀ e, s.dev.mayStart c.val k = true → s.dev.linesFree (s.dev.descLines c.val d.g) (s.dev.descLines c.val d.g) →
      s.dev.creditsAt c.val b.val d.starth.toNat e →
      exec (.bucketStart c b) s = .next (s.withDev ((s.dev.paid e).beginStep c.val b.val d).pump)) ∧
    (∀ i ∈ [(rNotice, Instr.notice c b, Dev.takeNotice c.val b.val), (rResend, .resend c b, Dev.takeResend c.val b.val),
        (rPrepass, .prepass c b, Dev.takePrepass c.val b.val), (rScale, .scale c b, Dev.takeScale c.val b.val),
        (rPhat, .phat c b, Dev.takePhat c.val b.val)],
      (∀ e r, s.dev.creditsAt c.val b.val (d.xhitch.toNat + 1) e → s.dev.foreignRec c.val d k i.1 = false →
        s.dev.findRec c.val d k i.1 = some r →
        exec i.2.1 s = .next (s.withDev (i.2.2 ((s.dev.paid e).modCChunk c.val b.val r.ch (fun x => { x with
          seen := r.key (k.cchunk r.ch) :: x.seen })) d (k.cchunk r.ch) r).pump)) ∧
      (∀ e, s.dev.creditsAt c.val b.val (d.xhitch.toNat + 1) e → s.dev.foreignRec c.val d k i.1 = true →
        exec i.2.1 s = .next (s.withDev ((s.dev.paid e).failBucket c.val b.val .invalidWord).pump)) ∧
      (s.dev.foreignRec c.val d k i.1 = false → s.dev.findRec c.val d k i.1 = none →
        exec i.2.1 s = .next (s.withDev s.dev.pump)))

/-- An owner's part and the ring, for a bucket whose engine may work and whose wait has its credit: an arrival takes it and
the owner's share is served (R279, R280), whose deadline closes it; an admission that was refused is asked again before
its deadline and closes the share with STEPMISMATCH after it (R278); a ring slot is taken and handled at its hop (R281,
R282), the slots that wait at the hop are looked at again when a deadline passes, and queued slots go on when credits
come back (R281). -/
def Obligations.OwnerAndRingCommands : Prop :=
  ∀ (c : CtxId) (b : Fin 1024) (s : State) (d : BktDesc), s.dev.bucketReady c.val b.val d →
    let k := s.dev.bucket c.val b.val
    (∀ e, d.ring = false → s.dev.creditsAt c.val b.val d.xhitch.toNat e →
      exec (.ownerArrival c b) s = .next (s.withDev ((s.dev.paid e).serveShare c.val b.val d).pump)) ∧
    (∀ t, k.t0 = some t → k.shareClosed = none → s.dev.overdue c.val d t = true →
      exec (.shareDeadline c b) s = .next (s.withDev ((s.dev.shutShare c.val b.val d).serveShare c.val b.val d).pump)) ∧
    (∀ x e, k.share? x = some e → e.isOver = false → e.asking = false → e.ticket = none →
      (s.dev.overdue c.val d e.firstAt = false →
        exec (.admissionRetry c b x) s = .next (s.withDev (s.dev.askAdmission c.val b.val d x).pump)) ∧
      (s.dev.overdue c.val d e.firstAt = true →
        exec (.admissionRetry c b x) s = .next (s.withDev (s.dev.closeShare c.val b.val d x .stepMismatch).pump))) ∧
    (∀ e z, d.ring = true → s.dev.creditsAt c.val b.val (d.xhitch.toNat + 2) e →
      ((s.dev.paid e).takeSlot c.val b.val d).1 = some z →
      exec (.ringSlotArrival c b) s
        = .next (s.withDev (Dev.handleSlot c.val b.val d ((s.dev.paid e).takeSlot c.val b.val d).2 z).pump)) ∧
    exec (.ringDeadline c b) s = .next (s.withDev (s.dev.rerun c.val b.val d).pump) ∧
    exec (.slotCredit c b) s = .next (s.withDev (s.dev.drainAll c.val b.val d).pump)

/-- Quantised contributions never overflow a 32-bit sum: each integer is at most 2^(31-ℓ) - 1 in magnitude, so that as
many contributors as ℓ allows, at one scale, add up within 32 bits in every element (R270). What an owner closes a chunk
with stays in range: every scale entry lies in -160 to 127, a resend raises the scale by at least the bits of overflow
or gives up, and a repeated resend by at least 8 (R284 to R286). -/
def Obligations.ExchangeNumbersStayInRange : Prop :=
  (∀ (l : Nat) (f : Int) (zs : List (List (F32 × Rnd))), l ≤ 30 → zs.length ≤ 2 ^ l →
    (∀ z ∈ zs, (quantise l f z).q.length = z.length ∧ ∀ v ∈ (quantise l f z).q, v.natAbs ≤ 2 ^ (31 - l) - 1) ∧
    ∀ i, ((zs.map (fun z => (quantise l f z).q.getD i 0)).sum).natAbs < 2 ^ 31) ∧
  ((∀ (l head maxb : Nat) (f : Int), -160 ≤ fnext l head f maxb ∧ fnext l head f maxb ≤ 127) ∧
  (∀ (l head : Nat) (e : Option Int), -160 ≤ prepassScale l head e ∧ prepassScale l head e ≤ 127) ∧
  (∀ (a o : Nat) (f g : Int), resendScale a f o = some g →
    f + o ≤ g ∧ g ≤ 127 ∧ a ≤ 1 ∧ (a = 1 → f + 8 ≤ g)) ∧
  (∀ (a o : Nat) (f : Int), resendScale a f o = none → 2 ≤ a ∨ 127 < f + o ∨ 127 < f + 8))

/-! ## The parameter update -/

/-- UPD_LIST, the configuration registers, FREEZE and THAW take an accepted write with DONE, and are refused with
NOTIDLE while the list is enabled or a bucket is busy (R299, R309, R316). -/
def Obligations.UpdateRegisters : Prop :=
  (∀ (c : CtxId) (v : U64) (s : State), s.dev.barOpen = true → s.dev.updPend = false → v.getLsbD 0 = true →
    let t := s.dev.modUpd c.val (fun u => u.setWord 0 v)
    let rs := (t.listRanges c.val).filter (fun r => decide (r.1 + r.2 ≤ s.dev.mem.capacity))
    s.dev.rangesFree rs rs → t.listStatus c.val (s.dev.ctx c.val).upd.live = .done →
    exec (.updListWrite c 0 v) s = .next (s.withDev ((s.dev.modUpd c.val (fun u => (u.setWord 0 v).enabled)).updStatusSet
      .done))) ∧
  (∀ (c : CtxId) (v : U64) (s : State), s.dev.barOpen = true → s.dev.updPend = false →
    ((s.dev.ctx c.val).upd.live = false → exec (.updListWrite c 1 v) s = .next (s.withDev
      ((s.dev.modUpd c.val (fun u => { u with listW1 := v })).updStatusSet .done))) ∧
    ((s.dev.ctx c.val).upd.live = true → v.getLsbD 0 = false →
      exec (.updListWrite c 0 v) s = .next (s.withDev (s.dev.updStatusSet .notIdle))) ∧
    ((s.dev.ctx c.val).upd.live = false → v.getLsbD 0 = false →
      exec (.updListWrite c 0 v) s = .next (s.withDev ((s.dev.modUpd c.val (fun u => { u.setWord 0 v with
        st := .disabled })).updStatusSet .done)))) ∧
  (∀ (r : UpdCfg) (c : CtxId) (w : Fin 2) (v : U64) (s : State), s.dev.barOpen = true → s.dev.updPend = false →
    (cfgStatus r w.val v (s.dev.ctx c.val).upd.live = .done → exec (.updCfgWrite r c w v) s = .next (s.withDev
      ((s.dev.modUpd c.val (fun u => u.setCfg r w.val v)).updStatusSet .done))) ∧
    (cfgStatus r w.val v (s.dev.ctx c.val).upd.live ≠ .done → exec (.updCfgWrite r c w v) s = .next (s.withDev
      (s.dev.updStatusSet (cfgStatus r w.val v (s.dev.ctx c.val).upd.live))))) ∧
  (∀ (c : CtxId) (j : Fin 65536) (s : State), s.dev.barOpen = true → s.dev.updPend = false →
    j.val < (s.dev.ctx c.val).upd.entries → (s.dev.ctx c.val).upd.st = .waiting →
    (∀ k ∈ (s.dev.ctx c.val).bkts, k.2.live = true → s.dev.restful c.val k.2 = true) →
    let e := s.dev.uent c.val j.val
    let d := s.dev.selectEntry c.val j.val
    let r := (s.dev.ctx c.val).range ⟨.hbm, e.at0⟩ 64
    s.dev.rangesFree r r →
    exec (.freeze c j) s = .next (s.withDev
      ((d.writeBytes c.val ⟨.hbm, e.at0⟩ { e with frozen := true }.words).updStatusSet .done)) ∧
    exec (.thaw c j) s = .next (s.withDev
      ((d.writeBytes c.val ⟨.hbm, e.at0⟩ { e with frozen := false }.words).updStatusSet .done)))

/-- The steps of the update, for an enabled list whose engines may work and whose wait has its credits: the last start
credit begins pass 1 on both dies (R300), the κ record of the step begins pass 2 of an engine, the first of the two taking
its credit, and a pass 2 that stopped between entries goes on (R304, R313); the next distribution entry is put, one with a
flow-control wait taking its credits first (R311); and telemetry is written as far as it can be (R312). A queued root job
takes the lowest idle root tile and its end lets pass 2 go on, also while a save waits for it (R305, R306, R313). An entry
that is frozen, or whose step does not match, is passed over: its parameters, moments and statistics stay, a frozen one
counts a skipped step, and its counter does not advance (R308, R310). -/
def Obligations.UpdateSteps : Prop :=
  (∀ (c : CtxId) (s : State), s.dev.listReady c.val →
    let u := (s.dev.ctx c.val).upd
    (∀ z, s.dev.mayUpdate c.val u = true → u.starts = u.started + 1 → s.dev.creditsAt c.val 1024 u.starth z →
      let e := s.dev.paid z
      exec (.updateStepStart c) s = .next (s.withDev
        (((e.modUpd c.val (fun u => { u with started := 0, hyper := e.readHypers c.val, st := .waitKappa, puts := 0 })).pass1
          c.val 0).pass1 c.val 1).pump)) ∧
    (∀ (d : DieId) (z : HEntry) (bs : List Byte), (u.die d.val).phase = .waitKappa → u.st ≠ .pass2 →
      s.dev.kappaRead c.val u = some bs → s.dev.creditsAt c.val 1024 u.khitch z →
      exec (.kappaRecord c d) s = .next (s.withDev ((s.dev.paid z).startPass2 c.val d.val bs).pump)) ∧
    (∀ (d : DieId) (bs : List Byte), (u.die d.val).phase = .waitKappa → u.st = .pass2 →
      s.dev.kappaRead c.val u = some bs →
      exec (.kappaRecord c d) s = .next (s.withDev (s.dev.startPass2 c.val d.val bs).pump)) ∧
    (∀ (d : DieId) (j : Nat), (u.die d.val).phase = .stopped j →
      exec (.kappaRecord c d) s = .next (s.withDev (s.dev.pass2From c.val d.val j).pump)) ∧
    (∀ (d : DieId) (j k : Nat) (st : U32) (r : List (Nat × Nat × U32)), (u.die d.val).dist = (j, k, st) :: r →
      ((s.dev.distEnt c.val k).fwe = false →
        exec (.distributionPut c d) s = .next (s.withDev (s.dev.putBlock c.val d.val j k st).pump)) ∧
      (∀ z, (s.dev.distEnt c.val k).fwe = true →
        s.dev.creditsAt c.val (1024 + d.val) (s.dev.distEnt c.val k).freeh z →
        exec (.distributionPut c d) s = .next (s.withDev ((s.dev.paid z).putBlock c.val d.val j k st).pump))) ∧
    (∀ d : DieId, exec (.telemetryRecordWrite c d) s = .next (s.withDev
      ((Dev.telAll c.val d.val 4098 s.dev).tryUdone c.val)))) ∧
  (∀ (c : CtxId) (s : State), (s.dev.ctx c.val).upd.live = true → (s.dev.ctx c.val).faultHold = false →
    ((s.dev.ctx c.val).resid = .resident ∨ (s.dev.ctx c.val).resid = .saving) →
    let u := (s.dev.ctx c.val).upd
    let scratch := s.dev.scratchRanges c.val
    let list := s.dev.listRanges c.val
    (∀ k before j after, s.dev.mayRoot c.val u = true → u.idleRoot = some k →
      u.jobs.span (fun j => j.tile.isSome) = (before, j :: after) → s.dev.rangesFree scratch [] →
      exec (.rootJob c) s = .next (s.withDev ((s.dev.spoilRoot c.val k).modUpd c.val (fun u => { u with
        jobs := before ++ { j with tile := some k } :: after })))) ∧
    (∀ (k : Fin 8) j, u.jobs.find? (fun j => j.tile == some k.val && j.ended.isNone) = some j →
      s.dev.rangesFree (list ++ scratch) list →
      exec (.rootJobEnd c k) s = .next (s.withDev
        ((s.dev.endJob c.val j).resumePass2 c.val (j.entry % 2)).pump))) ∧
  (∀ (s : Dev) (c d : Nat) (e : UEnt) (st : Status), st ≠ .done →
    let r := s.passOver c d e st
    r.1.counter = e.counter ∧ r.1.skip = (if st = .frozen then e.skip + 1 else e.skip) ∧ r.1.status = st.code ∧
    r.1.rjob = e.rjob ∧ r.1.rsel = e.rsel ∧ r.2.mem = s.mem ∧ r.2.tiles = s.tiles ∧ r.2.fab = s.fab ∧
    ∀ k, k ≠ c → r.2.ctx k = s.ctx k)

/-- At the coordinator, where the wait has its credits, the last share forms the norm of the step, and any earlier share
takes its credit alone (R303). A share carries its sum exactly: the digits of the 64-byte share of a sum below 2^128 add up
to it; held sums saturate at the limit of R302 and say so (R302, R303). -/
def Obligations.NormIsFormedExactly : Prop :=
  (∀ (c : CtxId) (s : State) (z : HEntry), let u := (s.dev.ctx c.val).upd
    u.live = true → (s.dev.ctx c.val).resid = .resident → (s.dev.ctx c.val).faultHold = false →
    s.dev.fab.coord = coordinator → u.st = .waitKappa → u.heldKappa = none →
    let own := (s.dev.ctx c.val).range (s.dev.ownWin c.val u.nwin (u.noff + 64 * (u.step.toNat % 2))) 64
    s.dev.rangesFree own own → s.dev.creditsAt c.val 1024 u.nhitch z →
    let n := leAt (s.dev.normRead c.val u (64 * (u.step.toNat % 2)) 64) 32 4
    (n = 2 * s.dev.fab.devices →
      exec (.normShareArrival c) s = .next (s.withDev ((s.dev.paid z).formNorm c.val u).pump)) ∧
    (n ≠ 2 * s.dev.fab.devices → exec (.normShareArrival c) s = .next (s.withDev (s.dev.paid z).pump))) ∧
  ((∀ (q : Nat) (sat : Bool), q < 2 ^ 128 → digitSum (shareBytes q sat) = q ∧ (shareBytes q sat).length = 64) ∧
  (∀ q a : Nat, (satSum q a).1 ≤ sumLimit ∧ ((satSum q a).2 = false → (satSum q a).1 = q + a)))

/-! ## The Farrier -/

/-- RESUME releases a repaired, backed context, which reads again from the first record after RETIRED (R318, R319);
while the repair lasts it is refused with BUSY; REPAIR tries the substitutions that wait (R320); the end of a repair
allows RESUME. WITHDRAW takes every link DOWN and leaves the team (Table 13.5). The Farrier's self-test of a tile whose
program has ended returns the fenced quadrants that pass to service, and changes no other memory, link, hitch or launch
(R107). -/
def Obligations.FarrierOperations : Prop :=
  ((∀ (c : CtxId) (s : State), s.dev.barOpen = true → s.dev.farr.pend = false → s.dev.farr.repair = false →
    s.dev.unbacked c.val = false → (s.dev.ctx c.val).faultHold = true →
    ∃ t, exec (.resume c) s = .next t ∧ (t.dev.ctx c.val).faultHold = false ∧ t.dev.farr.status = 0 ∧
      (t.dev.ring c.val 0).dev = BitVec.ofNat 32 (s.dev.ctx c.val).retired ∧ t.dev.tiles = s.dev.tiles ∧
      t.dev.mem = s.dev.mem ∧ t.rst = s.rst ∧ ∀ k, k ≠ c.val → t.dev.ctx k = s.dev.ctx k) ∧
  (∀ (c : CtxId) (s : State), s.dev.barOpen = true → s.dev.farr.pend = false → s.dev.farr.repair = true →
    s.dev.unbacked c.val = false → ∃ t, exec (.resume c) s = .next t ∧ t.dev.farr.status = Status.busy.byte ∧
      t.dev.ctxs = s.dev.ctxs ∧ t.dev.tiles = s.dev.tiles) ∧
  (∀ s : State, s.dev.barOpen = true → s.dev.farr.pend = false →
    let d := s.dev.farr.wanting.foldl Dev.retrySpare s.dev
    exec .repair s = .next (s.withDev ((({ d with farr := { d.farr with noPwr := !d.farr.wanting.isEmpty } } : Dev).giveUpSpares
      ).farrStatus .done))) ∧
  (∀ s : State, exec .farrierRepairEnd s = .next (s.withDev { s.dev with farr := { s.dev.farr with repair := false } }))) ∧
  (∀ s : State, s.dev.barOpen = true → s.dev.farr.pend = false →
    ∃ t, exec .withdraw s = .next t ∧ t.dev.farr.kind = 3 ∧ t.dev.farr.status = 0 ∧
      (∀ l, l < 32 → (t.dev.link l).st = .down) ∧ t.dev.mem = s.dev.mem ∧ t.dev.tiles = s.dev.tiles ∧ t.rst = s.rst) ∧
  (∀ (c : CtxId) (t : TileId) (pass : BitVec 4) (s : State), (s.dev.health c.val t.val).selfTest = true →
    (s.dev.tile c.val t.val).prog = none → (s.dev.phys c.val t.val).isSome = true →
    (∀ q ∈ [3, 4, 5, 6], (s.dev.health c.val t.val).quad q = .fenced → pass.getLsbD (q - 3) = true) →
    (∀ q ∈ [3, 4, 5, 6], (s.dev.health c.val t.val).quad q ≠ .retired) →
    ∃ u, exec (.partitionSelfTest c t pass) s = .next u ∧ (u.dev.health c.val t.val).selfTest = false ∧
      (∀ q ∈ [3, 4, 5, 6], (s.dev.health c.val t.val).quad q = .fenced → (u.dev.health c.val t.val).quad q = .inService) ∧
      (∀ q ∈ [3, 4, 5, 6], (s.dev.health c.val t.val).quad q = .inService → (u.dev.health c.val t.val).quad q = .inService) ∧
      { u with dev := { u.dev with tiles := s.dev.tiles } } = s)

/-- An early warning is latched once, with its source and the alert, and counted while latched; a pulse of EWARN_N
shorter than 8 ticks does nothing, and the pin must be deasserted before it latches again; EWRELEASE lifts every hold
and clears the latch unless the pin holds it (R325, R328). -/
def Obligations.EarlyWarnings : Prop :=
  (∀ s : State, s.dev.barOpen = true → s.dev.farr.pend = false →
    (s.dev.farr.ewLatch = false → ∃ t, exec .ewRaise s = .next t ∧ t.dev.farr.ewLatch = true ∧ t.dev.farr.ewSource = 1 ∧
      t.dev.side.alert.getLsbD 3 = true ∧ t.dev.farr.status = 0 ∧ t.dev.mem = s.dev.mem ∧ t.rst = s.rst) ∧
    (s.dev.farr.ewLatch = true → exec .ewRaise s = .next (s.withDev { s.dev with farr := { s.dev.farr with
      ewRepeat := satAdd s.dev.farr.ewRepeat 1, status := 0 } })) ∧
    (∃ t, exec .ewRelease s = .next t ∧ t.dev.farr.ewLatch = (s.dev.farr.ewLatch && s.dev.farr.ewPin) ∧
      (∀ k, k < 64 → (t.dev.ctx k).ewHeld = false ∧ (t.dev.ctx k).ewReady = false) ∧ t.dev.tiles = s.dev.tiles ∧
      t.dev.mem = s.dev.mem)) ∧
  (∀ (n : Nat) (s : State), ((n < 8 ∨ s.dev.farr.ewArmed = false) → exec (.ewarnN n) s = .next s) ∧
    (8 ≤ n → s.dev.farr.ewArmed = true → s.dev.farr.ewLatch = false → ∃ t, exec (.ewarnN n) s = .next t ∧
      t.dev.farr.ewLatch = true ∧ t.dev.farr.ewPin = true ∧ t.dev.farr.ewArmed = false ∧ t.dev.farr.ewSource = 0 ∧
      t.dev.mem = s.dev.mem ∧ t.rst = s.rst)) ∧
  (∀ s : State, exec .ewarnNDeassertion s = .next (s.withDev { s.dev with farr := { s.dev.farr with
    ewPin := false, ewArmed := true } }))

/-- A management packet is taken up and acted on by its kind: handover record, EW notice, HOLD, HOLDACK, REMOUNT (R241,
R326, R327, R331); one with a reserved field set is dropped and counted (R261). -/
def Obligations.ManagementPackets : Prop :=
  ∀ (s : State) (p : Packet) (rest : List Packet),
    let d := s.dev.withInbox rest
    (s.dev.mgmtReady 0xC0 0x1F0FFF p rest → exec .handover s = .next (s.withDev (d.handover p))) ∧
    (s.dev.mgmtReady 0xC1 0x3 p rest → exec .ewNotice s = .next (s.withDev (d.latchWarning ewNoticeSource))) ∧
    (s.dev.mgmtReady 0xC2 0xFFFFFFFF p rest → exec .hold s = .next (s.withDev (d.takeHold p))) ∧
    (s.dev.mgmtReady 0xC3 0xFFFFFFFF p rest → exec .holdAck s = .next (s.withDev (d.takeHoldAck p))) ∧
    (s.dev.mgmtReady 0xC4 0xFFFFFF000000FFFF p rest → exec .remount s = .next (s.withDev
      (d.remounted (p.h1.extractLsb' 40 24) (p.h1.truncate 16)))) ∧
    (∀ i ∈ [(0xC0, 0x1F0FFF, Instr.handover), (0xC1, 0x3, .ewNotice), (0xC2, 0xFFFFFFFF, .hold), (0xC3, 0xFFFFFFFF, .holdAck),
        (0xC4, 0xFFFFFF000000FFFF, .remount)],
      takeOp i.1 s.dev.fab.inbox = some (p, rest) → mgmtOk p i.2.1 = false →
      exec i.2.2 s = .next (s.withDev { d with fab := { d.fab with drop := satAdd d.fab.drop 1 } }))

/-! ## The host interface -/

/-- Tile sets, host-access ranges and rings take an accepted write with DONE, a ring that is enabled starts at index 0,
and a refused write changes the status alone (R344, R345, R347). -/
def Obligations.HostConfiguration : Prop :=
  (∀ (c : CtxId) (v : U64) (s : State), s.dev.barOpen = true → s.dev.hif.pend = false →
    s.dev.ctxCfgStatus c.val (fld v.toNat 7 0) = .done →
    ∃ t, exec (.hifCtxCfgWrite c v) s = .next t ∧ (t.dev.ctx c.val).ntile = v.truncate 8 ∧ t.dev.hif.status = 0 ∧
      (∀ k, k ≠ c.val → t.dev.ctx k = s.dev.ctx k) ∧ t.dev.mem = s.dev.mem ∧ t.rst = s.rst) ∧
  (∀ (c : CtxId) (i : Fin 8) (w : Fin 2) (v : U64) (s : State), s.dev.barOpen = true → s.dev.hif.pend = false →
    let r := (Tab.get {} (s.dev.ctx c.val).hostAcc i.val : HostAcc).setWord w.val v.toNat
    hostAccStatus r w.val v.toNat (s.dev.idle c.val) = .done →
    exec (.hifHostaccWrite c i w v) s = .next (s.withDev ((s.dev.modCtx c.val (fun x => { x with
      hostAcc := Tab.set x.hostAcc i.val r })).hifStatus .done))) ∧
  (∀ (c : CtxId) (r : Fin 4) (w : Fin 2) (v : U64) (s : State), s.dev.barOpen = true → s.dev.hif.pend = false →
    s.dev.ringStatus c.val r.val w.val v.toNat = .done →
    let g := (s.dev.ring c.val r.val).setWord w.val v.toNat
    ∃ t, exec (.hifRingWrite c r w v) s = .next t ∧ t.dev.hif.status = 0 ∧
      (g.en = true → (s.dev.ring c.val r.val).en = false →
        t.dev.ring c.val r.val = { g with dev := 0, host := 0, door := 0, k := 0 }) ∧
      ((g.en = false ∨ (s.dev.ring c.val r.val).en = true) → t.dev.ring c.val r.val = g) ∧
      (∀ k, k ≠ r.val → t.dev.ring c.val k = s.dev.ring c.val k) ∧ t.rst = s.rst) ∧
  (∀ (c : CtxId) (r : Fin 4) (w : Fin 2) (v : U64) (s : State), s.dev.barOpen = true → s.dev.hif.pend = false →
    s.dev.ringStatus c.val r.val w.val v.toNat ≠ .done → exec (.hifRingWrite c r w v) s = .next (s.withDev
      (s.dev.hifStatus (s.dev.ringStatus c.val r.val w.val v.toNat))))

/-- Pre-emption keeps a context's tiles: a resident context begins to be saved, with PEND set, so that a further write of the
block is ignored until the save ends; once the work that has begun has ended, the save writes the save area alone, frees
the physical tiles and keeps what every tile held; a resumption begins where enough tiles are free; and its end, while the
save area holds what the save wrote, makes the context resident with the stores it was saved with (R14, R216, R346,
R363). -/
def Obligations.PreemptionKeepsTiles : Prop :=
  (∀ (c : CtxId) (s : State), s.dev.barOpen = true →
    (s.dev.hif.pend = true → exec (.preempt c) s = .next s ∧ exec (.ctxResume c) s = .next s) ∧
    (s.dev.hif.pend = false → (s.dev.ctx c.val).resid = .resident → exec (.preempt c) s = .next (s.withDev
      { s.dev.modCtx c.val (fun x => { x with resid := .saving }) with hif := { s.dev.hif with pend := true } })) ∧
    (s.dev.hif.pend = false → (s.dev.ctx c.val).resid ≠ .resident →
      exec (.preempt c) s = .next (s.withDev (s.dev.hifStatus .busy)))) ∧
  (∀ (c : CtxId) (s : State), (s.dev.ctx c.val).resid = .saving →
    let x := s.dev.ctx c.val
    let n := saveArea x.ntile.toNat
    (s.dev.settled c.val = false → exec (.contextSaveEnd c) s = .next s) ∧
    (s.dev.settled c.val = true → s.dev.mem.cached (linesOf (x.pool x.usable) n) = [] → s.dev.mem.pool.wf = true →
      ∃ t, exec (.contextSaveEnd c) s = .next t ∧ (t.dev.ctx c.val).resid = .preempted ∧ (t.dev.ctx c.val).backs = [] ∧
        t.dev.hif.pend = false ∧ t.dev.hif.status = 0 ∧
        (∀ k, k < x.ntile.toNat → (t.dev.tile c.val k).store = (s.dev.tile c.val k).store ∧
          (t.dev.tile c.val k).dstore = (s.dev.tile c.val k).dstore ∧ (t.dev.tile c.val k).regs = (s.dev.tile c.val k).regs ∧
          (t.dev.tile c.val k).banks = (s.dev.tile c.val k).banks ∧ (t.dev.tile c.val k).pages = (s.dev.tile c.val k).pages) ∧
        (∀ y, (y < x.pool x.usable ∨ x.pool x.usable + n ≤ y) →
          Mem.read t.dev.mem.pool y = Mem.read s.dev.mem.pool y) ∧ t.rst = s.rst)) ∧
  (∀ (c : CtxId) (s : State), s.dev.barOpen = true → s.dev.hif.pend = false → (s.dev.ctx c.val).resid = .preempted →
    (s.dev.ctx c.val).ntile.toNat ≤ s.dev.freeTiles.length →
    ∃ t, exec (.ctxResume c) s = .next t ∧ (t.dev.ctx c.val).resid = .restoring ∧ t.dev.hif.pend = true ∧
      (∀ k, k < (s.dev.ctx c.val).ntile.toNat → t.dev.tile c.val k = s.dev.tile c.val k) ∧ t.rst = s.rst) ∧
  (∀ (c : CtxId) (s : State), (s.dev.ctx c.val).resid = .restoring →
    let x := s.dev.ctx c.val
    let lines := linesOf (x.pool x.usable) x.area.length
    s.dev.mem.cached lines = [] → s.dev.mem.poisoned lines = false →
    (if x.allotEn then s.dev.readBytes c.val ⟨.hbm, x.usable⟩ x.area.length else []) = x.area →
    (∀ k, k < x.ntile.toNat → (Tab.find x.backs k).isSome = true) →
    (∀ j k, j < x.ntile.toNat → k < x.ntile.toNat → Tab.find x.backs j = Tab.find x.backs k → j = k) →
    ∃ t, exec (.contextRestoreEnd c) s = .next t ∧ (t.dev.ctx c.val).resid = .resident ∧ t.dev.hif.pend = false ∧
      (∀ k, k < x.ntile.toNat → (t.dev.tile c.val k).store = (s.dev.tile c.val k).store ∧
        (t.dev.tile c.val k).dstore = (s.dev.tile c.val k).dstore) ∧ t.rst = s.rst)

/-- The CXL link: without it the host's accesses wait and the count rises (R339); it comes up at its width and rate with
all protocols, or in the 68-byte fallback with CXL.io alone (R337, R338), and sends the messages it held (R339).
Configuration space and DOE: D3hot closes and opens BAR decoding alone (R340), the CDAT answers its entries (R342), and
IDE keys are managed in an established session where the option allows it (R336). -/
def Obligations.CxlLinkAndConfiguration : Prop :=
  ((∀ s : State, s.dev.hif.up = true → exec .cxlLinkDown s = .next (s.withDev { s.dev with hif := { s.dev.hif with
    up := false, width := 0, io := false, cache := false, mem := false, downCnt := satAdd s.dev.hif.downCnt 1 } })) ∧
  (∀ (w r : Nat) (f : Bool) (s : State), s.dev.up.cxl = true → s.dev.hif.up = false → w ∈ [1, 2, 4, 8] → 0 < r → r ≤ 6 →
    (f = true ∨ (w = 8 ∧ r = 6)) → ∃ t, exec (.cxlLinkUp w r f) s = .next t ∧ t.dev.hif.up = true ∧ t.dev.hif.width.toNat = w ∧ t.dev.hif.rate.toNat = r ∧
      t.dev.hif.io = true ∧ t.dev.hif.flit68 = !f ∧ (f = false → t.dev.hif.cache = false ∧ t.dev.hif.mem = false) ∧
      t.dev.hif.heldMsgs = [] ∧ (s.dev.hif.msgs ++ s.dev.hif.heldMsgs) <+: t.dev.hif.msgs ∧ t.rst = s.rst)) ∧
  (∀ s : State, s.dev.up.cxl = true → s.dev.hif.up = true →
    (∀ b, exec (.d3hotTransition b) s = .next (s.withDev { s.dev with hif := { s.dev.hif with d3hot := b } })) ∧
    (∀ (i : U16) (e : CdatEntry), cdatEntries[i.toNat]? = some e →
      exec (.cdatTableAccess i) s = .next (s.withDev (s.dev.doeReply (.cdat e)))) ∧
    (∀ i : U16, 5 ≤ i.toNat → exec (.cdatTableAccess i) s = .next (s.withDev (s.dev.doeReply .error))) ∧
    (s.rst.spdm = .established → s.rst.opts.ide = true →
      (∀ m, exec (.ideKeyManagement m) s = .next (s.withDev (s.dev.ideKey m))) ∧
      (∀ st k, (Tab.find (s.dev.ideKey (.keyProg st k)).hif.ideKeys st.toNat) = some k) ∧
      (∀ st, (Tab.find s.dev.hif.ideKeys st.toNat).isSome = true → (s.dev.ideKey (.keySetGo st)).hif.ide = true)) ∧
    ((s.rst.spdm ≠ .established ∨ s.rst.opts.ide = false) → ∀ m, exec (.ideKeyManagement m) s = .next s))

/-- The 68-byte fallback comes up at x8 and 64 GT/s alone, where a narrower or slower link without 256B flits stays down
(R337); it carries CXL.io alone, and neither the HDM decoder nor records reach the device through it (R338). -/
def Obligations.FallbackIsCxlIoAlone : Prop :=
  (∀ (s : State), s.dev.up.cxl = true → s.dev.hif.up = false →
    ∃ t, exec (.cxlLinkUp 8 6 false) s = .next t ∧ t.dev.hif.up = true ∧ t.dev.hif.io = true ∧ t.dev.hif.cache = false ∧
      t.dev.hif.mem = false ∧ t.dev.hif.flit68 = true ∧ (t.regValue .hifLink).testBit 7 = true) ∧
  (∀ (w r : Nat) (s : State), (w ≠ 8 ∨ r ≠ 6) → exec (.cxlLinkUp w r false) s = .next s) ∧
  (∀ s : State, s.dev.hif.flit68 = true → (∀ b z k, exec (.hdmCommit b z k) s = .next s) ∧
    ∀ (c : CtxId), ∀ i ∈ [Instr.load c, .loadChain c, .start c, .abort c, .fence c], exec i s = .next s)

/-! ## Time -/

/-- A PTP message that the port accepts acts on the time block by its kind, and the source is chosen again (R355, R356,
R260); one that it does not accept is dropped and counted (R355), as any other frame is. -/
def Obligations.BridleMessages : Prop :=
  ∀ (f : Frame) (s : State) (a : Announce) (p : PortId) (q : U16) (b : Bool) (x y : Stamp) (k m : Int),
    let t := s.dev.time
    ∀ i ∈ [(Instr.announceMessage f a, t.announce a), (.syncMessage f p q b x k, t.sync p q b x k f.logInterval),
        (.followUpMessage f p q x k, t.followUp p q x k), (.delayRespMessage f p q x k m, t.delayResp p q x k m),
        (.pdelayReqMessage f p q, t.answerPdelay p q), (.pdelayRespMessage f p q x y, t.pdelayResp q x y)],
      (t.accepts f = true → t.ptpEn = true → exec i.1 s = .next (s.withDev (s.dev.setTime i.2).reselect)) ∧
      (t.accepts f = true → t.ptpEn = false → exec i.1 s = .next s) ∧
      (t.accepts f = false → exec i.1 s = .next (s.withDev (s.dev.setTime { t with dropFrm := satAdd t.dropFrm 1 }))) ∧
      exec .bridleFrameDrop s = .next (s.withDev (s.dev.setTime { t with dropFrm := satAdd t.dropFrm 1 }))

/-- The end-to-end measurement: with a Sync and the response to the outstanding request of the selected master, the path
delay is half of the two legs, and the offset is the delay less the Sync leg (R357). The port sends its requests under
their sequence numbers with their transmit times kept, each in a frame of the configured tag, transport, domain and
addresses, and answers ARP for its own address (R355, R357); a master that
falls silent is forgotten (R356). -/
def Obligations.BridleMeasuresAndSends : Prop :=
  (∀ (t : TimeBlk) (b : Announce) (q : U16) (t3 rx : Stamp) (m corr lm : Int),
    t.best = some b → t.delayP2p = false → t.reqTx = some (q, t3) → t.ms = some m →
    let r := t.delayResp b.source q rx corr lm
    let d := (m + (stampVal rx - corr - stampVal t3)) / 2
    r.pathDelay = some d ∧ r.bridleOff = d - m ∧ r.port = .slave ∧ r.reqTx = none ∧ r.ns = t.ns ∧ r.frac = t.frac ∧
      r.servo = t.servo) ∧
  (∀ s : State, let t := s.dev.time
    (t.mayTalk = true → t.delayP2p = false → t.best.isSome = true → exec .delayReqSend s = .next (s.withDev (s.dev.setTime
      (({ t with reqSeq := t.reqSeq + 1, reqTx := some (t.reqSeq, t.txStamp) } : TimeBlk).emit [.delayReq t.reqSeq])))) ∧
    (t.mayTalk = true → t.delayP2p = true → exec .pdelayReqSend s = .next (s.withDev (s.dev.setTime
      (({ t with pReqSeq := t.pReqSeq + 1, pReqTx := some (t.pReqSeq, t.txStamp) } : TimeBlk).emit [.pdelayReq t.pReqSeq])))) ∧
    (∀ tag sender mac, t.tagOk tag = true → t.transport = 2 → t.mac ≠ 0 → exec (.arpRequest tag t.ipv4 sender mac) s
      = .next (s.withDev (s.dev.setTime (t.emit [.arpReply sender mac])))) ∧
    (∀ tag target sender mac, t.tagOk tag = true → t.transport = 2 → target ≠ t.ipv4 →
      exec (.arpRequest tag target sender mac) s = .next (s.withDev (s.dev.setTime t.dropFrame))) ∧
    (∀ b, t.ptpEn = true → t.best = some b → ∃ u, exec .announceReceiptTimeout s = .next u ∧ u.dev.time.best = none ∧
      u.dev.time.port = .listening ∧ (∀ e ∈ u.dev.time.foreign, e.1.source ≠ b.source) ∧ u.dev.mem = s.dev.mem ∧
      u.rst = s.rst))

/-- An update of the servo reports the offset of the chosen source, and FREQ stays within 100 ppm whatever the offset
and interval (R359). -/
def Obligations.ServoStaysInRange : Prop :=
  (∀ (n : Nat) (s : State) (b : Source), s.dev.bestSource = some b → n ≠ 0 →
    ∃ t, exec (.servoUpdate n) s = .next t ∧ t.dev.time.offset = offsetReg b.offset ∧ t.dev.mem = s.dev.mem ∧
      t.dev.tiles = s.dev.tiles ∧ t.dev.pwr = s.dev.pwr ∧ t.rst = s.rst) ∧
  (∀ (d : Dev) (o : Int) (n : Nat), (d.slew o n).time.freq.toInt.natAbs ≤ 25600000 ∧ (d.slew o n).time.ns = d.time.ns)

/-- TIME_SET sets the time and labels the second, and is refused with NOTIDLE while a bucket or list is enabled;
TIME_NOW reads the time and latches its fraction (R358, R418). A valid edge of 1PPS is timestamped and serves, an
invalid one is counted, and without edges the input is lost (R361). On an empty queue one tick of the timebase passes
(the model's choice, log entry 1) and nothing else changes; with FREQ 0 the value advances by exactly 2 ns and the
fraction keeps the value it had (R418). -/
def Obligations.TimeIsSetReadAndKept : Prop :=
  ((∀ (v : U64) (s : State), s.dev.barOpen = true →
    (s.dev.timeInUse = false → exec (.timeSet v) s = .next (s.withDev (s.dev.setTime { s.dev.time with
      ns := v, frac := 0, acc := 0, labelled := true, opStatus := 0 }))) ∧
    (s.dev.timeInUse = true → exec (.timeSet v) s = .next (s.withDev (s.dev.setTime { s.dev.time with
      opStatus := Status.notIdle.byte })))) ∧
  (∀ s : State, s.dev.barOpen = true → exec .timeNowRead s = .next (s.withDev { s.dev with
    time := { s.dev.time with fracLatch := s.dev.time.frac }, hif := { s.dev.hif with readData := s.dev.time.ns } }))) ∧
  (∀ s : State, s.dev.time.ppsMode ≠ 0 →
    (∀ n, s.dev.time.edgeValid n = true → ∃ t, exec (.ppsEdge n) s = .next t ∧ t.dev.time.pps = 1 ∧
      t.dev.time.ppsTs = s.dev.time.ns ∧ t.dev.time.ppsLast = some s.dev.time.ns ∧ t.dev.time.ns = s.dev.time.ns ∧
      t.dev.mem = s.dev.mem) ∧
    (∀ n, s.dev.time.edgeValid n = false → exec (.ppsEdge n) s = .next (s.withDev (s.dev.setTime { s.dev.time with
      ppsBad := satAdd s.dev.time.ppsBad 1 }))) ∧
    (∃ t, exec .ppsLoss s = .next t ∧ t.dev.time.pps = 2 ∧ t.dev.time.ppsLast = none ∧ t.dev.time.ppsServes = false)) ∧
  (∀ s : State, s.pending = [] → s.dev.time.freq = 0 → 0 ≤ s.dev.time.acc → s.dev.time.acc < 1000000000 →
    step s = .next (s.withDev (s.dev.setTime { s.dev.time with ns := s.dev.time.ns + 2 })))

/-- A write of SFU_LOAD_CTL takes its fields (R168), and with GO starts a load of what the registers then say, but while
a load runs GO is ignored (R153); a load whose checks pass ends DONE with no memory changed, one whose source is no
address ends INVALID_WORD (R152, R153). -/
def Obligations.FunctionLoads : Prop :=
  (∀ (v : U64) (s : State), s.dev.barOpen = true →
    let r : SfuReq := { s.dev.sfu.regs with
      c := v.extractLsb' 32 6, kind := v.getLsbD 28, index := v.extractLsb' 20 8, count := v.extractLsb' 0 11 }
    let l : SfuLoad := { s.dev.sfu with regs := r }
    (s.dev.sfu.state = 1 ∨ v.getLsbD 31 = false → exec (.sfuLoad v) s = .next (s.withDev { s.dev with sfu := l })) ∧
    (s.dev.sfu.state ≠ 1 → v.getLsbD 31 = true →
      exec (.sfuLoad v) s = .next (s.withDev ({ s.dev with sfu := { l with run := r, state := 1 } } : Dev).sfuRun))) ∧
  (∀ d : Dev, d.sfu.state = 1 → parseAddr d.sfu.run.src.toNat = none →
    d.sfuRun = { d with sfu := { d.sfu with state := 3, status := Status.invalidWord.byte } }) ∧
  (∀ (d : Dev) (a : Addr), d.sfu.state = 1 → parseAddr d.sfu.run.src.toNat = some a → a.space = .host → d.hif.hostUp = true →
    d.sfuStatus (some a) = .done →
    d.sfuRun.sfu = { d.sfu with state := 2, status := 0 } ∧ d.sfuRun.mem = d.mem ∧ d.sfuRun.fab = d.fab)

/-! ## Power -/

/-- The core rail moves in steps of at most 5 mV toward its set point: a write starts the ramp, the island proposes and
the regulator confirms each step, the last confirmation ends the ramp with DONE, and a final step that is not confirmed
ends it with INTERNAL (R369). -/
def Obligations.RailRamps : Prop :=
  (∀ (v : U64) (s : State), s.dev.barOpen = true → s.dev.pwr.pend = false →
    (targetStatus (v.toNat % 4096) = .done → BitVec.ofNat 12 (v.toNat % 4096) ≠ s.dev.pwr.actual →
      exec (.pwrRailWrite v) s = .next (s.withDev { s.dev with pwr := { s.dev.pwr with
        target := v.truncate 12, proposed := none, ramp := true } })) ∧
    (targetStatus (v.toNat % 4096) ≠ .done → exec (.pwrRailWrite v) s = .next (s.withDev
      (s.dev.pwrStatus (targetStatus (v.toNat % 4096)))))) ∧
  (∀ s : State, s.dev.pwr.ramp = true → exec .rampStep s = .next (s.withDev { s.dev with pwr := { s.dev.pwr with
    proposed := some (stepToward (s.dev.pwr.proposed.getD s.dev.pwr.actual) s.dev.pwr.target) } })) ∧
  (∀ (s : State) (x : BitVec 12), s.dev.pwr.proposed = some x →
    (x ≠ s.dev.pwr.target → exec .regulatorConfirm s = .next (s.withDev { s.dev with pwr := { s.dev.pwr with
      actual := x, proposed := none } })) ∧
    (x = s.dev.pwr.target → exec .regulatorConfirm s = .next (s.withDev { s.dev with pwr := { s.dev.pwr with
      actual := x, proposed := none, ramp := false, status := 0 } })) ∧
    (x = s.dev.pwr.target → s.dev.pwr.ramp = true → exec .rampTimeout s = .next (s.withDev { s.dev with
      pwr := { s.dev.pwr with ramp := false, proposed := none, status := Status.internal.byte } }))) ∧
  (∀ x t : BitVec 12, x.toNat < t.toNat → x.toNat < (stepToward x t).toNat ∧ (stepToward x t).toNat ≤ t.toNat ∧
    (stepToward x t).toNat ≤ x.toNat + 5) ∧
  (∀ x t : BitVec 12, t.toNat < x.toNat → (stepToward x t).toNat < x.toNat ∧ t.toNat ≤ (stepToward x t).toNat ∧
    x.toNat ≤ (stepToward x t).toNat + 5)

/-- STAND, REST and RUN: an accepted request to another state begins a transition, one to the state in force is done, a
refused one changes nothing; the end of a transition enters the state and counts it, and no context sees it while both
spare tiles of the pair, where it has any, pass their self-test (R322, R370 to R374). -/
def Obligations.PowerDomains : Prop :=
  (∀ (d : BitVec 7) (s : State), s.dev.barOpen = true → s.dev.pwr.pend = false →
    ∀ i ∈ [(Instr.stand d, DomState.stand), (.rest d, .rest), (.run d, .running)],
      (s.dev.domStatus d.toNat i.2 = .done → (s.dev.dom d.toNat).st ≠ i.2 →
        ∃ t, exec i.1 s = .next t ∧ t.dev.dom d.toNat = { s.dev.dom d.toNat with toSt := some i.2 } ∧ t.dev.pwr.pend = true ∧
          t.dev.mem = s.dev.mem ∧ t.dev.tiles = s.dev.tiles ∧ t.rst = s.rst) ∧
      (s.dev.domStatus d.toNat i.2 = .done → (s.dev.dom d.toNat).st = i.2 → exec i.1 s = .next (s.withDev { s.dev with
        pwr := { s.dev.pwr with domSel := d, status := 0 } })) ∧
      (s.dev.domStatus d.toNat i.2 ≠ .done →
        exec i.1 s = .next (s.withDev (s.dev.pwrStatus (s.dev.domStatus d.toNat i.2))))) ∧
  (∀ (d : Fin 80) (p : BitVec 2) (s : State) (new : DomState), (s.dev.dom d.val).toSt = some new →
    ∃ t, exec (.domainTransitionEnd d p) s = .next t ∧ (t.dev.dom d.val).st = new ∧ (t.dev.dom d.val).toSt = none ∧
      (t.dev.dom d.val).trans = satAdd (s.dev.dom d.val).trans 1 ∧ t.dev.pwr.pend = false ∧ t.dev.pwr.status = 0 ∧
      (p = 3 → t.dev.ctxs = s.dev.ctxs) ∧ t.rst = s.rst)

/-- Readings: pace counters keep their minimum (R376), the regulator's reading and its limit (R378), the hottest sensor
and the alarm (R379); a sensor at 115 °C twice in a row trips the device (R380). -/
def Obligations.PowerReadings : Prop :=
  (∀ (n f : U16) (b : U64) (s : State), ∃ t, exec (.paceUpdate n f b) s = .next t ∧ t.dev.pwr.pace0 = n ∧
    t.dev.pwr.pace1 = f ∧ t.dev.pwr.beats = s.dev.pwr.beats + b ∧
    t.dev.pwr.pmin.toNat = min s.dev.pwr.pmin.toNat (min n.toNat f.toNat) ∧
    { t with dev := { t.dev with pwr := s.dev.pwr } } = s) ∧
  (∀ (p i : U16) (v : BitVec 12) (s : State), exec (.regulatorPoll p i v) s = .next (s.withDev { s.dev with
    pwr := { s.dev.pwr with power := p, icore := i, vcore := v,
                            isOver := s.dev.pwr.isOver || decide (s.dev.pwr.plimit.toNat < p.toNat) } })) ∧
  (∀ (xs : List U16) (s : State) (n : Nat) (t : U16), s.dev.pwr.tripN = false →
    (∀ x ∈ (List.range 72).zip xs, tripPoint ≤ x.2.toInt → x.1 ∉ s.dev.pwr.hot) →
    hottest ((List.range 72).zip xs) = some (n, t) →
    ∃ u, exec (.sensorRead xs) s = .next u ∧ u.dev.pwr.tjMax = t ∧ u.dev.pwr.sensor.toNat = n ∧
      u.dev.pwr.alarm = (s.dev.pwr.alarm || decide (s.dev.pwr.thresh.toInt ≤ t.toInt)) ∧
      { u with dev := { u.dev with pwr := s.dev.pwr } } = s) ∧
  (∀ (xs : List U16) (s : State) (x : Nat × U16), s.dev.pwr.tripN = false → x ∈ (List.range 72).zip xs →
    tripPoint ≤ x.2.toInt → x.1 ∈ s.dev.pwr.hot →
    ∃ u, exec (.sensorRead xs) s = .next u ∧ u.dev.pwr.tripN = true ∧ u.rst.why = some (2, 0) ∧ u.rst.nextStep = 1 ∧
      u.dev.ctxs = [])

/-! ## Reset, boot and security -/

/-- Each step of the release order runs when it comes next and names the one after it (R390): the always-on domain,
options, groom cores, firmware or recovery, HBM, Dunind, CXL (passed over in a warm release), tiles. Step 4 runs
firmware that verifies and is not older than the counter, with a fresh attestation key (R396), and otherwise enters
recovery, from which the CXL interface alone is released (R398). -/
def Obligations.ReleaseOrder : Prop :=
  (∀ (s : State), (∀ i ∈ [(1, Instr.alwaysOnRelease, 2), (2, .optionLoading, 3), (3, .groomCoresRelease, 4), (5, .hbmRelease, 6),
      (6, .dunindRelease, if s.rst.warmRelease then 8 else 7), (7, .cxlRelease, 8), (8, .tilesRelease 0xFF, 9)],
    (s.rst.nextStep = i.1 → s.dev.pwr.tripN = false → s.dev.pwr.ramp = false → s.dev.up.recovery = false →
      ∃ t, exec i.2.1 s = .next t ∧ t.rst.boot = i.1 ∧ t.rst.nextStep = i.2.2 ∧ t.rst.why = none ∧
        t.rst.rollback = s.rst.rollback ∧ t.rst.fwRunning = s.rst.fwRunning ∧ t.dev.ctxs = s.dev.ctxs) ∧
    (s.rst.nextStep ≠ i.1 → exec i.2.1 s = .next s)) ∧
  (∀ p, s.rst.nextStep ≠ 8 → exec (.tilesRelease p) s = .next s)) ∧
  (∀ s : State, s.rst.nextStep = 4 →
    let img := fwImage (readMem s.rst.fwStore)
    (fwValid s.rst.vendorKey img s.rst.opts.opKey = true → s.rst.rollback.toNat ≤ (fwSvn img).toNat →
      ∃ t, exec .firmwareVerification s = .next t ∧ t.rst.fwRunning = true ∧ t.rst.fwOk = true ∧ t.rst.boot = 4 ∧
        t.rst.nextStep = 5 ∧ t.rst.runSvn = fwSvn img ∧ t.rst.attKey = Config.attestationKey s.rst.boots ∧
        t.dev.up.recovery = false ∧ t.dev.ctxs = s.dev.ctxs) ∧
    ((fwValid s.rst.vendorKey img s.rst.opts.opKey = false ∨ (fwSvn img).toNat < s.rst.rollback.toNat) →
      ∃ t, exec .firmwareVerification s = .next t ∧ t.rst.fwRunning = s.rst.fwRunning ∧ t.rst.nextStep = 7 ∧
        t.dev.up.recovery = true ∧ t.rst.boot = s.rst.boot ∧
        ∃ u, exec .cxlRelease t = .next u ∧ u.dev.up.cxl = true ∧ u.rst.nextStep = 9 ∧ u.rst.boot = s.rst.boot))

/-- Every device-level reset clears the contexts' work and restarts the release at the step of its source, or earlier,
with the source kept for RST_CAUSE; MRAM is untouched (R386 to R391, R393). A groom core that misses two checks in a row
resets the device, one that beats does not; a PORST_N pulse below its filter, and WARM or REBOOT before the release is
complete, do nothing (R387, R389, R391). -/
def Obligations.ResetsRestartTheRelease : Prop :=
  (∀ (s : State) (i : Instr) (why : Byte) (step : Nat),
    ((i = .powerOn .vaonLost ∧ why = 1 ∧ step = 1) ∨
      (i = .powerOn .pwrgdLow ∧ s.dev.pwr.tripN = false ∧ why = 1 ∧ step = 1) ∨
      ((∃ n, i = .powerOn (.porst n) ∧ 32 ≤ n) ∧ s.dev.pwr.tripN = false ∧ why = 1 ∧ step = 1) ∨
      ((∃ k, i = .groomWatchdog k) ∧ s.rst.fwRunning = true ∧ why = 3 ∧ step = 3) ∨
      (i = .cxlConventionalReset ∧ s.dev.hif.up = true ∧ why = 5 ∧ step = 5) ∨
      (i = .warm ∧ s.dev.secOpen = true ∧ s.rst.boot = 8 ∧ s.dev.up.recovery = false ∧ why = 6 ∧ step = 5) ∨
      (i = .reboot ∧ s.dev.secOpen = true ∧ (s.rst.boot = 8 ∨ s.dev.up.recovery = true) ∧ why = 4 ∧ step = 2)) →
    ∃ t, exec i s = .next t ∧ t.rst.nextStep = min step (s.rst.boot + 1) ∧ t.rst.boot + 1 = t.rst.nextStep ∧
      (t.rst.why.map Prod.fst) = some why ∧ (∀ c, (t.dev.ctx c).launches = [] ∧ (t.dev.ctx c).bkts = []) ∧
      t.dev.tiles = [] ∧ t.dev.mem = {} ∧ t.dev.fab = {} ∧ t.dev.hif.hostMem = s.dev.hif.hostMem ∧
      t.rst.optA = s.rst.optA ∧ t.rst.optB = s.rst.optB ∧ t.rst.fwStore = s.rst.fwStore ∧
      t.rst.rollback = s.rst.rollback ∧ t.rst.repairLog = s.rst.repairLog) ∧
  ((∀ (b : BitVec 4) (s : State), s.rst.fwRunning = true →
    ((∀ k, k < 4 → b.getLsbD k = true ∨ Tab.get 0 s.rst.misses k = 0) → exec (.heartbeatCheck b) s
      = .next (s.withRst { s.rst with misses := s.rst.checkBeats b })) ∧
    (∀ k : Fin 4, b.getLsbD k.val = false → 1 ≤ Tab.get 0 s.rst.misses k.val →
      ∃ t, exec (.heartbeatCheck b) s = .next t ∧ (t.rst.why.map Prod.fst) = some 3 ∧
        t.rst.nextStep = min 3 (s.rst.boot + 1))) ∧
  (∀ (n : Nat) (s : State), n < 32 → exec (.powerOn (.porst n)) s = .next s) ∧
  (∀ s : State, (s.rst.boot ≠ 8 → s.dev.up.recovery = false → exec .warm s = .next s ∧ exec .reboot s = .next s) ∧
    (s.dev.up.recovery = true → exec .warm s = .next s) ∧
    (s.rst.fwRunning = false → ∀ k, exec (.groomWatchdog k) s = .next s)))

/-- QUIESCE of a context discards its work and marks it; RESET of a target that is busy is refused with NOTIDLE, and of
one that is not clears what Table 16.5 names (R392). -/
def Obligations.BlockResets : Prop :=
  (∀ (c : CtxId) (s : State), s.dev.secOpen = true → s.rst.blkPend = false →
    ∃ t, exec (.quiesce (.context c)) s = .next t ∧ (t.dev.ctx c.val).quiesced = true ∧
      (t.dev.ctx c.val).launches = [] ∧ t.rst.blkStatus = 0 ∧ t.rst.blkTarget = 1 ∧ t.dev.farr.faults = s.dev.farr.faults) ∧
  (∀ (g : BlkTarget) (s : State), s.dev.secOpen = true → s.rst.blkPend = false → (∀ k, g ≠ .invalid k) →
    s.dev.qstate g = 1 ∨ s.dev.qstate g = 2 → ∃ t, exec (.reset g) s = .next t ∧ t.dev = s.dev ∧
      t.rst.blkStatus = Status.notIdle.byte) ∧
  (∀ (c : CtxId) (s : State), s.dev.secOpen = true → s.rst.blkPend = false →
    (s.dev.qstate (.context c) = 0 ∨ s.dev.qstate (.context c) = 3) →
    ∃ t, exec (.reset (.context c)) s = .next t ∧ (t.dev.ctx c.val).quiesced = false ∧ (t.dev.ctx c.val).bkts = [] ∧
      (t.dev.ctx c.val).exc = 0 ∧ (t.dev.ctx c.val).faultHold = false ∧ t.rst.blkStatus = 0) ∧
  (∀ s : State, s.dev.secOpen = true → s.rst.blkPend = false → (s.dev.qstate .sync = 0 ∨ s.dev.qstate .sync = 3) →
    ∃ t, exec (.reset .sync) s = .next t ∧ (∀ k, t.dev.hitch k = {}) ∧ (∀ c v, t.dev.mapEntry c v = none))

/-- OPTPUSH writes an image that applies and is newer into the copy not in use (R395). FWPUSH reads its source twice: an
image that verifies and reads the same again goes into the firmware store, in recovery too, one that reads otherwise is
not left valid, and a push that a reset interrupts is in progress until then with the store's first word erased (R397,
R398). ASSIGN reads the record of 128 bytes and gives it to a device that has none (R400, R401). A refused operation
changes the status and LEN alone. -/
def Obligations.SecurityOperations : Prop :=
  ∀ (len : BitVec 25) (s : State), s.dev.secOpen = true → s.rst.secPend = false →
    let e := s.withRst { s.rst with len := len }
    let img := e.secImage
    (s.dev.up.recovery = false → e.rst.optStatus img e.secFits = .done → s.rst.opts.copyB = false →
      exec (.optpush len) s = .next (s.withRst { s.rst with
        len := len, optB := writeCopy s.rst.optB img, secStatus := 0 })) ∧
    (s.dev.up.recovery = false → e.rst.optStatus img e.secFits = .done → s.rst.opts.copyB = true →
      exec (.optpush len) s = .next (s.withRst { s.rst with
        len := len, optA := writeCopy s.rst.optA img, secStatus := 0 })) ∧
    (∀ ks, fwValid s.rst.vendorKey img s.rst.opts.opKey = true → e.secFits = true →
      let u := e.withDev (s.dev.hostStores ks)
      let r := u.rst.storing (u.secImage.drop 64)
      (sha512 u.secImage = sha512 img → exec (.fwpush ⟨len, ks, none⟩) s = .next (u.withRst { r with
        fwStore := Mem.writeN r.fwStore 0 (u.secImage.take 64), secStatus := 0 })) ∧
      (sha512 u.secImage ≠ sha512 img → exec (.fwpush ⟨len, ks, none⟩) s = .next (u.withRst { r with
        secStatus := Status.invalidWord.byte }))) ∧
    (∀ n, fwValid s.rst.vendorKey img s.rst.opts.opKey = true → e.secFits = true →
      exec (.fwpush ⟨len, [], some n⟩) s = .next (e.withRst { e.rst.storing ((img.drop 64).take (64 * n)) with
        secPend := true })) ∧
    (fwValid s.rst.vendorKey img s.rst.opts.opKey = false → exec (.fwpush ⟨len, [], none⟩) s = .next (s.withRst { s.rst with
      len := len, secStatus := Status.invalidWord.byte })) ∧
    let asg := Mem.readN s.dev.hif.hostMem s.rst.src.toNat 128
    (s.dev.up.recovery = false → e.assignStatus asg = .done →
      ∃ t, exec (.assign len) s = .next t ∧ t.dev = s.dev.assign (parseAssignment asg) ∧ t.rst.secStatus = 0 ∧
        t.dev.fab.teamValid = true ∧ t.dev.fab.teamId = (parseAssignment asg).teamId ∧
        t.dev.farr.epoch = (parseAssignment asg).epoch) ∧
    (s.dev.up.recovery = false → e.assignStatus asg ≠ .done → exec (.assign len) s = .next (s.withRst { s.rst with
      len := len, secStatus := (e.assignStatus asg).byte }))

/-- SPDM requests run in order: version, capabilities, algorithms that hold all of the device's, measurements signed by
the ROM with the per-boot key, key exchange, finish, end (R402); out of order each is answered with an error. -/
def Obligations.SpdmRequestsRunInOrder : Prop :=
  ∀ s : State, s.rst.fwRunning = true → s.dev.up.cxl = true → s.dev.hif.up = true →
    let go (x : Spdm) (a : DoeAnswer) : State := (s.spdmTo x).reply a
    exec .getVersion s = .next (go .version .version) ∧
    (s.rst.spdm = .version → exec .getCapabilities s = .next (go .capabilities .capabilities)) ∧
    (s.rst.spdm = .capabilities → exec (.negotiateAlgorithms true true true true) s = .next (go .negotiated .algorithms)) ∧
    (∀ (i : Fin 6) n, s.rst.spdm.ready = true → exec (.getMeasurements (BitVec.ofNat 8 (i.val + 1)) n true) s = .next
      (s.reply (.measurements [(i.val + 1, s.measurement (i.val + 1))]
        (some (Config.romSign s.rst.attKey (leBytes 32 n.toNat ++ s.measurement (i.val + 1))))))) ∧
    (∀ x, s.rst.spdm = .negotiated → x.length = 96 → ∃ own t, exec (.keyExchange x) s = .next t ∧
      t.rst.spdm = .session ∧ t.dev.hif.doe = some (.keyExchange own (Config.romSign s.rst.attKey (x ++ own))) ∧
      own.length = 96) ∧
    (s.rst.spdm = .session → exec (.finish true) s = .next (go .established .finished) ∧
      exec (.finish false) s = .next (go .negotiated .error) ∧ exec .endSession s = .next (go .negotiated .ended)) ∧
    (s.rst.spdm = .established → exec .endSession s = .next (go .negotiated .ended)) ∧
    (s.rst.spdm = .none → ∀ i ∈ [Instr.getCapabilities, .negotiateAlgorithms true true true true, .finish true, .endSession],
      exec i s = .next (s.reply .error))

/-- A register read answers the register's value in the part it names, and a 32-bit read of the low half of a wide
register latches its high half for the read that follows (R406); an address with no register reads 0 and ignores writes
(R404). A doorbell word reads as last written (R348). A write of an entry of the MSI-X table masks the vector or sets
its address and data (R353), and the configuration space names vendor and device (R340). The sideband reads its registers and writes ALERT, whose bits written as 1 are cleared, and ALERTEN; nothing
else of the device changes (R362). -/
def Obligations.RegistersAndSideband : Prop :=
  ((∀ (a : BitVec 24) (s : State) (r : Reg), s.dev.secOpen = true → s.dev.up.recovery = false → a.toNat % 8 = 0 →
    regOf a.toNat = some r →
    (∃ t, exec (.registerRead ⟨.bar0, a⟩ .word64) s = .next t ∧ t.dev.hif.readData = BitVec.ofNat 64 (s.regValue r) ∧ t.rst = s.rst ∧
      t.dev.mem.pool = s.dev.mem.pool) ∧
    (r.latches = true → ∃ t u, exec (.registerRead ⟨.bar0, a⟩ .word32) s = .next t ∧
      t.dev.hif.readData = BitVec.ofNat 64 (s.regValue r % 2 ^ 32) ∧ exec (.registerRead ⟨.bar0, a + 4⟩ .word32) t = .next u ∧
      u.dev.hif.readData = BitVec.ofNat 64 (s.regValue r / 2 ^ 32 % 2 ^ 32)) ∧
    (∀ v, exec (.registerWrite ⟨.bar0, a⟩ .word64 v) s = .next (s.regWrite r ⟨v.toNat, true, true⟩))) ∧
  (∀ (a : BitVec 24) (z : Access) (v : U64) (s : State), s.dev.secOpen = true → s.dev.up.recovery = false →
    regOf (a.toNat / 8 * 8) = none → exec (.registerWrite ⟨.bar0, a⟩ z v) s = .next s ∧
      exec (.registerRead ⟨.bar0, a⟩ z) s = .next (s.withDev (s.dev.answer 0)))) ∧
  (∀ (s : State) (v : U64), s.dev.barOpen = true →
    (∀ (c : CtxId) (r : Fin 4), ∃ t, exec (.registerRead ⟨.doorbells, BitVec.ofNat 24 (4096 * c.val + 8 * r.val)⟩ .word32) s
      = .next t ∧ t.dev.hif.readData = ((s.dev.ring c.val r.val).door).zeroExtend 64 ∧ t.rst = s.rst) ∧
    (∀ n : Fin 2048, exec (.registerWrite ⟨.bar4, BitVec.ofNat 24 (16 * n.val + 12)⟩ .word32 v) s
      = .next (s.withDev (s.dev.maskVector n.val (v.getLsbD 0)))) ∧
    ∃ t, exec (.registerRead ⟨.config, 0⟩ .word32) s = .next t ∧ t.dev.hif.readData = 0xC0D01E7A ∧ t.rst = s.rst) ∧
  ((∀ (i : Byte) (s : State), exec (.sidebandAccess i none) s = .next (s.withDev { s.dev with
    side := { s.dev.side with read := s.sidebandValue i.toNat } })) ∧
  (∀ (b : Byte) (s : State),
    exec (.sidebandAccess 0x10 (some [b])) s = .next (s.withDev { s.dev with side := { s.dev.side with
      alert := s.dev.side.alert &&& ~~~b } }) ∧
    exec (.sidebandAccess 0x11 (some [b])) s = .next (s.withDev { s.dev with side := { s.dev.side with alertEn := b } }) ∧
    ∀ (i : Byte), i ≠ 0x10 → i ≠ 0x11 → exec (.sidebandAccess i (some [b])) s = .next s))
end

