-- ==== Sys2Proof/Laws/Memory.lean ====
section
/-! SUPPORT. Laws of tables and of memory: a read after a write, what a write leaves alone, and that every memory operation
keeps the canonical form. -/
namespace Sys2Proof.Machine
open Sys2Proof

/-! ## Tables -/

@[simp] theorem Tab.get_nil {α : Type} (d : α) (k : Nat) : Tab.get d [] k = d := rfl

theorem Tab.get_cons {α : Type} (d : α) (e : Nat × α) (t : Tab α) (k : Nat) :
    Tab.get d (e :: t) k = if k = e.1 then e.2 else Tab.get d t k := rfl

/-- The value last written at a key is read there, and every other key reads as before. -/
theorem Tab.get_set {α : Type} (d : α) (t : Tab α) (k j : Nat) (v : α) :
    Tab.get d (Tab.set t k v) j = if j = k then v else Tab.get d t j := by
  induction t with
  | nil => simp [Tab.set, Tab.get]
  | cons e t ih =>
    obtain ⟨k', v'⟩ := e
    simp only [Tab.set]
    split
    · simp [Tab.get]
    · split
      · rename_i h; subst h; simp only [Tab.get]; split <;> simp_all
      · simp only [Tab.get, ih]
        split
        · rename_i hne hj; subst hj; rw [if_neg (fun h => hne h.symm)]
        · rfl

@[simp] theorem Tab.get_set_self {α : Type} (d : α) (t : Tab α) (k : Nat) (v : α) :
    Tab.get d (Tab.set t k v) k = v := by simp [Tab.get_set]

theorem Tab.get_set_ne {α : Type} (d : α) (t : Tab α) {k j : Nat} (v : α) (h : j ≠ k) :
    Tab.get d (Tab.set t k v) j = Tab.get d t j := by simp [Tab.get_set, h]

theorem Tab.find_set {α : Type} (t : Tab α) (k j : Nat) (v : α) :
    Tab.find (Tab.set t k v) j = if j = k then some v else Tab.find t j := by
  induction t with
  | nil => simp [Tab.set, Tab.find]
  | cons e t ih =>
    obtain ⟨k', v'⟩ := e
    simp only [Tab.set]
    split
    · simp [Tab.find]
    · split
      · rename_i h; subst h; simp only [Tab.find]; split <;> simp_all
      · simp only [Tab.find, ih]
        split
        · rename_i hne hj; subst hj; rw [if_neg (fun h => hne h.symm)]
        · rfl

/-! ## Memory -/

@[simp] theorem Mem.read_nil (a : Nat) : Mem.read [] a = Mem.unlisted := rfl

/-- The canonical form of a list of cells above an address. -/
def Mem.above (lo : Nat) : Mem → Prop
  | [] => True
  | (k, v) :: r => lo ≤ k ∧ v ≠ Mem.unlisted ∧ Mem.above (k + 1) r

theorem Mem.wf_iff_above (m : Mem) : m.wf = true ↔ m.above 0 := by
  have key : ∀ (m : Mem) (k : Nat) (v : Byte), Mem.wf ((k, v) :: m) = true ↔ v ≠ Mem.unlisted ∧ m.above (k + 1) := by
    intro m
    induction m with
    | nil => intro k v; simp [Mem.wf, Mem.above]
    | cons e m ih =>
      intro k v
      obtain ⟨k', v'⟩ := e
      simp only [Mem.wf, Bool.and_eq_true, decide_eq_true_eq, ih, Mem.above]
      constructor
      · rintro ⟨⟨h1, h2⟩, h3, h4⟩; exact ⟨h1, by omega, h3, h4⟩
      · rintro ⟨h1, h2, h3, h4⟩; exact ⟨⟨h1, by omega⟩, h3, h4⟩
  cases m with
  | nil => simp [Mem.wf, Mem.above]
  | cons e m => obtain ⟨k, v⟩ := e; simp [key, Mem.above]

theorem Mem.above_mono {lo lo' : Nat} (h : lo' ≤ lo) : {m : Mem} → m.above lo → m.above lo'
  | [], _ => trivial
  | (_, _) :: _, ⟨h1, h2, h3⟩ => ⟨Nat.le_trans h h1, h2, h3⟩

theorem Mem.read_of_above (m : Mem) (lo a : Nat) (h : m.above lo) (ha : a < lo) : Mem.read m a = Mem.unlisted := by
  induction m generalizing lo with
  | nil => rfl
  | cons e m ih =>
    obtain ⟨k, v⟩ := e
    obtain ⟨h1, _, h3⟩ := h
    simp only [Mem.read]
    rw [if_neg (by omega)]
    exact ih (k + 1) h3 (by omega)

theorem Mem.write_above (m : Mem) (lo a : Nat) (b : Byte) (h : m.above lo) (ha : lo ≤ a) : (m.write a b).above lo := by
  induction m generalizing lo with
  | nil => simp only [Mem.write]; split <;> simp_all [Mem.above]
  | cons e m ih =>
    obtain ⟨k, v⟩ := e
    obtain ⟨h1, h2, h3⟩ := h
    simp only [Mem.write]
    split
    · split
      · exact ⟨h1, h2, h3⟩
      · exact ⟨ha, ‹_›, by omega, h2, h3⟩
    · split
      · rename_i heq; subst heq
        split
        · exact Mem.above_mono (by omega) h3
        · exact ⟨ha, ‹_›, h3⟩
      · exact ⟨h1, h2, ih (k + 1) h3 (by omega)⟩

/-- A write keeps the canonical form. -/
theorem Mem.write_wf (m : Mem) (a : Nat) (b : Byte) (h : m.wf = true) : (m.write a b).wf = true :=
  (Mem.wf_iff_above _).2 (Mem.write_above m 0 a b ((Mem.wf_iff_above m).1 h) (Nat.zero_le a))

/-- Writing consecutive bytes keeps the canonical form. -/
theorem Mem.writeN_wf (m : Mem) (a : Nat) (bs : List Byte) (h : m.wf = true) : (m.writeN a bs).wf = true := by
  induction bs generalizing m a with
  | nil => exact h
  | cons b bs ih => exact ih _ _ (Mem.write_wf m a b h)

/-- Writing a list of cells keeps the canonical form. -/
theorem Mem.writeCells_wf (m : Mem) (cs : List Host.Cell) (h : m.wf = true) : (m.writeCells cs).wf = true := by
  induction cs generalizing m with
  | nil => exact h
  | cons e cs ih => obtain ⟨a, b⟩ := e; exact ih _ (Mem.write_wf m a b h)

/-- A read after a write to the same address gives the byte written, and every other address reads as before. -/
theorem Mem.read_write (m : Mem) (a x : Nat) (b : Byte) (h : m.wf = true) :
    Mem.read (m.write a b) x = if x = a then b else Mem.read m x := by
  have key : ∀ (m : Mem) (lo : Nat), m.above lo →
      Mem.read (m.write a b) x = if x = a then b else Mem.read m x := by
    intro m
    induction m with
    | nil =>
      intro lo _
      simp only [Mem.write]
      by_cases hx : x = a
      · split <;> simp_all [Mem.read]
      · split <;> simp_all [Mem.read]
    | cons e m ih =>
      intro lo h
      obtain ⟨k, v⟩ := e
      obtain ⟨h1, h2, h3⟩ := h
      simp only [Mem.write]
      split
      · rename_i hlt
        split
        · rename_i hb
          by_cases hx : x = a
          · subst hx
            rw [Mem.read_of_above ((k, v) :: m) k x ⟨Nat.le_refl k, h2, h3⟩ hlt]
            simp [hb]
          · simp [hx]
        · simp [Mem.read]
      · split
        · rename_i hk; subst hk
          split
          · rename_i hb
            by_cases hx : x = a
            · subst hx; rw [Mem.read_of_above m (x + 1) x h3 (by omega)]; simp [hb]
            · simp [hx, Mem.read]
          · simp only [Mem.read]; split <;> simp_all
        · simp only [Mem.read, ih (k + 1) h3]
          split <;> simp_all
          omega
  exact key m 0 ((Mem.wf_iff_above m).1 h)

end Sys2Proof.Machine
end

