-- ==== Sys2Proof/Laws/State.lean ====
section
/-! SUPPORT. What each update of the device leaves alone, field by field, and what it writes. -/
namespace Sys2Proof.Machine
open Sys2Proof

/-! ## Outcomes -/

@[simp] theorem State.onDev_eq (s : State) (f : Dev → Dev) : s.onDev f = .next { s with dev := f s.dev } := rfl

/-! ## Fields that an update leaves alone -/

@[simp] theorem Dev.setCtx_freeCtr (s : Dev) (c : Nat) (x : Ctx) : (s.setCtx c x).freeCtr = s.freeCtr := rfl
@[simp] theorem Dev.setCtx_tiles (s : Dev) (c : Nat) (x : Ctx) : (s.setCtx c x).tiles = s.tiles := rfl
@[simp] theorem Dev.setCtx_sync (s : Dev) (c : Nat) (x : Ctx) : (s.setCtx c x).sync = s.sync := rfl
@[simp] theorem Dev.setCtx_mem (s : Dev) (c : Nat) (x : Ctx) : (s.setCtx c x).mem = s.mem := rfl
@[simp] theorem Dev.setCtx_fab (s : Dev) (c : Nat) (x : Ctx) : (s.setCtx c x).fab = s.fab := rfl
@[simp] theorem Dev.setCtx_farr (s : Dev) (c : Nat) (x : Ctx) : (s.setCtx c x).farr = s.farr := rfl
@[simp] theorem Dev.setCtx_hif (s : Dev) (c : Nat) (x : Ctx) : (s.setCtx c x).hif = s.hif := rfl
@[simp] theorem Dev.setCtx_time (s : Dev) (c : Nat) (x : Ctx) : (s.setCtx c x).time = s.time := rfl
@[simp] theorem Dev.setCtx_pwr (s : Dev) (c : Nat) (x : Ctx) : (s.setCtx c x).pwr = s.pwr := rfl
@[simp] theorem Dev.setCtx_up (s : Dev) (c : Nat) (x : Ctx) : (s.setCtx c x).up = s.up := rfl
@[simp] theorem Dev.setCtx_side (s : Dev) (c : Nat) (x : Ctx) : (s.setCtx c x).side = s.side := rfl
@[simp] theorem Dev.setCtx_sel (s : Dev) (c : Nat) (x : Ctx) : (s.setCtx c x).sel = s.sel := rfl
@[simp] theorem Dev.setCtx_mtxLog (s : Dev) (c : Nat) (x : Ctx) : (s.setCtx c x).mtxLog = s.mtxLog := rfl
@[simp] theorem Dev.setCtx_sfu (s : Dev) (c : Nat) (x : Ctx) : (s.setCtx c x).sfu = s.sfu := rfl
@[simp] theorem Dev.setCtx_grxStatus (s : Dev) (c : Nat) (x : Ctx) : (s.setCtx c x).grxStatus = s.grxStatus := rfl
@[simp] theorem Dev.setCtx_grxPend (s : Dev) (c : Nat) (x : Ctx) : (s.setCtx c x).grxPend = s.grxPend := rfl
@[simp] theorem Dev.setCtx_updStatus (s : Dev) (c : Nat) (x : Ctx) : (s.setCtx c x).updStatus = s.updStatus := rfl
@[simp] theorem Dev.setCtx_updPend (s : Dev) (c : Nat) (x : Ctx) : (s.setCtx c x).updPend = s.updPend := rfl

@[simp] theorem Dev.modCtx_freeCtr (s : Dev) (c : Nat) (f : Ctx → Ctx) : (s.modCtx c f).freeCtr = s.freeCtr := rfl
@[simp] theorem Dev.modCtx_tiles (s : Dev) (c : Nat) (f : Ctx → Ctx) : (s.modCtx c f).tiles = s.tiles := rfl
@[simp] theorem Dev.modCtx_sync (s : Dev) (c : Nat) (f : Ctx → Ctx) : (s.modCtx c f).sync = s.sync := rfl
@[simp] theorem Dev.modCtx_mem (s : Dev) (c : Nat) (f : Ctx → Ctx) : (s.modCtx c f).mem = s.mem := rfl
@[simp] theorem Dev.modCtx_fab (s : Dev) (c : Nat) (f : Ctx → Ctx) : (s.modCtx c f).fab = s.fab := rfl
@[simp] theorem Dev.modCtx_farr (s : Dev) (c : Nat) (f : Ctx → Ctx) : (s.modCtx c f).farr = s.farr := rfl
@[simp] theorem Dev.modCtx_hif (s : Dev) (c : Nat) (f : Ctx → Ctx) : (s.modCtx c f).hif = s.hif := rfl
@[simp] theorem Dev.modCtx_time (s : Dev) (c : Nat) (f : Ctx → Ctx) : (s.modCtx c f).time = s.time := rfl
@[simp] theorem Dev.modCtx_pwr (s : Dev) (c : Nat) (f : Ctx → Ctx) : (s.modCtx c f).pwr = s.pwr := rfl
@[simp] theorem Dev.modCtx_up (s : Dev) (c : Nat) (f : Ctx → Ctx) : (s.modCtx c f).up = s.up := rfl
@[simp] theorem Dev.modCtx_side (s : Dev) (c : Nat) (f : Ctx → Ctx) : (s.modCtx c f).side = s.side := rfl
@[simp] theorem Dev.modCtx_sel (s : Dev) (c : Nat) (f : Ctx → Ctx) : (s.modCtx c f).sel = s.sel := rfl
@[simp] theorem Dev.modCtx_mtxLog (s : Dev) (c : Nat) (f : Ctx → Ctx) : (s.modCtx c f).mtxLog = s.mtxLog := rfl
@[simp] theorem Dev.modCtx_sfu (s : Dev) (c : Nat) (f : Ctx → Ctx) : (s.modCtx c f).sfu = s.sfu := rfl
@[simp] theorem Dev.modCtx_grxStatus (s : Dev) (c : Nat) (f : Ctx → Ctx) : (s.modCtx c f).grxStatus = s.grxStatus := rfl
@[simp] theorem Dev.modCtx_grxPend (s : Dev) (c : Nat) (f : Ctx → Ctx) : (s.modCtx c f).grxPend = s.grxPend := rfl
@[simp] theorem Dev.modCtx_updStatus (s : Dev) (c : Nat) (f : Ctx → Ctx) : (s.modCtx c f).updStatus = s.updStatus := rfl
@[simp] theorem Dev.modCtx_updPend (s : Dev) (c : Nat) (f : Ctx → Ctx) : (s.modCtx c f).updPend = s.updPend := rfl

@[simp] theorem Dev.setPtile_freeCtr (s : Dev) (p : Nat) (x : PTile) : (s.setPtile p x).freeCtr = s.freeCtr := rfl
@[simp] theorem Dev.setPtile_ctxs (s : Dev) (p : Nat) (x : PTile) : (s.setPtile p x).ctxs = s.ctxs := rfl
@[simp] theorem Dev.setPtile_sync (s : Dev) (p : Nat) (x : PTile) : (s.setPtile p x).sync = s.sync := rfl
@[simp] theorem Dev.setPtile_mem (s : Dev) (p : Nat) (x : PTile) : (s.setPtile p x).mem = s.mem := rfl
@[simp] theorem Dev.setPtile_fab (s : Dev) (p : Nat) (x : PTile) : (s.setPtile p x).fab = s.fab := rfl
@[simp] theorem Dev.setPtile_farr (s : Dev) (p : Nat) (x : PTile) : (s.setPtile p x).farr = s.farr := rfl
@[simp] theorem Dev.setPtile_hif (s : Dev) (p : Nat) (x : PTile) : (s.setPtile p x).hif = s.hif := rfl
@[simp] theorem Dev.setPtile_time (s : Dev) (p : Nat) (x : PTile) : (s.setPtile p x).time = s.time := rfl
@[simp] theorem Dev.setPtile_pwr (s : Dev) (p : Nat) (x : PTile) : (s.setPtile p x).pwr = s.pwr := rfl
@[simp] theorem Dev.setPtile_up (s : Dev) (p : Nat) (x : PTile) : (s.setPtile p x).up = s.up := rfl
@[simp] theorem Dev.setPtile_side (s : Dev) (p : Nat) (x : PTile) : (s.setPtile p x).side = s.side := rfl
@[simp] theorem Dev.setPtile_sel (s : Dev) (p : Nat) (x : PTile) : (s.setPtile p x).sel = s.sel := rfl
@[simp] theorem Dev.setPtile_mtxLog (s : Dev) (p : Nat) (x : PTile) : (s.setPtile p x).mtxLog = s.mtxLog := rfl
@[simp] theorem Dev.setPtile_sfu (s : Dev) (p : Nat) (x : PTile) : (s.setPtile p x).sfu = s.sfu := rfl
@[simp] theorem Dev.setPtile_grxStatus (s : Dev) (p : Nat) (x : PTile) : (s.setPtile p x).grxStatus = s.grxStatus := rfl
@[simp] theorem Dev.setPtile_grxPend (s : Dev) (p : Nat) (x : PTile) : (s.setPtile p x).grxPend = s.grxPend := rfl
@[simp] theorem Dev.setPtile_updStatus (s : Dev) (p : Nat) (x : PTile) : (s.setPtile p x).updStatus = s.updStatus := rfl
@[simp] theorem Dev.setPtile_updPend (s : Dev) (p : Nat) (x : PTile) : (s.setPtile p x).updPend = s.updPend := rfl

@[simp] theorem Dev.setRing_freeCtr (s : Dev) (c r : Nat) (g : Ring) : (s.setRing c r g).freeCtr = s.freeCtr := rfl
@[simp] theorem Dev.setRing_tiles (s : Dev) (c r : Nat) (g : Ring) : (s.setRing c r g).tiles = s.tiles := rfl
@[simp] theorem Dev.setRing_sync (s : Dev) (c r : Nat) (g : Ring) : (s.setRing c r g).sync = s.sync := rfl
@[simp] theorem Dev.setRing_mem (s : Dev) (c r : Nat) (g : Ring) : (s.setRing c r g).mem = s.mem := rfl
@[simp] theorem Dev.setRing_fab (s : Dev) (c r : Nat) (g : Ring) : (s.setRing c r g).fab = s.fab := rfl
@[simp] theorem Dev.setRing_farr (s : Dev) (c r : Nat) (g : Ring) : (s.setRing c r g).farr = s.farr := rfl
@[simp] theorem Dev.setRing_hif (s : Dev) (c r : Nat) (g : Ring) : (s.setRing c r g).hif = s.hif := rfl
@[simp] theorem Dev.setRing_time (s : Dev) (c r : Nat) (g : Ring) : (s.setRing c r g).time = s.time := rfl
@[simp] theorem Dev.setRing_pwr (s : Dev) (c r : Nat) (g : Ring) : (s.setRing c r g).pwr = s.pwr := rfl
@[simp] theorem Dev.setRing_up (s : Dev) (c r : Nat) (g : Ring) : (s.setRing c r g).up = s.up := rfl
@[simp] theorem Dev.setRing_side (s : Dev) (c r : Nat) (g : Ring) : (s.setRing c r g).side = s.side := rfl
@[simp] theorem Dev.setRing_sel (s : Dev) (c r : Nat) (g : Ring) : (s.setRing c r g).sel = s.sel := rfl
@[simp] theorem Dev.setRing_mtxLog (s : Dev) (c r : Nat) (g : Ring) : (s.setRing c r g).mtxLog = s.mtxLog := rfl
@[simp] theorem Dev.setRing_sfu (s : Dev) (c r : Nat) (g : Ring) : (s.setRing c r g).sfu = s.sfu := rfl
@[simp] theorem Dev.setRing_grxStatus (s : Dev) (c r : Nat) (g : Ring) : (s.setRing c r g).grxStatus = s.grxStatus := rfl
@[simp] theorem Dev.setRing_grxPend (s : Dev) (c r : Nat) (g : Ring) : (s.setRing c r g).grxPend = s.grxPend := rfl
@[simp] theorem Dev.setRing_updStatus (s : Dev) (c r : Nat) (g : Ring) : (s.setRing c r g).updStatus = s.updStatus := rfl
@[simp] theorem Dev.setRing_updPend (s : Dev) (c r : Nat) (g : Ring) : (s.setRing c r g).updPend = s.updPend := rfl

@[simp] theorem Dev.setBucket_freeCtr (s : Dev) (c b : Nat) (k : Bucket) : (s.setBucket c b k).freeCtr = s.freeCtr := rfl
@[simp] theorem Dev.setBucket_tiles (s : Dev) (c b : Nat) (k : Bucket) : (s.setBucket c b k).tiles = s.tiles := rfl
@[simp] theorem Dev.setBucket_sync (s : Dev) (c b : Nat) (k : Bucket) : (s.setBucket c b k).sync = s.sync := rfl
@[simp] theorem Dev.setBucket_mem (s : Dev) (c b : Nat) (k : Bucket) : (s.setBucket c b k).mem = s.mem := rfl
@[simp] theorem Dev.setBucket_fab (s : Dev) (c b : Nat) (k : Bucket) : (s.setBucket c b k).fab = s.fab := rfl
@[simp] theorem Dev.setBucket_farr (s : Dev) (c b : Nat) (k : Bucket) : (s.setBucket c b k).farr = s.farr := rfl
@[simp] theorem Dev.setBucket_hif (s : Dev) (c b : Nat) (k : Bucket) : (s.setBucket c b k).hif = s.hif := rfl
@[simp] theorem Dev.setBucket_time (s : Dev) (c b : Nat) (k : Bucket) : (s.setBucket c b k).time = s.time := rfl
@[simp] theorem Dev.setBucket_pwr (s : Dev) (c b : Nat) (k : Bucket) : (s.setBucket c b k).pwr = s.pwr := rfl
@[simp] theorem Dev.setBucket_up (s : Dev) (c b : Nat) (k : Bucket) : (s.setBucket c b k).up = s.up := rfl
@[simp] theorem Dev.setBucket_side (s : Dev) (c b : Nat) (k : Bucket) : (s.setBucket c b k).side = s.side := rfl
@[simp] theorem Dev.setBucket_sel (s : Dev) (c b : Nat) (k : Bucket) : (s.setBucket c b k).sel = s.sel := rfl
@[simp] theorem Dev.setBucket_mtxLog (s : Dev) (c b : Nat) (k : Bucket) : (s.setBucket c b k).mtxLog = s.mtxLog := rfl
@[simp] theorem Dev.setBucket_sfu (s : Dev) (c b : Nat) (k : Bucket) : (s.setBucket c b k).sfu = s.sfu := rfl
@[simp] theorem Dev.setBucket_grxStatus (s : Dev) (c b : Nat) (k : Bucket) : (s.setBucket c b k).grxStatus = s.grxStatus := rfl
@[simp] theorem Dev.setBucket_grxPend (s : Dev) (c b : Nat) (k : Bucket) : (s.setBucket c b k).grxPend = s.grxPend := rfl
@[simp] theorem Dev.setBucket_updStatus (s : Dev) (c b : Nat) (k : Bucket) : (s.setBucket c b k).updStatus = s.updStatus := rfl
@[simp] theorem Dev.setBucket_updPend (s : Dev) (c b : Nat) (k : Bucket) : (s.setBucket c b k).updPend = s.updPend := rfl

@[simp] theorem Dev.modLaunch_freeCtr (s : Dev) (c : Nat) (pos : U32) (f : Launch → Launch) : (s.modLaunch c pos f).freeCtr = s.freeCtr := rfl
@[simp] theorem Dev.modLaunch_tiles (s : Dev) (c : Nat) (pos : U32) (f : Launch → Launch) : (s.modLaunch c pos f).tiles = s.tiles := rfl
@[simp] theorem Dev.modLaunch_sync (s : Dev) (c : Nat) (pos : U32) (f : Launch → Launch) : (s.modLaunch c pos f).sync = s.sync := rfl
@[simp] theorem Dev.modLaunch_mem (s : Dev) (c : Nat) (pos : U32) (f : Launch → Launch) : (s.modLaunch c pos f).mem = s.mem := rfl
@[simp] theorem Dev.modLaunch_fab (s : Dev) (c : Nat) (pos : U32) (f : Launch → Launch) : (s.modLaunch c pos f).fab = s.fab := rfl
@[simp] theorem Dev.modLaunch_farr (s : Dev) (c : Nat) (pos : U32) (f : Launch → Launch) : (s.modLaunch c pos f).farr = s.farr := rfl
@[simp] theorem Dev.modLaunch_hif (s : Dev) (c : Nat) (pos : U32) (f : Launch → Launch) : (s.modLaunch c pos f).hif = s.hif := rfl
@[simp] theorem Dev.modLaunch_time (s : Dev) (c : Nat) (pos : U32) (f : Launch → Launch) : (s.modLaunch c pos f).time = s.time := rfl
@[simp] theorem Dev.modLaunch_pwr (s : Dev) (c : Nat) (pos : U32) (f : Launch → Launch) : (s.modLaunch c pos f).pwr = s.pwr := rfl
@[simp] theorem Dev.modLaunch_up (s : Dev) (c : Nat) (pos : U32) (f : Launch → Launch) : (s.modLaunch c pos f).up = s.up := rfl
@[simp] theorem Dev.modLaunch_side (s : Dev) (c : Nat) (pos : U32) (f : Launch → Launch) : (s.modLaunch c pos f).side = s.side := rfl
@[simp] theorem Dev.modLaunch_sel (s : Dev) (c : Nat) (pos : U32) (f : Launch → Launch) : (s.modLaunch c pos f).sel = s.sel := rfl
@[simp] theorem Dev.modLaunch_mtxLog (s : Dev) (c : Nat) (pos : U32) (f : Launch → Launch) : (s.modLaunch c pos f).mtxLog = s.mtxLog := rfl
@[simp] theorem Dev.modLaunch_sfu (s : Dev) (c : Nat) (pos : U32) (f : Launch → Launch) : (s.modLaunch c pos f).sfu = s.sfu := rfl
@[simp] theorem Dev.modLaunch_grxStatus (s : Dev) (c : Nat) (pos : U32) (f : Launch → Launch) : (s.modLaunch c pos f).grxStatus = s.grxStatus := rfl
@[simp] theorem Dev.modLaunch_grxPend (s : Dev) (c : Nat) (pos : U32) (f : Launch → Launch) : (s.modLaunch c pos f).grxPend = s.grxPend := rfl
@[simp] theorem Dev.modLaunch_updStatus (s : Dev) (c : Nat) (pos : U32) (f : Launch → Launch) : (s.modLaunch c pos f).updStatus = s.updStatus := rfl
@[simp] theorem Dev.modLaunch_updPend (s : Dev) (c : Nat) (pos : U32) (f : Launch → Launch) : (s.modLaunch c pos f).updPend = s.updPend := rfl

@[simp] theorem Dev.modUpd_freeCtr (s : Dev) (c : Nat) (f : Upd → Upd) : (s.modUpd c f).freeCtr = s.freeCtr := rfl
@[simp] theorem Dev.modUpd_tiles (s : Dev) (c : Nat) (f : Upd → Upd) : (s.modUpd c f).tiles = s.tiles := rfl
@[simp] theorem Dev.modUpd_sync (s : Dev) (c : Nat) (f : Upd → Upd) : (s.modUpd c f).sync = s.sync := rfl
@[simp] theorem Dev.modUpd_mem (s : Dev) (c : Nat) (f : Upd → Upd) : (s.modUpd c f).mem = s.mem := rfl
@[simp] theorem Dev.modUpd_fab (s : Dev) (c : Nat) (f : Upd → Upd) : (s.modUpd c f).fab = s.fab := rfl
@[simp] theorem Dev.modUpd_farr (s : Dev) (c : Nat) (f : Upd → Upd) : (s.modUpd c f).farr = s.farr := rfl
@[simp] theorem Dev.modUpd_hif (s : Dev) (c : Nat) (f : Upd → Upd) : (s.modUpd c f).hif = s.hif := rfl
@[simp] theorem Dev.modUpd_time (s : Dev) (c : Nat) (f : Upd → Upd) : (s.modUpd c f).time = s.time := rfl
@[simp] theorem Dev.modUpd_pwr (s : Dev) (c : Nat) (f : Upd → Upd) : (s.modUpd c f).pwr = s.pwr := rfl
@[simp] theorem Dev.modUpd_up (s : Dev) (c : Nat) (f : Upd → Upd) : (s.modUpd c f).up = s.up := rfl
@[simp] theorem Dev.modUpd_side (s : Dev) (c : Nat) (f : Upd → Upd) : (s.modUpd c f).side = s.side := rfl
@[simp] theorem Dev.modUpd_sel (s : Dev) (c : Nat) (f : Upd → Upd) : (s.modUpd c f).sel = s.sel := rfl
@[simp] theorem Dev.modUpd_mtxLog (s : Dev) (c : Nat) (f : Upd → Upd) : (s.modUpd c f).mtxLog = s.mtxLog := rfl
@[simp] theorem Dev.modUpd_sfu (s : Dev) (c : Nat) (f : Upd → Upd) : (s.modUpd c f).sfu = s.sfu := rfl
@[simp] theorem Dev.modUpd_grxStatus (s : Dev) (c : Nat) (f : Upd → Upd) : (s.modUpd c f).grxStatus = s.grxStatus := rfl
@[simp] theorem Dev.modUpd_grxPend (s : Dev) (c : Nat) (f : Upd → Upd) : (s.modUpd c f).grxPend = s.grxPend := rfl
@[simp] theorem Dev.modUpd_updStatus (s : Dev) (c : Nat) (f : Upd → Upd) : (s.modUpd c f).updStatus = s.updStatus := rfl
@[simp] theorem Dev.modUpd_updPend (s : Dev) (c : Nat) (f : Upd → Upd) : (s.modUpd c f).updPend = s.updPend := rfl

@[simp] theorem Dev.setHitch_freeCtr (s : Dev) (k : Nat) (h : Hitch) : (s.setHitch k h).freeCtr = s.freeCtr := rfl
@[simp] theorem Dev.setHitch_ctxs (s : Dev) (k : Nat) (h : Hitch) : (s.setHitch k h).ctxs = s.ctxs := rfl
@[simp] theorem Dev.setHitch_tiles (s : Dev) (k : Nat) (h : Hitch) : (s.setHitch k h).tiles = s.tiles := rfl
@[simp] theorem Dev.setHitch_mem (s : Dev) (k : Nat) (h : Hitch) : (s.setHitch k h).mem = s.mem := rfl
@[simp] theorem Dev.setHitch_fab (s : Dev) (k : Nat) (h : Hitch) : (s.setHitch k h).fab = s.fab := rfl
@[simp] theorem Dev.setHitch_farr (s : Dev) (k : Nat) (h : Hitch) : (s.setHitch k h).farr = s.farr := rfl
@[simp] theorem Dev.setHitch_hif (s : Dev) (k : Nat) (h : Hitch) : (s.setHitch k h).hif = s.hif := rfl
@[simp] theorem Dev.setHitch_time (s : Dev) (k : Nat) (h : Hitch) : (s.setHitch k h).time = s.time := rfl
@[simp] theorem Dev.setHitch_pwr (s : Dev) (k : Nat) (h : Hitch) : (s.setHitch k h).pwr = s.pwr := rfl
@[simp] theorem Dev.setHitch_up (s : Dev) (k : Nat) (h : Hitch) : (s.setHitch k h).up = s.up := rfl
@[simp] theorem Dev.setHitch_side (s : Dev) (k : Nat) (h : Hitch) : (s.setHitch k h).side = s.side := rfl
@[simp] theorem Dev.setHitch_sel (s : Dev) (k : Nat) (h : Hitch) : (s.setHitch k h).sel = s.sel := rfl
@[simp] theorem Dev.setHitch_mtxLog (s : Dev) (k : Nat) (h : Hitch) : (s.setHitch k h).mtxLog = s.mtxLog := rfl
@[simp] theorem Dev.setHitch_sfu (s : Dev) (k : Nat) (h : Hitch) : (s.setHitch k h).sfu = s.sfu := rfl
@[simp] theorem Dev.setHitch_grxStatus (s : Dev) (k : Nat) (h : Hitch) : (s.setHitch k h).grxStatus = s.grxStatus := rfl
@[simp] theorem Dev.setHitch_grxPend (s : Dev) (k : Nat) (h : Hitch) : (s.setHitch k h).grxPend = s.grxPend := rfl
@[simp] theorem Dev.setHitch_updStatus (s : Dev) (k : Nat) (h : Hitch) : (s.setHitch k h).updStatus = s.updStatus := rfl
@[simp] theorem Dev.setHitch_updPend (s : Dev) (k : Nat) (h : Hitch) : (s.setHitch k h).updPend = s.updPend := rfl

@[simp] theorem Dev.setLink_freeCtr (s : Dev) (l : Nat) (k : Link) : (s.setLink l k).freeCtr = s.freeCtr := rfl
@[simp] theorem Dev.setLink_ctxs (s : Dev) (l : Nat) (k : Link) : (s.setLink l k).ctxs = s.ctxs := rfl
@[simp] theorem Dev.setLink_tiles (s : Dev) (l : Nat) (k : Link) : (s.setLink l k).tiles = s.tiles := rfl
@[simp] theorem Dev.setLink_sync (s : Dev) (l : Nat) (k : Link) : (s.setLink l k).sync = s.sync := rfl
@[simp] theorem Dev.setLink_mem (s : Dev) (l : Nat) (k : Link) : (s.setLink l k).mem = s.mem := rfl
@[simp] theorem Dev.setLink_farr (s : Dev) (l : Nat) (k : Link) : (s.setLink l k).farr = s.farr := rfl
@[simp] theorem Dev.setLink_hif (s : Dev) (l : Nat) (k : Link) : (s.setLink l k).hif = s.hif := rfl
@[simp] theorem Dev.setLink_time (s : Dev) (l : Nat) (k : Link) : (s.setLink l k).time = s.time := rfl
@[simp] theorem Dev.setLink_pwr (s : Dev) (l : Nat) (k : Link) : (s.setLink l k).pwr = s.pwr := rfl
@[simp] theorem Dev.setLink_up (s : Dev) (l : Nat) (k : Link) : (s.setLink l k).up = s.up := rfl
@[simp] theorem Dev.setLink_side (s : Dev) (l : Nat) (k : Link) : (s.setLink l k).side = s.side := rfl
@[simp] theorem Dev.setLink_sel (s : Dev) (l : Nat) (k : Link) : (s.setLink l k).sel = s.sel := rfl
@[simp] theorem Dev.setLink_mtxLog (s : Dev) (l : Nat) (k : Link) : (s.setLink l k).mtxLog = s.mtxLog := rfl
@[simp] theorem Dev.setLink_sfu (s : Dev) (l : Nat) (k : Link) : (s.setLink l k).sfu = s.sfu := rfl
@[simp] theorem Dev.setLink_grxStatus (s : Dev) (l : Nat) (k : Link) : (s.setLink l k).grxStatus = s.grxStatus := rfl
@[simp] theorem Dev.setLink_grxPend (s : Dev) (l : Nat) (k : Link) : (s.setLink l k).grxPend = s.grxPend := rfl
@[simp] theorem Dev.setLink_updStatus (s : Dev) (l : Nat) (k : Link) : (s.setLink l k).updStatus = s.updStatus := rfl
@[simp] theorem Dev.setLink_updPend (s : Dev) (l : Nat) (k : Link) : (s.setLink l k).updPend = s.updPend := rfl

@[simp] theorem Dev.setGang_freeCtr (s : Dev) (g : Nat) (k : Gang) : (s.setGang g k).freeCtr = s.freeCtr := rfl
@[simp] theorem Dev.setGang_ctxs (s : Dev) (g : Nat) (k : Gang) : (s.setGang g k).ctxs = s.ctxs := rfl
@[simp] theorem Dev.setGang_tiles (s : Dev) (g : Nat) (k : Gang) : (s.setGang g k).tiles = s.tiles := rfl
@[simp] theorem Dev.setGang_sync (s : Dev) (g : Nat) (k : Gang) : (s.setGang g k).sync = s.sync := rfl
@[simp] theorem Dev.setGang_mem (s : Dev) (g : Nat) (k : Gang) : (s.setGang g k).mem = s.mem := rfl
@[simp] theorem Dev.setGang_farr (s : Dev) (g : Nat) (k : Gang) : (s.setGang g k).farr = s.farr := rfl
@[simp] theorem Dev.setGang_hif (s : Dev) (g : Nat) (k : Gang) : (s.setGang g k).hif = s.hif := rfl
@[simp] theorem Dev.setGang_time (s : Dev) (g : Nat) (k : Gang) : (s.setGang g k).time = s.time := rfl
@[simp] theorem Dev.setGang_pwr (s : Dev) (g : Nat) (k : Gang) : (s.setGang g k).pwr = s.pwr := rfl
@[simp] theorem Dev.setGang_up (s : Dev) (g : Nat) (k : Gang) : (s.setGang g k).up = s.up := rfl
@[simp] theorem Dev.setGang_side (s : Dev) (g : Nat) (k : Gang) : (s.setGang g k).side = s.side := rfl
@[simp] theorem Dev.setGang_sel (s : Dev) (g : Nat) (k : Gang) : (s.setGang g k).sel = s.sel := rfl
@[simp] theorem Dev.setGang_mtxLog (s : Dev) (g : Nat) (k : Gang) : (s.setGang g k).mtxLog = s.mtxLog := rfl
@[simp] theorem Dev.setGang_sfu (s : Dev) (g : Nat) (k : Gang) : (s.setGang g k).sfu = s.sfu := rfl
@[simp] theorem Dev.setGang_grxStatus (s : Dev) (g : Nat) (k : Gang) : (s.setGang g k).grxStatus = s.grxStatus := rfl
@[simp] theorem Dev.setGang_grxPend (s : Dev) (g : Nat) (k : Gang) : (s.setGang g k).grxPend = s.grxPend := rfl
@[simp] theorem Dev.setGang_updStatus (s : Dev) (g : Nat) (k : Gang) : (s.setGang g k).updStatus = s.updStatus := rfl
@[simp] theorem Dev.setGang_updPend (s : Dev) (g : Nat) (k : Gang) : (s.setGang g k).updPend = s.updPend := rfl

@[simp] theorem Dev.modOp_freeCtr (s : Dev) (i : Nat) (f : ROp → ROp) : (s.modOp i f).freeCtr = s.freeCtr := rfl
@[simp] theorem Dev.modOp_ctxs (s : Dev) (i : Nat) (f : ROp → ROp) : (s.modOp i f).ctxs = s.ctxs := rfl
@[simp] theorem Dev.modOp_tiles (s : Dev) (i : Nat) (f : ROp → ROp) : (s.modOp i f).tiles = s.tiles := rfl
@[simp] theorem Dev.modOp_sync (s : Dev) (i : Nat) (f : ROp → ROp) : (s.modOp i f).sync = s.sync := rfl
@[simp] theorem Dev.modOp_mem (s : Dev) (i : Nat) (f : ROp → ROp) : (s.modOp i f).mem = s.mem := rfl
@[simp] theorem Dev.modOp_farr (s : Dev) (i : Nat) (f : ROp → ROp) : (s.modOp i f).farr = s.farr := rfl
@[simp] theorem Dev.modOp_hif (s : Dev) (i : Nat) (f : ROp → ROp) : (s.modOp i f).hif = s.hif := rfl
@[simp] theorem Dev.modOp_time (s : Dev) (i : Nat) (f : ROp → ROp) : (s.modOp i f).time = s.time := rfl
@[simp] theorem Dev.modOp_pwr (s : Dev) (i : Nat) (f : ROp → ROp) : (s.modOp i f).pwr = s.pwr := rfl
@[simp] theorem Dev.modOp_up (s : Dev) (i : Nat) (f : ROp → ROp) : (s.modOp i f).up = s.up := rfl
@[simp] theorem Dev.modOp_side (s : Dev) (i : Nat) (f : ROp → ROp) : (s.modOp i f).side = s.side := rfl
@[simp] theorem Dev.modOp_sel (s : Dev) (i : Nat) (f : ROp → ROp) : (s.modOp i f).sel = s.sel := rfl
@[simp] theorem Dev.modOp_mtxLog (s : Dev) (i : Nat) (f : ROp → ROp) : (s.modOp i f).mtxLog = s.mtxLog := rfl
@[simp] theorem Dev.modOp_sfu (s : Dev) (i : Nat) (f : ROp → ROp) : (s.modOp i f).sfu = s.sfu := rfl
@[simp] theorem Dev.modOp_grxStatus (s : Dev) (i : Nat) (f : ROp → ROp) : (s.modOp i f).grxStatus = s.grxStatus := rfl
@[simp] theorem Dev.modOp_grxPend (s : Dev) (i : Nat) (f : ROp → ROp) : (s.modOp i f).grxPend = s.grxPend := rfl
@[simp] theorem Dev.modOp_updStatus (s : Dev) (i : Nat) (f : ROp → ROp) : (s.modOp i f).updStatus = s.updStatus := rfl
@[simp] theorem Dev.modOp_updPend (s : Dev) (i : Nat) (f : ROp → ROp) : (s.modOp i f).updPend = s.updPend := rfl

@[simp] theorem Dev.setTime_freeCtr (s : Dev) (t : TimeBlk) : (s.setTime t).freeCtr = s.freeCtr := rfl
@[simp] theorem Dev.setTime_ctxs (s : Dev) (t : TimeBlk) : (s.setTime t).ctxs = s.ctxs := rfl
@[simp] theorem Dev.setTime_tiles (s : Dev) (t : TimeBlk) : (s.setTime t).tiles = s.tiles := rfl
@[simp] theorem Dev.setTime_sync (s : Dev) (t : TimeBlk) : (s.setTime t).sync = s.sync := rfl
@[simp] theorem Dev.setTime_mem (s : Dev) (t : TimeBlk) : (s.setTime t).mem = s.mem := rfl
@[simp] theorem Dev.setTime_fab (s : Dev) (t : TimeBlk) : (s.setTime t).fab = s.fab := rfl
@[simp] theorem Dev.setTime_farr (s : Dev) (t : TimeBlk) : (s.setTime t).farr = s.farr := rfl
@[simp] theorem Dev.setTime_hif (s : Dev) (t : TimeBlk) : (s.setTime t).hif = s.hif := rfl
@[simp] theorem Dev.setTime_pwr (s : Dev) (t : TimeBlk) : (s.setTime t).pwr = s.pwr := rfl
@[simp] theorem Dev.setTime_up (s : Dev) (t : TimeBlk) : (s.setTime t).up = s.up := rfl
@[simp] theorem Dev.setTime_side (s : Dev) (t : TimeBlk) : (s.setTime t).side = s.side := rfl
@[simp] theorem Dev.setTime_sel (s : Dev) (t : TimeBlk) : (s.setTime t).sel = s.sel := rfl
@[simp] theorem Dev.setTime_mtxLog (s : Dev) (t : TimeBlk) : (s.setTime t).mtxLog = s.mtxLog := rfl
@[simp] theorem Dev.setTime_sfu (s : Dev) (t : TimeBlk) : (s.setTime t).sfu = s.sfu := rfl
@[simp] theorem Dev.setTime_grxStatus (s : Dev) (t : TimeBlk) : (s.setTime t).grxStatus = s.grxStatus := rfl
@[simp] theorem Dev.setTime_grxPend (s : Dev) (t : TimeBlk) : (s.setTime t).grxPend = s.grxPend := rfl
@[simp] theorem Dev.setTime_updStatus (s : Dev) (t : TimeBlk) : (s.setTime t).updStatus = s.updStatus := rfl
@[simp] theorem Dev.setTime_updPend (s : Dev) (t : TimeBlk) : (s.setTime t).updPend = s.updPend := rfl

@[simp] theorem Dev.setDom_freeCtr (s : Dev) (n : Nat) (x : Dom) : (s.setDom n x).freeCtr = s.freeCtr := rfl
@[simp] theorem Dev.setDom_ctxs (s : Dev) (n : Nat) (x : Dom) : (s.setDom n x).ctxs = s.ctxs := rfl
@[simp] theorem Dev.setDom_tiles (s : Dev) (n : Nat) (x : Dom) : (s.setDom n x).tiles = s.tiles := rfl
@[simp] theorem Dev.setDom_sync (s : Dev) (n : Nat) (x : Dom) : (s.setDom n x).sync = s.sync := rfl
@[simp] theorem Dev.setDom_mem (s : Dev) (n : Nat) (x : Dom) : (s.setDom n x).mem = s.mem := rfl
@[simp] theorem Dev.setDom_fab (s : Dev) (n : Nat) (x : Dom) : (s.setDom n x).fab = s.fab := rfl
@[simp] theorem Dev.setDom_farr (s : Dev) (n : Nat) (x : Dom) : (s.setDom n x).farr = s.farr := rfl
@[simp] theorem Dev.setDom_hif (s : Dev) (n : Nat) (x : Dom) : (s.setDom n x).hif = s.hif := rfl
@[simp] theorem Dev.setDom_time (s : Dev) (n : Nat) (x : Dom) : (s.setDom n x).time = s.time := rfl
@[simp] theorem Dev.setDom_up (s : Dev) (n : Nat) (x : Dom) : (s.setDom n x).up = s.up := rfl
@[simp] theorem Dev.setDom_side (s : Dev) (n : Nat) (x : Dom) : (s.setDom n x).side = s.side := rfl
@[simp] theorem Dev.setDom_sel (s : Dev) (n : Nat) (x : Dom) : (s.setDom n x).sel = s.sel := rfl
@[simp] theorem Dev.setDom_mtxLog (s : Dev) (n : Nat) (x : Dom) : (s.setDom n x).mtxLog = s.mtxLog := rfl
@[simp] theorem Dev.setDom_sfu (s : Dev) (n : Nat) (x : Dom) : (s.setDom n x).sfu = s.sfu := rfl
@[simp] theorem Dev.setDom_grxStatus (s : Dev) (n : Nat) (x : Dom) : (s.setDom n x).grxStatus = s.grxStatus := rfl
@[simp] theorem Dev.setDom_grxPend (s : Dev) (n : Nat) (x : Dom) : (s.setDom n x).grxPend = s.grxPend := rfl
@[simp] theorem Dev.setDom_updStatus (s : Dev) (n : Nat) (x : Dom) : (s.setDom n x).updStatus = s.updStatus := rfl
@[simp] theorem Dev.setDom_updPend (s : Dev) (n : Nat) (x : Dom) : (s.setDom n x).updPend = s.updPend := rfl

/-! ## Contexts, tiles, links, hitches: what a read gives after an update -/

@[simp] theorem Dev.ctx_setCtx (s : Dev) (c k : Nat) (x : Ctx) : (s.setCtx c x).ctx k = if k = c then x else s.ctx k :=
  Tab.get_set _ _ _ _ _

@[simp] theorem Dev.ctx_modCtx (s : Dev) (c k : Nat) (f : Ctx → Ctx) :
    (s.modCtx c f).ctx k = if k = c then f (s.ctx c) else s.ctx k :=
  Dev.ctx_setCtx _ _ _ _

@[simp] theorem Dev.ptile_setPtile (s : Dev) (p q : Nat) (x : PTile) :
    (s.setPtile p x).ptile q = if q = p then x else s.ptile q := by
  simp only [Dev.ptile, Dev.setPtile, Tab.get_set]

@[simp] theorem Dev.hitch_setHitch (s : Dev) (k j : Nat) (h : Hitch) :
    (s.setHitch k h).hitch j = if j = k then h else s.hitch j :=
  Tab.get_set _ _ _ _ _

@[simp] theorem Dev.link_setLink (s : Dev) (l j : Nat) (k : Link) :
    (s.setLink l k).link j = if j = l then k else s.link j :=
  Tab.get_set _ _ _ _ _

@[simp] theorem Dev.gang_setGang (s : Dev) (g j : Nat) (k : Gang) :
    (s.setGang g k).gang j = if j = g then k else s.gang j :=
  Tab.get_set _ _ _ _ _

@[simp] theorem Dev.dom_setDom (s : Dev) (n j : Nat) (x : Dom) :
    (s.setDom n x).dom j = if j = n then x else s.dom j :=
  Tab.get_set _ _ _ _ _

@[simp] theorem Dev.ring_setRing (s : Dev) (c r j k : Nat) (g : Ring) :
    (s.setRing c r g).ring j k = if j = c ∧ k = r then g else s.ring j k := by
  simp only [Dev.ring, Dev.setRing, Dev.ctx_modCtx]
  by_cases h : j = c
  · subst h; simp [Tab.get_set]
  · simp [h]

@[simp] theorem Dev.bucket_setBucket (s : Dev) (c b j i : Nat) (k : Bucket) :
    (s.setBucket c b k).bucket j i = if j = c ∧ i = b then k else s.bucket j i := by
  simp only [Dev.bucket, Dev.setBucket, Dev.ctx_modCtx]
  by_cases h : j = c
  · subst h; simp [Tab.get_set]
  · simp [h]

end Sys2Proof.Machine
end

