-- ==== Sys2Proof/Laws/Events.lean ====
section
/-! SUPPORT. What the writing of records, events and messages can change: contexts and the host interface, and nothing else;
and what the cascades of the hitch fabric can change: contexts, tiles, hitches and the host interface. -/
namespace Sys2Proof.Machine
open Sys2Proof

theorem foldl_keeps {α β γ : Type} (p : α → γ) (f : α → β → α) (h : ∀ a b, p (f a b) = p a) (xs : List β) (a : α) :
    p (xs.foldl f a) = p a := by
  induction xs generalizing a with
  | nil => rfl
  | cons x xs ih => rw [List.foldl_cons, ih, h]

theorem Dev.still_of_outer {s t : Dev} (h : s.outer = t.outer) : s.still = t.still :=
  congrArg (fun d : Dev => { d with tiles := [], sync := {} }) h

@[simp] theorem Dev.outer_setCtx (s : Dev) (c : Nat) (x : Ctx) : (s.setCtx c x).outer = s.outer := rfl
@[simp] theorem Dev.outer_modCtx (s : Dev) (c : Nat) (f : Ctx → Ctx) : (s.modCtx c f).outer = s.outer := rfl
@[simp] theorem Dev.outer_setRing (s : Dev) (c r : Nat) (g : Ring) : (s.setRing c r g).outer = s.outer := rfl
@[simp] theorem Dev.outer_modLaunch (s : Dev) (c : Nat) (p : U32) (f : Launch → Launch) :
    (s.modLaunch c p f).outer = s.outer := rfl

@[simp] theorem Dev.outer_message (s : Dev) (c v : Nat) : (s.message c v).outer = s.outer := by
  unfold Dev.message; dsimp only; split
  · rfl
  · split
    · rfl
    · split <;> rfl

@[simp] theorem Dev.outer_countRecord (s : Dev) (c r : Nat) (now : Bool) : (s.countRecord c r now).outer = s.outer := by
  unfold Dev.countRecord; dsimp only; split
  · rfl
  · split <;> simp

@[simp] theorem Dev.outer_ringWrite (s : Dev) (c r : Nat) (bs : List Byte) (now : Bool) :
    (s.ringWrite c r bs now).outer = s.outer := by
  unfold Dev.ringWrite; simp; rfl

@[simp] theorem Dev.outer_writeEvent (s : Dev) (c : Nat) (e : Ev) : (s.writeEvent c e).outer = s.outer := by
  unfold Dev.writeEvent; dsimp only; split
  · rfl
  · split <;> simp

@[simp] theorem Dev.outer_flushEvents (s : Dev) (c : Nat) : (s.flushEvents c).outer = s.outer := by
  unfold Dev.flushEvents
  rw [foldl_keeps Dev.outer _ (fun d e => Dev.outer_writeEvent d c e)]; rfl

/-- An event changes contexts and the host interface alone. -/
@[simp] theorem Dev.outer_event (s : Dev) (c ty : Nat) (p q : U64) : (s.event c ty p q).outer = s.outer := by
  unfold Dev.event; split
  · rfl
  · dsimp only; split
    · simp
    · rfl

@[simp] theorem Dev.outer_eventAll (s : Dev) (ty : Nat) (p q : U64) : (s.eventAll ty p q).outer = s.outer :=
  foldl_keeps Dev.outer _ (fun d c => Dev.outer_event d c ty p q) _ _

@[simp] theorem Dev.outer_failLaunch (s : Dev) (c : Nat) (p : U32) (f : Failure) :
    (s.failLaunch c p f).outer = s.outer := by
  unfold Dev.failLaunch; split
  · rfl
  · split <;> simp

@[simp] theorem Dev.outer_finishLaunch (s : Dev) (c : Nat) (p : U32) (st : Status) :
    (s.finishLaunch c p st).outer = s.outer := by
  unfold Dev.finishLaunch; split <;> rfl

@[simp] theorem Dev.outer_postFlags (s : Dev) (c : Nat) (f : Flags) : (s.postFlags c f).outer = s.outer := by
  unfold Dev.postFlags; split <;> rfl

/-! ## Jobs -/

@[simp] theorem Dev.still_setCtx (s : Dev) (c : Nat) (x : Ctx) : (s.setCtx c x).still = s.still := rfl
@[simp] theorem Dev.still_modCtx (s : Dev) (c : Nat) (f : Ctx → Ctx) : (s.modCtx c f).still = s.still := rfl
@[simp] theorem Dev.still_setPtile (s : Dev) (p : Nat) (x : PTile) : (s.setPtile p x).still = s.still := rfl
@[simp] theorem Dev.still_setHitch (s : Dev) (k : Nat) (h : Hitch) : (s.setHitch k h).still = s.still := rfl
@[simp] theorem Dev.still_modLaunch (s : Dev) (c : Nat) (p : U32) (f : Launch → Launch) :
    (s.modLaunch c p f).still = s.still := rfl
@[simp] theorem Dev.still_failLaunch (s : Dev) (c : Nat) (p : U32) (f : Failure) :
    (s.failLaunch c p f).still = s.still := Dev.still_of_outer (Dev.outer_failLaunch s c p f)
@[simp] theorem Dev.still_finishLaunch (s : Dev) (c : Nat) (p : U32) (st : Status) :
    (s.finishLaunch c p st).still = s.still := Dev.still_of_outer (Dev.outer_finishLaunch s c p st)
@[simp] theorem Dev.still_ignoreSignal (s : Dev) (c : Nat) : (s.ignoreSignal c).still = s.still := rfl

@[simp] theorem Dev.still_setTile (s : Dev) (c t : Nat) (x : Tile) : (s.setTile c t x).still = s.still := by
  unfold Dev.setTile; dsimp only; split
  · split <;> rfl
  · split <;> rfl

@[simp] theorem Dev.still_modTile (s : Dev) (c t : Nat) (f : Tile → Tile) : (s.modTile c t f).still = s.still :=
  Dev.still_setTile _ _ _ _

@[simp] theorem Dev.still_grant (key : Nat) (s : Dev) (w : Waiter) : (Dev.grant key s w).still = s.still := by
  unfold Dev.grant; split
  · simp
  · simp
  · rfl

@[simp] theorem Dev.still_serve (s : Dev) (key : Nat) : (s.serve key).still = s.still := by
  unfold Dev.serve; dsimp only; split
  · rfl
  · rw [foldl_keeps Dev.still _ (fun d w => Dev.still_grant key d w)]; rfl

@[simp] theorem Dev.still_awaken (s : Dev) (p : Sleeper → Bool) : (s.awaken p).still = s.still := by
  unfold Dev.awaken; dsimp only
  rw [foldl_keeps Dev.still _ (fun d k => Dev.still_serve d k)]; rfl

@[simp] theorem Dev.still_unsleep (s : Dev) (w : Sleeper) : (s.unsleep w).still = s.still := Dev.still_awaken _ _

@[simp] theorem Dev.still_signal (s : Dev) (c key n : Nat) : (s.signal c key n).still = s.still := by
  unfold Dev.signal; dsimp only; split
  · simp
  · split <;> rfl

@[simp] theorem Dev.still_wait (s : Dev) (key n : Nat) (who : Sleeper) : (s.wait key n who).2.still = s.still := by
  unfold Dev.wait; dsimp only
  split
  · rfl
  · split
    · rfl
    · rfl
    · split <;> rfl
    · split <;> rfl

@[simp] theorem Dev.still_endProgram (s : Dev) (c t : Nat) (p : U32) : (s.endProgram c t p).still = s.still := by
  unfold Dev.endProgram; dsimp only; split
  · simp
  · split <;> simp

@[simp] theorem Dev.still_sweepTile (s : Dev) (c t : Nat) : (s.sweepTile c t).still = s.still := by
  unfold Dev.sweepTile; dsimp only; split
  · simp
  · split <;> simp

@[simp] theorem Dev.still_abandonWord (s : Dev) (c t : Nat) (b : Bool) : (s.abandonWord c t b).1.still = s.still := by
  unfold Dev.abandonWord; split
  · rfl
  · simp

@[simp] theorem Dev.still_stopProgram (s : Dev) (c t : Nat) (b : Bool) : (s.stopProgram c t b).1.still = s.still := by
  unfold Dev.stopProgram; simp

@[simp] theorem Dev.still_noteDiscard (s : Dev) (c : Nat) (p : U32) (f : Failure) :
    (s.noteDiscard c p f).still = s.still := by
  unfold Dev.noteDiscard; split
  · split <;> simp
  · rfl

@[simp] theorem Dev.still_endSlot (s : Dev) (c t seq num : Nat) (st : Status) :
    (s.endSlot c t seq num st).1.still = s.still := by
  unfold Dev.endSlot; split
  · rfl
  · split
    · rfl
    · split
      · rfl
      · dsimp only; split <;> simp

@[simp] theorem Dev.still_endWord (s : Dev) (c t : Nat) (st : Status) : (s.endWord c t st).1.still = s.still := by
  unfold Dev.endWord; dsimp only; split
  · rfl
  · split
    · rfl
    · split <;> simp

@[simp] theorem Dev.still_armHead (s : Dev) (c t num : Nat) : (s.armHead c t num).1.still = s.still := by
  unfold Dev.armHead; split
  · rfl
  · split
    · rfl
    · split
      · dsimp only; split <;> simp
      · rfl

@[simp] theorem Dev.still_discardHitch (s : Dev) (c key : Nat) : (s.discardHitch c key).1.still = s.still := by
  unfold Dev.discardHitch; dsimp only; split <;> rfl

/-- A job changes contexts, tiles, hitches and the host interface alone. -/
@[simp] theorem Dev.still_runJob (s : Dev) (j : Job) : (s.runJob j).1.still = s.still := by
  cases j <;> simp [Dev.runJob]

theorem runJobsFuel_still (n : Nat) (s : Dev) (js : List Job) : (runJobsFuel n s js).still = s.still := by
  induction n generalizing s js with
  | zero => rfl
  | succ n ih =>
    cases js with
    | nil => rfl
    | cons j js => simp [runJobsFuel, ih]

/-- A cascade of jobs changes contexts, tiles, hitches and the host interface alone. -/
@[simp] theorem Dev.still_runJobs (s : Dev) (js : List Job) : (s.runJobs js).still = s.still :=
  runJobsFuel_still _ _ _

/-- A change of a tile leaves every memory, the hitches and the host interface alone. -/
theorem Dev.setTile_outside (s : Dev) (c t : Nat) (v : Tile) :
    (s.setTile c t v).mem = s.mem ∧ (s.setTile c t v).hif = s.hif ∧ (s.setTile c t v).sync = s.sync := by
  unfold Dev.setTile; dsimp only; split
  · split <;> exact ⟨rfl, rfl, rfl⟩
  · split <;> exact ⟨rfl, rfl, rfl⟩

/-- The count of lost beats leaves every memory, the hitches and the host interface alone. -/
theorem Dev.lostBeats_outside (s : Dev) (c t : Nat) (ds : List (Nat × Nat)) :
    (s.lostBeats c t ds).mem = s.mem ∧ (s.lostBeats c t ds).hif = s.hif ∧ (s.lostBeats c t ds).sync = s.sync := by
  unfold Dev.lostBeats; split
  · exact Dev.setTile_outside _ _ _ _
  · exact ⟨rfl, rfl, rfl⟩

end Sys2Proof.Machine
end

