-- ==== Sys2Proof/Laws/Flits.lean ====
section
/-! SUPPORT. Byte order and the CRC of a flit: the number that bytes spell, and a flit that ends in the CRC of its first
252 bytes. -/
namespace Sys2Proof.Machine
open Sys2Proof

theorem leBytes_length (n x : Nat) : (leBytes n x).length = n := by
  induction n generalizing x with
  | zero => rfl
  | succ n ih => simp [leBytes, ih]

/-- Bytes spell the number they were made from, modulo their range. -/
theorem leNat_leBytes (n x : Nat) : leNat (leBytes n x) = x % 256 ^ n := by
  induction n generalizing x with
  | zero => simp [leBytes, leNat, Nat.mod_one]
  | succ n ih =>
    have h : x % (256 * 256 ^ n) = x % 256 + 256 * (x / 256 % 256 ^ n) := Nat.mod_mul
    rw [Nat.pow_succ', h, leBytes, leNat, ih, BitVec.toNat_ofNat]

/-- 252 bytes followed by their CRC pass the CRC check. -/
theorem flitCrcOk_append (b : List Byte) (h : b.length = 252) : flitCrcOk (b ++ leBytes 4 (crc32c b).toNat) = true := by
  have hlt : (crc32c b).toNat < 256 ^ 4 := by simpa using (crc32c b).isLt
  have hdrop : (b ++ leBytes 4 (crc32c b).toNat).drop 252 = leBytes 4 (crc32c b).toNat := List.drop_left' h
  have htake : (leBytes 4 (crc32c b).toNat).take 4 = leBytes 4 (crc32c b).toNat :=
    List.take_of_length_le (by simp [leBytes_length])
  rw [flitCrcOk, leAt, hdrop, htake, leNat_leBytes, Nat.mod_eq_of_lt hlt, List.take_left' h]
  exact decide_eq_true rfl

end Sys2Proof.Machine
end

