-- ==== Sys2Proof/Laws/Ready.lean ====
section
/-! SUPPORT. What the gates in front of an engine's work do when nothing holds it back: an access to the pool (R217, R219,
R229) is performed, a read of sound stores finds nothing (R226), and a wait that is met takes its credits (R199). -/
namespace Sys2Proof.Machine
open Sys2Proof

theorem Dev.meetLines_of_free (s : Dev) (reads : List Nat)
    (h : s.mem.latent.filter (fun e => reads.contains e.1) = []) : s.meetLines reads = s := by
  unfold Dev.meetLines
  split
  · rfl
  · rw [h]; rfl

/-- An access that nothing holds back is performed. -/
theorem Dev.withPool_of_free (s : Dev) (lines reads : List Nat) (act : Dev → Dev) (h : s.linesFree lines reads) :
    s.withPool lines reads act = act s := by
  obtain ⟨h1, h2, h3⟩ := h
  simp [Dev.withPool, h1, s.meetLines_of_free reads h2, h3]

/-- Engine work that nothing holds back is performed. -/
theorem Dev.withRanges_of_free (s : Dev) (touch reads : List (Nat × Nat)) (act : Dev → Dev)
    (h : s.rangesFree touch reads) : s.withRanges touch reads act = act s := by
  obtain ⟨h1, h2, h3⟩ := h
  simp only [Dev.withRanges, h1, h2, List.isEmpty_nil, List.foldl_nil]
  split <;> simp_all

/-- A read of sound stores finds nothing. -/
theorem Dev.meetStores_of_clean (s : Dev) (c : Nat) (ts : List Nat) (h : s.storesClean c ts) :
    s.meetStores c ts = (s, false) := by
  unfold Dev.meetStores
  induction ts with
  | nil => rfl
  | cons t ts ih =>
    have ht : (s.health c t).storeErr = none := h t List.mem_cons_self
    simp only [List.foldl_cons, ht]
    exact ih (fun u hu => h u (List.mem_cons_of_mem _ hu))

/-- An engine's wait that is met takes its credits at once. -/
theorem Dev.takeCredits_of_met (s : Dev) (c id vid : Nat) (e : HEntry) (h : s.creditsAt c id vid e) :
    s.takeCredits c id vid = (.taken, s.paid e) := by
  obtain ⟨h1, h2, h3, h4, h5, h6, h7⟩ := h
  simp only [Dev.takeCredits, h1, h7, h3, h4, Dev.wait, h6, h2, Dev.paid]
  simp [h5]

end Sys2Proof.Machine
end

