-- ==== Sys2Proof/Laws/Signatures.lean ====
section
/-! SUPPORT. Points of the curve that stand for its neutral element, and a key under which one signature verifies over
every message: what shows that the hypotheses about signed images can be met. -/
namespace Sys2Proof.Machine
open Sys2Proof

/-- A point that stands for the neutral element. -/
def EdPoint.Flat (p : EdPoint) : Prop := p.x = 0 ∧ p.t = 0 ∧ p.y = p.z

theorem EdPoint.zero_flat : EdPoint.zero.Flat := ⟨rfl, rfl, rfl⟩

theorem edSub_zero (x : Nat) : edSub x 0 = x % edP := by simp [edSub]

theorem edSub_self (x : Nat) : edSub x x = 0 := by simp [edSub]

theorem EdPoint.add_flat (d : Nat) (p q : EdPoint) (hp : p.Flat) (hq : q.Flat) : (EdPoint.add d p q).Flat := by
  obtain ⟨px, py, pz, pt⟩ := p
  obtain ⟨qx, qy, qz, qt⟩ := q
  obtain ⟨h1, h2, h3⟩ := hp
  obtain ⟨h4, h5, h6⟩ := hq
  simp only at h1 h2 h3 h4 h5 h6
  subst h1 h2 h3 h4 h5 h6
  have hd : (py * qy % edP + py * qy % edP) % edP = 2 * py * qy % edP := by
    rw [← Nat.add_mod]; rw [Nat.mul_assoc, Nat.two_mul]
  simp only [EdPoint.Flat, EdPoint.add, edSub_zero, Nat.add_zero, ← Nat.mul_mod, edSub_self, Nat.mul_zero, Nat.zero_mul,
    Nat.zero_mod, Nat.mod_mod, hd, and_self]

theorem EdPoint.mul_flat (d n k : Nat) (p : EdPoint) (hp : p.Flat) : (EdPoint.mul d n k p).Flat := by
  induction n generalizing k p with
  | zero => exact EdPoint.zero_flat
  | succ n ih =>
    rw [EdPoint.mul]
    split
    · exact EdPoint.add_flat _ _ _ hp (ih _ _ (EdPoint.add_flat _ _ _ hp hp))
    · exact ih _ _ (EdPoint.add_flat _ _ _ hp hp)

theorem EdPoint.mul_zero_flat (d n : Nat) (p : EdPoint) : (EdPoint.mul d n 0 p).Flat := by
  induction n generalizing p with
  | zero => exact EdPoint.zero_flat
  | succ n ih => simpa [EdPoint.mul] using ih _

theorem EdPoint.same_flat (p q : EdPoint) (hp : p.Flat) (hq : q.Flat) : EdPoint.same p q = true := by
  obtain ⟨h1, -, h3⟩ := hp
  obtain ⟨h4, -, h6⟩ := hq
  simp [EdPoint.same, h1, h3, h4, h6, Nat.mul_comm]

/-- The bytes of the neutral element followed by S = 0. -/
def flatSig : List Byte := 1 :: zeros 63

/-- Under the key that names the neutral element that signature verifies over every message. -/
theorem edVerify_flat (msg : List Byte) : edVerify 1 msg flatSig = true := by
  have ha : edDecode edD (leBytes 32 (1 : BitVec 256).toNat) = some ⟨0, 1, 1, 0⟩ := by decide +kernel
  have hr : edDecode edD (flatSig.take 32) = some ⟨0, 1, 1, 0⟩ := by decide +kernel
  have hs : leNat ((flatSig.drop 32).take 32) = 0 := by decide +kernel
  have hl : flatSig.length = 64 := by decide +kernel
  have hf : (⟨0, 1, 1, 0⟩ : EdPoint).Flat := ⟨rfl, rfl, rfl⟩
  unfold edVerify
  simp only [ha, hr, hs, hl, decide_true, Bool.true_and]
  rw [EdPoint.same_flat _ _ (EdPoint.mul_flat _ _ _ _ (EdPoint.mul_zero_flat _ _ _))
    (EdPoint.mul_flat _ _ _ _ (EdPoint.add_flat _ _ _ hf (EdPoint.mul_flat _ _ _ _ hf))), Bool.and_true]
  decide +kernel

theorem signedBy_flat (bytes : List Byte) : signedBy 1 bytes flatSig = true := edVerify_flat _

end Sys2Proof.Machine
end

