-- ==== Sys2Proof/Tests/Slice0.lean ====
section
/-! SUPPORT. Checks of the well-formedness predicate, for every statement with hypotheses states and operands that meet
them, and a few results worked out by hand from the rules that the comments name. -/
namespace Sys2Proof.Tests
open Sys2Proof Sys2Proof.Machine
set_option Elab.async false

/-! ## Small states -/

/-- A ring of 64 records that is enabled, at a page of host memory. -/
def ring (page : Nat) (dev host : Nat) : Ring :=
  { en := true, sizeLog2 := 6, base := BitVec.ofNat 40 page, dev := BitVec.ofNat 32 dev, host := BitVec.ofNat 32 host }

/-- A context with two tiles, 2 GiB of the pool, and its rings. -/
def ctx : Ctx :=
  { ntile := 2, backs := [(0, 0), (1, 1)], allotEn := true, allotSize := 8, msixMask := 0
    rings := [(0, ring 1 0 2), (1, ring 2 1 0), (2, ring 3 1 0), (3, ring 4 1 0)]
    hmap := [(0, { own := true }), (1, { own := true, phys := 1 }), (2, { own := true, barrier := true, phys := 2 })] }

/-- A released device with one context. -/
def dev : Dev :=
  { ctxs := [(0, ctx)], up := { tiles := true, fab := true, hbm := true, cxl := true }
    hif := { up := true, width := 8, rate := 6, io := true, cache := true, mem := true }
    mem := { nch := 256, ready := true }
    sync := { hitches := [(0, { st := .active, count := 4 }), (1, { st := .active }),
      (2, { st := .active, barrier := true, parts := 1 })] } }

/-- The state with that device, its release complete and its firmware running. -/
def st (d : Dev) : State := { dev := d, rst := { boot := 8, nextStep := 9, why := none, fwRunning := true, fwOk := true } }

/-- The device with another context 0. -/
def with0 (x : Ctx) : Dev := { dev with ctxs := [(0, x)] }

/-! ## Well-formedness -/

theorem test_short_data_flit_refused : (Instr.dataFlit 0 [0] (.decoded 0)).wf = false := by decide
theorem test_short_idle_flit_refused : (Instr.idleFlit 0 [0] (.decoded 0)).wf = false := by decide
theorem test_short_nak_flit_refused : (Instr.nakFlit 0 [0] (.decoded 0)).wf = false := by decide
theorem test_short_time_flit_refused : (Instr.timeFlit 0 [0] (.decoded 0)).wf = false := by decide
theorem test_write_over_two_lines_refused : (Instr.hostWindowWrite 63 [1, 2]).wf = false := by decide
theorem test_empty_write_refused : (Instr.hostWindowWrite 0 []).wf = false := by decide

/-- The state a command answers. -/
def after (c : Instr) (s : State) : Option State :=
  match exec c s with
  | .next t => some t
  | _ => none

/-! ## States that meet the hypotheses of the statements -/

theorem witness_CommandsLeaveQueue : exec .warm State.reset = .next State.reset := by rfl
theorem witness_EveryCommandCompletes :
    (Instr.hostWindowWrite 0 [1]).wf = true ∧ (∀ a b, Instr.hostWindowWrite 0 [1] = .hostWindowRead a b → a < windowSize) ∧
    (∀ a d, Instr.hostWindowWrite 0 [1] = .hostWindowWrite a d → a < windowSize) :=
  And.intro (by decide) (And.intro (by intro a b h; cases h) (by intro a d h; cases h; decide))
theorem witness_ImpossibleAccessesStop : windowSize ≤ 2 ^ 39 ∧ ([] : List Byte).length ≠ 256 := by decide
theorem witness_StepsKeepBootSafe : Safety.bootSafe (st dev) = true ∧
    step { st dev with pending := [.farrierRepairEnd] } = .next (st dev) := And.intro (by decide) (by rfl)

/-- A state whose running image is newer than the counter. -/
def newer : State := { st dev with rst := { (st dev).rst with runSvn := 2 } }
theorem witness_RollbackCounterOnlyRises :
    newer.dev.secOpen = true ∧ newer.rst.secPend = false ∧ newer.dev.up.recovery = false ∧
    newer.rst.rollback.toNat < newer.rst.runSvn.toNat ∧ (st dev).rst.runSvn.toNat ≤ (st dev).rst.rollback.toNat ∧
    (after .rollfwd newer).map (fun t => t.rst.rollback) = some 2 := by decide

theorem witness_DoorbellsAccepted : dev.barOpen = true ∧ (dev.ring 0 0).en = true ∧ (3 : U32) ≠ (dev.ring 0 0).host ∧
    ((3 : U32) - (dev.ring 0 0).host).toNat < 2 ^ 31 ∧ ((3 : U32) - (dev.ring 0 0).dev).toNat ≤ (dev.ring 0 0).size ∧
    (∀ r ∈ [1, 2, 3], (dev.ring 0 r).en = true ∧ (dev.ring 0 r).headOk 1 = true) := by decide
theorem witness_DoorbellsIgnored : (2 : U32) ≠ 1 ∧ 2 ^ 31 ≤ ((1 : U32) - (dev.ring 0 0).host).toNat ∧
    (dev.ring 0 0).size < ((65 : U32) - (dev.ring 0 0).dev).toNat ∧ (dev.ring 0 1).headOk 2 = false ∧
    (dev.ring 1 0).en = false := by decide

/-- A context whose completion record waits, with an interrupt due and a pending vector. -/
def ended : Ctx :=
  { ctx with
    cpls := [⟨0, 7, 0, .done, 0, none, none, none⟩], msixPend := 2
    launches := [{ pos := 0, record := parseLaunch [], phase := .ready }]
    rings := [(0, ring 1 1 2), (1, { ring 2 1 0 with ien := true, itimer := 1, k := 1 })] }
def endedDev : Dev := { with0 ended with hif := { dev.hif with msixEn := true } }
theorem witness_RecordsAndInterruptsAreSent : (endedDev.ctx 0).cpls = [⟨0, 7, 0, .done, 0, none, none, none⟩] ∧
    (endedDev.ring 0 1).en = true ∧ (endedDev.ring 0 1).room = true ∧ endedDev.hif.hostUp = true ∧
    endedDev.hif.hostMem.wf = true ∧ (endedDev.ring 0 1).ien = true ∧ (endedDev.ring 0 1).itimer ≠ 0 ∧
    0 < (endedDev.ring 0 1).k ∧ endedDev.hif.up = true ∧ endedDev.hif.msixEn = true ∧ endedDev.hif.msixFnMask = false ∧
    bit ended.msixMask.toNat (endedDev.ring 0 1).vec.toNat = false ∧ bit ended.msixPend.toNat 1 = true ∧
    endedDev.barOpen = true ∧ ({ ended with msixMask := 1 } : Ctx).msixMask = 1 ∧ (endedDev.ring 0 0).k = 0 := by decide

/-! ### Launch records -/

/-- A launch record of a type, for the tiles of a mask, from a pool address, with a length. -/
def launch (type flags tiles src len : Nat) : List Byte :=
  leBytes 4 (at' flags 8 + type) ++ leBytes 4 0 ++ leBytes 16 tiles ++ leBytes 8 src ++ leBytes 8 len ++ zeros 24
/-- The device with a record at the head of its ring, and its first tile's page 0 in a state. -/
def withRecord (r : List Byte) (p : Page) : Dev :=
  { dev with
    hif := { dev.hif with hostMem := Mem.writeN [] 4096 r }
    tiles := [(0, { tile := { pages := [(0, p)] } })] }
/-- A launch that runs on tile 0. -/
def running : Launch := { pos := 9, record := parseLaunch (launch 2 0 1 0 0), phase := .running, left := [0] }
theorem witness_Load : (withRecord (launch 1 0 1 0 4) {}).canRead 0 = true ∧
    (withRecord (launch 1 0 1 0 4) {}).recordFail 0 ((withRecord (launch 1 0 1 0 4) {}).peek 0) = none ∧
    ((withRecord (launch 1 0 1 0 4) {}).peek 0).type = 1 ∧ ((withRecord (launch 1 0 1 0 4) {}).peek 0).tiles = [0] ∧
    ((withRecord (launch 1 0 1 0 4) {}).tile 0 0).pageInUse 0 = false ∧
    ((withRecord (launch 1 0 1 0 4) {}).peek 0).pages = [0] := by decide
theorem witness_LoadChain : (withRecord (launch 3 2 1 0 4) {}).canRead 0 = true ∧
    (withRecord (launch 3 2 1 0 4) {}).recordFail 0 ((withRecord (launch 3 2 1 0 4) {}).peek 0) = none ∧
    ((withRecord (launch 3 2 1 0 4) {}).peek 0).type = 3 ∧ ((withRecord (launch 3 2 1 0 4) {}).peek 0).force = true ∧
    ((withRecord (launch 3 2 1 0 4) {}).peek 0).tiles = [0] := by decide
/-- A page that holds a block at its first byte. -/
def good : Page := { st := .loaded, starts := [0] }
theorem witness_Start : (withRecord (launch 2 0 1 0 0) good).canRead 0 = true ∧
    (withRecord (launch 2 0 1 0 0) good).recordFail 0 ((withRecord (launch 2 0 1 0 0) good).peek 0) = none ∧
    ((withRecord (launch 2 0 1 0 0) good).takeRecord 0).2.startFail 0 ((withRecord (launch 2 0 1 0 0) good).peek 0) = none ∧
    (((withRecord (launch 2 0 1 0 0) good).takeRecord 0).2.tile 0 0).startq.length < 4 ∧
    (((withRecord (launch 2 0 1 0 0) good).takeRecord 0).2.tile 0 0).page 0 ≠ { st := .loading } ∧
    (((withRecord (launch 2 0 1 0 0) good).takeRecord 0).2.tile 0 0).page 0 = good := by decide
/-- The device with a record behind a launch that runs. -/
def behind (r : List Byte) : Dev :=
  { withRecord r good with ctxs := [(0, { ctx with rings := [(0, ring 1 10 12)], retired := 9, launches := [running] })]
                           hif := { dev.hif with hostMem := Mem.writeN [] 4736 r } }
theorem witness_Abort : (behind (launch 4 0 0 0 0)).canRead 0 = true ∧
    (behind (launch 4 0 0 0 0)).recordFail 0 ((behind (launch 4 0 0 0 0)).peek 0) = none ∧
    ((behind (launch 4 0 0 0 0)).peek 0).type = 4 ∧ ((behind (launch 4 0 0 0 0)).takeRecord 0).2.abortTargets 0
      ((behind (launch 4 0 0 0 0)).takeRecord 0).1 = [9] := by decide
theorem witness_Fence : (behind (launch 5 0 0 0 0)).canRead 0 = true ∧
    (behind (launch 5 0 0 0 0)).recordFail 0 ((behind (launch 5 0 0 0 0)).peek 0) = none ∧
    ((behind (launch 5 0 0 0 0)).peek 0).type = 5 ∧
    (∃ k ∈ ((behind (launch 5 0 0 0 0)).ctx 0).launches, (k.pos - BitVec.ofNat 32 9).toNat < ((10 : U32) - 9).toNat) := by
  decide
theorem witness_RecordsAreReadOnce : (behind (launch 5 128 0 0 0)).canRead 0 = true ∧
    ((behind (launch 5 128 0 0 0)).recordFail 0 ((behind (launch 5 128 0 0 0)).peek 0)).map (·.status) = some .invalidWord ∧
    (∀ l ∈ ((behind (launch 5 128 0 0 0)).ctx 0).launches, l.pos ≠ ((behind (launch 5 128 0 0 0)).ring 0 0).dev) ∧
    ((behind (launch 5 128 0 0 0)).peek 0).type.toNat = 5 := by decide
/-- The LAST word of a block, with no slots. -/
def lastWord : List Byte := leBytes 4 0x4001 ++ zeros 12
/-- A launch record that loads that block from the pool, as a launch on its way. -/
def loadOne : LaunchRec := parseLaunch (launch 1 0 1 0 1)
def loadingDev : Dev :=
  { withRecord [] { st := .loading } with
    ctxs := [(0, { ctx with launches := [{ pos := 0, record := loadOne, phase := .loading }] })]
    mem := { dev.mem with pool := Mem.writeN [] 0 lastWord } }
theorem witness_LoadsAndStartsGoOn_load : (loadingDev.launch? 0 0).map (·.phase) = some .loading ∧
    (loadingDev.ctx 0).resid = .resident ∧ (loadingDev.tile 0 0).closingBusy 0 = false ∧
    loadOne.srcAddr = some ⟨.hbm, 0⟩ ∧ loadingDev.linesFree (linesOf 0 16) (linesOf 0 16) ∧
    (loadOne.check (loadingDev.readBytes 0 ⟨.hbm, 0⟩ 16)).toOption = some [0] := by unfold Dev.linesFree; decide
/-- A start that waits in a start queue. -/
def waiting : StartReq := ⟨5, 0, 0, [(0, 0)], 0, 11, 12⟩
/-- The device with a tile state behind logical tile 0. -/
def withTile (x : Tile) : Dev := { dev with tiles := [(0, { tile := x })] }
theorem witness_LoadsAndStartsGoOn_start : ((withTile { startq := [waiting] }).tile 0 0).startq = [waiting] ∧
    (withTile { startq := [waiting] }).freeToStart 0 0 = true ∧
    (after (.startQueueBegin 0 0) (st (withTile { startq := [waiting] }))).map (fun s => (s.dev.tile 0 0).reg 1) = some 12 := by
  decide
theorem witness_LoadsAdvanceGenerations : (dev.tile? 0 0).isSome = true ∧ 0 ∈ loadOne.pages ∧
    ((loadingDev.tile 0 0).page 0).st = .loading := by decide

/-! ### Words and slots -/

/-- A program at the first word of a tile's descriptor store. -/
def prog : Prog := { pos := 9, step := 0, off := 0, gens := [(0, 0)] }
/-- A tile at the LAST word of its block, with issued words. -/
def atWord (ws : List IWord) : Tile :=
  { dstore := Mem.writeN [] 0 lastWord, pages := [(0, good)], prog := some prog, words := ws, nextSeq := 5 }
def running0 (x : Tile) : Dev := { withTile x with ctxs := [(0, { ctx with launches := [running] })] }
theorem witness_WordsGoOn_issue : ((running0 (atWord [])).tile 0 0).prog = some prog ∧ prog.stopped = false ∧
    (running0 (atWord [])).barrierStall 0 0 (atWord []) = false ∧ ((atWord []).page 0).st = .loaded ∧
    (atWord []).fetchStale prog = false ∧ ((running0 (atWord [])).launch? 0 9).map (·.abort) = some false ∧
    ((atWord []).fetch 0).lstart = false ∧
    ((running0 (atWord [])).askWaits 0 0 ((atWord []).fetch 0)).1.isNone = true ∧
    ((((running0 (atWord [])).askWaits 0 0 ((atWord []).fetch 0)).2.tile 0 0).prog).isSome = true ∧
    (running0 (atWord [])).linesFree ((running0 (atWord [])).wordLines 0 0 ((atWord []).fetch 0)) [] := by
  unfold Dev.linesFree; decide
/-- An issued word with slots and a hitch slot. -/
def word (ys : List ISlot) (h : Option HSlot) : IWord := { seq := 4, pos := 9, step := 0, tag := 1, slots := ys, hitch := h }
def sig0 : HSlot := { barrier := false, group := none, sig1 := some ⟨0, 0, 1⟩, sig2 := none }
def bar2 : HSlot := { barrier := true, group := some ⟨2, 2, 1⟩, sig1 := none, sig2 := none }
theorem witness_WordsGoOn_signal : ((running0 (atWord [word [] (some sig0)])).tile 0 0).word? 4 = some (word [] (some sig0)) ∧
    sig0.barrier = false ∧ sig0.fin = false ∧ (word [] (some sig0)).slotsDone = true ∧
    (after (.waitSignal 0 0 4) (st (running0 (atWord [word [] (some sig0)])))).map (fun s => (s.dev.hitch 0).count) = some 5 := by
  decide
theorem witness_WordsGoOn_barrier : ((running0 (atWord [word [] (some bar2)])).tile 0 0).word? 4 = some (word [] (some bar2)) ∧
    bar2.barrier = true ∧ bar2.fin = false ∧ bar2.entered = false ∧ (word [] (some bar2)).slotsDone = true ∧
    (running0 (atWord [word [] (some { bar2 with entered := true })]) |>.enterBarrier 0 0 4 2).1 = true ∧
    (after (.barrier 0 0 4) (st (running0 (atWord [word [] (some bar2)])))).map (fun s => (s.dev.hitch 2).gen) = some 1 := by
  decide

/-- A tensor of 32 elements of one byte, or as many as its extents say, at an address. -/
def tensor (sp : Space) (off fmt : Nat) (ext : List Nat) : Desc :=
  { base := ⟨sp, off⟩, tid := 0, fmt := fmt, view := false, ovlp := false, izero := false, swz := 0, dist := false,
    blkLog2 := 0, idxWrap := false, fill := 0, ext := ext, str := [0, 64], soff := 0, sstr := [0, 0] }
def slot (num : Nat) (op : SlotOp) (st : SlotState) : ISlot := { num := num, op := op, wait := none, sig := none, st := st }
/-- A device whose tile 0 has one slot at the head of a queue. -/
def withSlot (num : Nat) (op : SlotOp) : Dev := running0 (atWord [word [slot num op .queued] none])
theorem witness_WordsGoOn_complete :
    ((running0 (atWord [word [slot 6 (.fn false (.lib 0) (tensor .hbm 0 4 [1]) (tensor .hbm 0 4 [1])) .performed] none])).tile
      0 0).slot? 4 6 = some (slot 6 (.fn false (.lib 0) (tensor .hbm 0 4 [1]) (tensor .hbm 0 4 [1])) .performed) ∧
    ((running0 (atWord [word [slot 6 (.fn false (.lib 0) (tensor .hbm 0 4 [1]) (tensor .hbm 0 4 [1])) .performed] none])).tile
      0 0).mustWait 4 (slot 6 (.fn false (.lib 0) (tensor .hbm 0 4 [1]) (tensor .hbm 0 4 [1])) .performed) = false := by decide
theorem witness_ControlCoreFrame : ∃ t, exec .poison (st dev) = .next t ∧ t.dev.still = dev.still :=
  Exists.intro _ (And.intro rfl rfl)

/-! ### Engines -/

/-- 32 elements in the pool, and 32 in the tile. -/
def a32 : Desc := tensor .hbm 0 5 [32]
def b32 : Desc := tensor (.tile 0) 4096 5 [32]
def i32 : Desc := tensor (.tile 0) 8192 7 [32]
theorem witness_MovesArePerformed : (∀ k ∈ [1, 2],
      (withSlot 1 (.move false k none a32 b32 none)).headReady 0 0 1 (isMove false k)
        = some (word [slot 1 (.move false k none a32 b32 none) .queued] none, slot 1 (.move false k none a32 b32 none) .queued)) ∧
    (∀ k ∈ [1, 6], (withSlot 5 (.move true k none b32 a32 none)).headReady 0 0 5 (isMove true k)
        = some (word [slot 5 (.move true k none b32 a32 none) .queued] none, slot 5 (.move true k none b32 a32 none) .queued)) ∧
    (withSlot 1 (.move false 3 none a32 b32 (some i32))).headReady 0 0 1 (isMove false 3)
        = some (word [slot 1 (.move false 3 none a32 b32 (some i32)) .queued] none,
            slot 1 (.move false 3 none a32 b32 (some i32)) .queued) ∧
    (∀ k ∈ [4, 5], (withSlot 5 (.move true k none b32 a32 (some i32))).headReady 0 0 5 (isMove true k)
        = some (word [slot 5 (.move true k none b32 a32 (some i32)) .queued] none,
            slot 5 (.move true k none b32 a32 (some i32)) .queued)) ∧
    ([a32, b32, i32].any Desc.inHost = false) ∧ dev.linesFree (dev.descLines 0 a32) (dev.descLines 0 a32) ∧
    dev.storesClean 0 [0] := by unfold Dev.linesFree Dev.storesClean; decide
theorem witness_ComputingSlotsArePerformed :
    ((withSlot 2 (.mma 5 5 0 false false false a32 (some a32) 1 1 1 0 0)).headReady 0 0 2 isMma).isSome = true ∧
    ((withSlot 2 (.mma 5 5 0 false false false a32 (some a32) 1 1 1 0 0)).health 0 0).fencedPart 0 = false ∧
    ((withSlot 2 (.mma 5 5 0 false false false a32 (some a32) 1 1 1 0 0)).tile 0 0).bankBusy 0 0 1 = false ∧
    dev.storesClean 0 [0] ∧
    (∀ inl ∈ [true, false], ((withSlot 3 (.vec inl [] 5 5 false false 0 (.desc a32) b32 .f none)).headReady 0 0 3
      (isVec inl)).isSome = true) ∧
    ((withSlot 4 (.fn false (.lib 0) a32 b32)).headReady 0 0 4 isFn).isSome = true ∧
    (dev.tile? 0 0).isSome = true ∧ 16 * 0 + 1 * 1 ≤ 16384 := by unfold Dev.storesClean; decide
theorem witness_RemoteSlotsStart : ∀ k ∈ [1, 2, 3, 4, 5, 6, 7],
    ((withSlot 6 (.rem k 0x10000 0 0 false 0 (if k ≤ 3 then some b32 else none) 0 0 0)).headReady 0 0 6 (isRem k)).isSome = true ∧
    (withSlot 6 (.rem k 0x10000 0 0 false 0 none 0 0 0)).getsInto 0 0 (some b32) = false ∧
    (withSlot 6 (.rem k 0x10000 0 0 false 0 none 0 0 0)).linesFree
      ((withSlot 6 (.rem k 0x10000 0 0 false 0 none 0 0 0)).remLines 0 (some b32)) [] ∧
    (withSlot 6 (.rem k 0x10000 0 0 false 0 none 0 0 0)).storesClean 0 [0] := by
  unfold Dev.linesFree Dev.storesClean; decide

/-! ### Hitches -/

theorem witness_CreditsAreConserved : (dev.hitch 0).st = .active ∧ (dev.hitch 0).barrier = false ∧
    (dev.wait 0 3 (.word 0 0 false)).1 = .taken := by decide
/-- The device with a virtual hitch of context 0 selected. -/
def selected (v : U16) : Dev := { dev with sync := { dev.sync with selVid := v } }
theorem witness_HitchRegisterOperations : (dev.barOpen = true ∧ dev.sync.pend = false) ∧
    (dev.mapEntry 0 0).isSome = true ∧ (dev.hitch 0).waiters = [] ∧ (dev.hitch 0).entries = [] ∧
    ((dev.mapEntry 0 0).map (·.barrier)) = some false ∧ (dev.hitch 0).count.toNat + (3 : U32).toNat < 2 ^ 32 ∧
    ((selected 2).mapEntry 0 2).map HEntry.key = some 2 ∧ ((selected 2).hitch 2).st ≠ .poisoned ∧
    ((selected 2).hitch 2).barrier = true ∧
    dev.mapStatus 0 5 0 = .done ∧ dev.mapStatus 0 5 32768 ≠ .done := by decide
/-! ### Memory -/

theorem witness_AllotmentsAndRanges : dev.mem.pend = false ∧ dev.allotStatus 1 0x800000011 = .done ∧
    dev.stgStatus 1 0 0x100000001 = .done ∧ dev.allotStatus 1 0x800000001 = .overlap ∧
    ({ dev with ctxs := [(1, { ctx with stg := [(0, { size := 1, en := true })] })] } : Dev).stgStatus 2 0 0x100000001
      = .overlap := by decide
/-- The device with its decoder committed. -/
def opened : Dev := { dev with hif := { dev.hif with hdmCommitted := true, hdmSize := 2 ^ 39 } }
theorem witness_WindowAndSnoops : (0 < windowSize ∧ opened.windowHolds 0 = true ∧ opened.memReady = true ∧ 0 < opened.mem.capacity) ∧
    (0 % 64 + [(1 : Byte)].length ≤ 64 ∧ opened.mem.pool.wf = true) ∧
    (({ opened with mem := { opened.mem with nch := 255 } } : Dev).mem.capacity ≤ 2 ^ 39 - 64) ∧
    (3 ∈ ({ dev.mem with biWait := [3] } : MemBlk).biWait ∧ dev.sfu.state ≠ 1) ∧
    (dev.hif.cache = true ∧ dev.up.recovery = false ∧ windowSize < 2 ^ 40) := by decide
/-- A channel with a row that has failed. -/
def badRow : Dev := { dev with mem := { dev.mem with chans := [(5, { rowUnc := [(1, 2)] })] } }
theorem witness_ErrorsAndInitialisationOfHbm : (dev.mem.scrubEn = true ∧ dev.memReady = true ∧ 64 * 7 < dev.mem.capacity) ∧
    ((badRow.mem.chan 5).retired = false ∧ badRow.memReady = true ∧ badRow.rowFails (badRow.mem.chan 5) 1 2 = true) ∧
    ((dev.mem.chan 5).retired = false ∧ dev.mem.nch ≠ 0 ∧ (dev.mem.chan 5).mustRetire = false ∧
      ({ spent := [1], rowUnc := [(1, 2)] } : Chan).mustRetire = true ∧ Tab.find dev.mem.latent 7 = none) ∧
    (({ dev with mem := {} } : Dev).up.hbm = true ∧ ({ dev with mem := {} } : Dev).mem.ready = false ∧
      [(3 : Fin 256), 9].Nodup) := by decide +kernel
theorem witness_DeviceFaultDiscards : 0x3F < 256 ∧ 0 < 64 ∧ 1 < (dev.ctx 0).ntile.toNat := by decide

/-! ### Links -/

/-- The first 252 bytes of a flit of a type with a payload of whole units, a DATA flit with sequence number 1. -/
def flitBody (type : Nat) (payload : List Byte) : List Byte :=
  padTo 252 (leBytes 12 (at' (if type = 0 then 1 else 0) 84 + at' type 68 + at' (payload.length / 8) 23) ++ payload)
/-- The flit, with its CRC. -/
def flit (type : Nat) (payload : List Byte) : List Byte :=
  flitBody type payload ++ leBytes 4 (crc32c (flitBody type payload)).toNat
theorem flit_ok (type : Nat) (payload : List Byte) (h : (flitBody type payload).length = 252)
    (f : flitFieldsOk (flit type payload) = true) : flitOk (flit type payload) = true := by
  rw [flitOk, f, flit, flitCrcOk_append _ h]; rfl
/-- The device with a link in a state. -/
def withLink (k : Link) : Dev := { dev with fab := { dev.fab with links := [(0, k)], gangs := [(0, { role := 1, en := true })] } }
/-- CRC-32C of the nine digits: the check value of the Castagnoli polynomial that R236 names. -/
theorem test_crc32c : crc32c [0x31, 0x32, 0x33, 0x34, 0x35, 0x36, 0x37, 0x38, 0x39] = 0xE3069283 := by decide +kernel
/-- An identity record: team 0, coordinate 1 in dimension 0, gang 1, role TORUS, a member. -/
def identPayload : List Byte := leBytes 8 0 ++ leBytes 8 (at' 1 40 + at' 1 21 + at' 1 18 + 1) ++ zeros 16
theorem witness_SoundFlits_data : flitOk (flit 0 []) = true ∧
    ((flit 0 []).length = 256 ∧ ((withLink { st := .active, rxSeq := 1 }).link 0).receives = true ∧
    (withLink { st := .active, rxSeq := 1 }).linkPowered 0 = true ∧
    (parseFlit (flit 0 [])).type = 0 ∧ (parseFlit (flit 0 [])).seq = 1 ∧ (1 : BitVec 12) ≠ 0) :=
  And.intro (flit_ok _ _ (by decide +kernel) (by decide +kernel)) (by decide +kernel)
theorem witness_SoundFlits_idle : flitOk (flit 1 identPayload) = true ∧
    ((flit 1 identPayload).length = 256 ∧ ((withLink { st := .identify }).link 0).receives = true ∧
    (withLink { st := .identify }).linkPowered 0 = true ∧
    (parseFlit (flit 1 identPayload)).type = 1 ∧ (parseFlit (flit 1 identPayload)).plen = 4 ∧
    (parseIdent (flitPayload (flit 1 identPayload) (parseFlit (flit 1 identPayload)))).map (·.coord) = some 1) :=
  And.intro (flit_ok _ _ (by decide +kernel) (by decide +kernel)) (by decide +kernel)
/-- A link with an unacknowledged flit. -/
def sending : Link := { st := .active, txSeq := 2, buffer := [⟨1, 0, zeros 240, []⟩] }
theorem witness_SoundFlits_nak : flitOk (flit 2 []) = true ∧
    ((flit 2 []).length = 256 ∧ ((withLink sending).link 0).receives = true ∧
    (parseFlit (flit 2 [])).type = 2 ∧ (sending.acked (parseFlit (flit 2 [])).ack).buffer ≠ []) :=
  And.intro (flit_ok _ _ (by decide +kernel) (by decide +kernel)) (by decide +kernel)
theorem witness_SoundFlits_time : flitOk (flit 3 (zeros 56)) = true ∧
    ((flit 3 (zeros 56)).length = 256 ∧ (parseFlit (flit 3 (zeros 56))).type = 3 ∧ (parseFlit (flit 3 (zeros 56))).plen = 7 ∧
    timePayloadOk (flitPayload (flit 3 (zeros 56)) (parseFlit (flit 3 (zeros 56)))) = true) :=
  And.intro (flit_ok _ _ (by decide +kernel) (by decide +kernel)) (by decide +kernel)
/-- A flit with a reserved bit set. -/
def spoiled : List Byte := leBytes 12 1 ++ zeros 244
theorem witness_CorruptFlitsAreCounted : spoiled.length = 256 ∧ flitOk spoiled = false := by
  have h : flitFieldsOk spoiled = false := by decide +kernel
  exact And.intro (by decide +kernel) (by rw [flitOk, h, Bool.and_false])
/-- A peer's record that agrees with gang 0, and one that does not. -/
def peer (g : Nat) : Ident := ⟨0, 1, 0, g, 1, 0, 0, 1⟩
/-- The device as a member of a team of 4 by 1 by 1 by 1 with gang 0 in use. -/
def member (k : Link) : Dev :=
  { withLink k with
    fab := { (withLink k).fab with teamValid := true, ext1 := 3 }
    farr := { dev.farr with kind := 2 } }
theorem witness_LinkTraining : (member {}).linkPowered 0 = true ∧ (member {}).mayIdentify 0 = true ∧
    ((member {}).gang 0).role ≠ 3 ∧ (member {}).identOk 0 (peer 1) = true ∧ (member {}).identOk 0 (peer 2) = false ∧
    ((member {}).gang 0).en = true ∧ 0 < ((member {}).link 0).lanes ∧ ((member {}).link 0).st = .down := by decide +kernel
theorem witness_LinksThatFail : (sending.st = .active) ∧ ({ downHold := true } : Link).downHold = true ∧
    (({} : Link).lanes ≠ 0 ∧ ({} : Link).lanes = 4 ∧ ({} : Link).st ≠ .active) ∧
    ({ st := .active, nakPending := true } : Link).nakPending = true ∧
    (((withLink {}).setGang 0 { spareUsed := true }).gang 0).spareUsed = true ∧
    (((withLink {}).setGang 0 { spareUsed := true }).link 0).lanes = 4 := by decide
/-- Window words of Table 10.18: one enabled page of the HBM space that admits everything. -/
def win : Win := { en := true, pput := true, pget := true, pacc := true, patom := true, size := 1 }
theorem witness_GangsAndWindows : ((withLink sending).gangUp 0 = true) ∧
    (((withLink { st := .identify }).setGang 0 { role := 3 }).gangUp 0 = false ∧
      (gangLinks 0).find? (fun l => (((withLink { st := .identify }).setGang 0 { role := 3 }).link l).st == .identify) = some 0) ∧
    ctx.winFits (parseWin 0x4000000001 1) = false ∧
    (dev.fab.pend = false ∧ dev.gangUp 0 = false ∧ ((5 : U64).extractLsb' 2 3).toNat ≤ 3 ∧ (5 : U64).getLsbD 0 = true) ∧
    ((0x1000 : U64).toNat < 2 ^ 39 ∧ (0x1000 : U64).extractLsb' 8 4 = 0 ∧ (0x1000 : U64).getLsbD 1 = false) ∧
    (parseWin 0x1001 1).space ≠ 3 ∧ (parseWin 0x1001 1).en = true ∧ ctx.winFits (parseWin 0x1001 1) = true := by decide

/-! ### Remote operations -/

/-- A request for 8 bytes of window 0 of context 0, by its operation. -/
def request (op : Nat) : Packet :=
  ⟨packetHead 0 1 0 op, 0, BitVec.ofNat 64 8, 1, if op = 1 ∨ op = 3 ∨ op = 6 then zeros 8 else []⟩
/-- The device with a request in its inbox. -/
def asked (p : Packet) : Dev :=
  { with0 { ctx with wins := [(0, win)] } with fab := { dev.fab with inbox := [p] } }
theorem witness_RequestsArePerformedInTheirWindow : ∀ op ∈ [1, 2, 3, 4, 5, 6, 7],
    takeOp op (asked (request op)).fab.inbox = some (request op, []) ∧
    (asked (request op)).target (request op) 8 = some (.hbm, 0) ∧
    (asked (request op)).linesFree [0] [0] ∧ (asked (request op)).mem.pool.wf = true ∧
    (op = 1 ∨ op = 3 → (request op).data.length = 8) ∧ (op = 2 → (request op).len = 8) ∧
    ({ asked (request op) with ctxs := [] } : Dev).target (request op) 8 = none := by unfold Dev.linesFree; decide
/-- An operation with one packet sent and not acknowledged, and the response to it. -/
def pending (op : Nat) : ROp :=
  { id := 3, owner := .slot 0 0 4 6, why := .slot, c := 0, kind := op, dst := 1, win := 0, off := 0, len := 8,
    pkts := [{ txid := 7, pkt := request op, sent := true }] }
def response (op : Nat) : Packet := ⟨packetHead 0 1 0 op, BitVec.ofNat 64 (at' 7 48 + 8), 0, 0, zeros 8⟩
def answered (kind op : Nat) : Dev :=
  { dev with fab := { dev.fab with ops := [pending kind], inbox := [response op] } }
theorem witness_ResponsesAnswerOperations : ∀ e ∈ [(1, 0x81), (4, 0x84)],
    takeOp e.2 (answered e.1 e.2).fab.inbox = some (response e.2, []) ∧
    ((answered e.1 e.2).fab.answers (response e.2)).map (fun o => (o.1.id, o.2)) = some (3, 0) ∧
    statusOf (response e.2).status = .done ∧ (answered e.1 e.2).mem.cached [] = [] ∧
    (if e.1 = 1 then [] else (response e.2).data).length = (pending e.1).answerLen 0 ∧
    ((pending e.1).pkts.any (fun q => q.sent && !q.acked)) = true := by decide
theorem witness_ResponsesAnswerOperations_get :
    takeOp 0x82 ({ (answered 2 0x82) with fab := { (answered 2 0x82).fab with ops := [{ pending 2 with loc := some b32 }] } } : Dev).fab.inbox
      = some (response 0x82, []) ∧
    (({ (answered 2 0x82) with fab := { (answered 2 0x82).fab with ops := [{ pending 2 with loc := some b32 }] } } : Dev).fab.answers
      (response 0x82)).isSome = true ∧ (response 0x82).data ≠ [] ∧
    (response 0x82).data.length = ({ pending 2 with loc := some b32 } : ROp).answerLen 0 := by decide
/-! ### The gradient exchange -/

/-- Descriptor words of a tensor of 1,024 FP32 elements at a pool address, with the bits of its word 1. -/
def descBytes (a w1 : Nat) : List Byte := leBytes 8 a ++ leBytes 8 (at' 9 28 + w1 + 1) ++ leBytes 8 1023 ++ zeros 40
/-- The words of a bucket of one chunk of 1,024 elements: descriptors 1 and 2, hitches 0 and 3 to 7. -/
def bucketBytes : List Byte :=
  leBytes 8 (at' 5 48 + at' 10 31 + 1) ++ leBytes 8 (at' 1 52 + at' 2 40 + at' 4 12) ++ leBytes 8 3 ++
  leBytes 8 (at' 3 48 + at' 3 32) ++ leBytes 8 (at' 1 48 + 0x300000) ++ zeros 24
/-- A context with that descriptor and bucket table, a window, and hitches of one credit. -/
def exCtx : Ctx :=
  { ctx with
    dtabBase := 1, dtabEn := true, btabBase := 0x50, btabEn := true
    wins := [(0, { win with base := 0x1000, size := 1024 })]
    hmap := (List.range 8).map (fun i => (i, ({ own := true, phys := BitVec.ofNat 14 i } : HEntry))) }
def exDev : Dev :=
  { with0 exCtx with
    mem := { dev.mem with pool := Mem.writeN (Mem.writeN (Mem.writeN [] 0x1040 (descBytes 0x100000 0)) 0x1080
      (descBytes 0x200000 (at' 1 18 + at' 12 13))) 0x50000 bucketBytes }
    sync := { hitches := (List.range 8).map (fun i => (i, ({ st := .active, count := 2 } : Hitch))) } }
theorem witness_BucketOperations_enable : dev.grxPend = false ∧ exDev.rangesFree [(0x50000, 64)] [(0x50000, 64)] ∧
    ((exDev.selectBucket 0 0 false).enableCheck 0 0).1 = .done ∧
    ((exDev.selectBucket 0 0 false).enableCheck 0 0).2.isSome = true := by unfold Dev.rangesFree; decide +kernel
/-- The descriptor of that bucket, and of one on the ring. -/
def bkt : BktDesc :=
  parseBucket (descWords bucketBytes) { tensor .hbm 0x100000 9 [1024] with str := [0], sstr := [0] }
    { tensor .hbm 0x200000 9 [1024] with str := [0], sstr := [0], dist := true, blkLog2 := 12 }
def ringBkt : BktDesc := { bkt with ring := true }
/-- The device with the bucket in a state. -/
def withBkt (k : Bucket) : Dev := { exDev with ctxs := [(0, { exCtx with bkts := [(0, k)] })] }
def atRest : Bucket := { st := .waiting, desc := some bkt }
theorem witness_BucketOperations_rest : (withBkt atRest).restful 0 atRest = true ∧
    (withBkt { atRest with st := .exchanging }).restful 0 ((withBkt { atRest with st := .exchanging }).bucket 0 0) = false := by
  decide +kernel
theorem ready (k : Bucket) (h1 : k.desc = some bkt) (h2 : k.live = true) : (withBkt k).bucketReady 0 0 bkt :=
  And.intro h1 (And.intro h2 (And.intro rfl (And.intro rfl (And.intro rfl rfl))))
/-- Every hitch of the context has credits for an engine. -/
theorem credits (v : Fin 8) (id : Nat) : (withBkt atRest).creditsAt 0 id v.val { own := true, phys := BitVec.ofNat 14 v.val } := by
  refine And.intro ?_ (And.intro ?_ (And.intro ?_ (And.intro ?_ (And.intro ?_ (And.intro ?_ rfl))))) <;> revert v <;> decide
theorem witness_ContributorCommands_start : (withBkt atRest).bucketReady 0 0 bkt ∧ (withBkt atRest).mayStart 0 atRest = true ∧
    (withBkt atRest).linesFree ((withBkt atRest).descLines 0 bkt.g) ((withBkt atRest).descLines 0 bkt.g) ∧
    (withBkt atRest).creditsAt 0 0 bkt.starth.toNat { own := true, phys := BitVec.ofNat 14 (3 : Fin 8).val } :=
  And.intro (ready atRest rfl rfl) (And.intro (by decide) (And.intro (by unfold Dev.linesFree; decide +kernel)
    (credits 3 0)))
/-- An owner record of a type for chunk 0 of the step, and the device with it in the exchange area. -/
def orec (type : Nat) : ORec := { tag := bkt.tag, ch := 0, step := 0, type := type }
def withRec (r : ORec) : Dev :=
  { withBkt { atRest with st := .exchanging, cchunks := [(0, { st := .open })] } with
    mem := { exDev.mem with pool := Mem.writeN [] (0x1000000 + bkt.area.owner) r.bytes } }
def withOrec (type : Nat) : Dev := withRec (orec type)
theorem witness_ContributorCommands_records : (∀ type ∈ [rNotice, rResend, rPrepass, rScale, rPhat],
    ((withOrec type).findRec 0 bkt ((withOrec type).bucket 0 0) type).map (fun r => (r.type, r.tag)) = some (type, bkt.tag) ∧
    (withOrec type).foreignRec 0 bkt ((withOrec type).bucket 0 0) type = false ∧
    (withRec { orec type with tag := bkt.tag + 1 }).foreignRec 0 bkt ((withOrec type).bucket 0 0) type = true) ∧
    (withBkt atRest).creditsAt 0 0 (bkt.xhitch.toNat + 1) { own := true, phys := BitVec.ofNat 14 (5 : Fin 8).val } :=
  And.intro (by decide +kernel) (credits 5 0)
/-- A share that is not admitted. -/
def asking : Share := { coord := 1 }
theorem witness_OwnerAndRingCommands : ((withBkt { atRest with t0 := some 0, shares := [asking] }).bucket 0 0).t0 = some 0 ∧
    bkt.ring = false ∧
    ({ withBkt atRest with time := { ns := 1000 } } : Dev).overdue 0 bkt 0 = true ∧ (withBkt atRest).overdue 0 bkt 0 = false ∧
    (({ atRest with shares := [asking] } : Bucket).share? 1) = some asking ∧ asking.isOver = false ∧ asking.asking = false ∧
    asking.ticket = none ∧ (withBkt atRest).bucketReady 0 0 bkt ∧
    (withBkt atRest).creditsAt 0 0 bkt.xhitch.toNat { own := true, phys := BitVec.ofNat 14 (4 : Fin 8).val } :=
  And.intro (by decide) (And.intro (by decide) (And.intro (by decide) (And.intro (by decide) (And.intro (by decide)
    (And.intro rfl (And.intro rfl (And.intro rfl (And.intro (ready atRest rfl rfl) (credits 4 0)))))))))
/-- The device with a slot of the ring filled. -/
def ringDev : Dev :=
  { withBkt { atRest with desc := some ringBkt } with
    mem := { exDev.mem with pool := Mem.writeN [] (0x1000000 + ringBkt.area.slots + ringBkt.cb) [1] } }
theorem witness_OwnerAndRingCommands_ring : (ringBkt.ring = true ∧ (ringDev.bucket 0 0).live = true) ∧
    ringDev.creditsAt 0 0 (ringBkt.xhitch.toNat + 2) { own := true, phys := 6 } ∧
    ((ringDev.paid { own := true, phys := 6 }).takeSlot 0 0 ringBkt).1.isSome = true := by
  unfold Dev.creditsAt; decide +kernel
theorem witness_ExchangeNumbersStayInRange : 3 ≤ 30 ∧ ([] : List (List (F32 × Rnd))).length ≤ 2 ^ 3 ∧
    resendScale 0 3 2 = some 5 ∧ resendScale 2 3 2 = none := by decide

/-! ### The parameter update -/

/-- Registers of a list of one entry: list at page 0x60, hyperparameters at page 0x70, hitch 3 for start and end. -/
def upd (state : UpdState) : Upd :=
  { st := state, listW0 := BitVec.ofNat 64 (at' 0x60 12 + 1), listW1 := BitVec.ofNat 64 (at' 3 16 + 3)
    normW1 := BitVec.ofNat 64 (at' 4 48 + at' 5 32) }
def withUpd (u : Upd) : Dev := { exDev with ctxs := [(0, { exCtx with upd := u })] }
theorem witness_UpdateRegisters : dev.updPend = false ∧ (upd .waiting).live = true ∧ (upd .disabled).live = false ∧
    cfgStatus .normCfg 0 0 false = .done ∧ cfgStatus .normCfg 0 0 true ≠ .done ∧ 0 < (upd .waiting).entries ∧
    exDev.rangesFree [(0x60000, 64)] [(0x60000, 64)] ∧ exCtx.bkts = [] := by unfold Dev.rangesFree; decide
/-- Pool cells of 16 hyperparameter records of legal intervals. -/
def hypers : List Host.Cell :=
  (List.range 16).flatMap (fun i => [(0x7001C + 64 * i, 1), (0x7001E + 64 * i, 1), (0x70020 + 64 * i, 1), (0x70022 + 64 * i, 4)])
/-- The device with a list of one empty entry that may be enabled. -/
def listDev : Dev :=
  { withUpd { upd .disabled with tabsW0 := BitVec.ofNat 64 (at' 0x70 12 + 1) } with
    mem := { exDev.mem with pool := hypers } }
theorem witness_UpdateRegisters_enable : (BitVec.ofNat 64 (at' 0x60 12 + 1) : U64).getLsbD 0 = true ∧
    listDev.listStatus 0 false = .done ∧ (listDev.ctx 0).upd.live = false := by decide +kernel
theorem witness_UpdateSteps : (withUpd (upd .waiting)).listReady 0 ∧
    (withUpd (upd .waiting)).mayUpdate 0 (upd .waiting) = true ∧ (upd .waiting).starts = (upd .waiting).started + 1 ∧
    (upd .waiting).starth = 3 ∧ (withUpd (upd .waiting)).creditsAt 0 1024 3 { own := true, phys := 3 } := by
  unfold Dev.listReady Dev.rangesFree Dev.creditsAt; decide +kernel
/-- A list whose near engine waits for the κ record, and whose far engine has one distribution put left. -/
def updK (s : UpdState) : Upd :=
  { upd s with near := { phase := .waitKappa }, off := { dist := [(0, 0, 0)] }, rootW0 := BitVec.ofNat 64 (at' 1 60)
               jobs := [{ entry := 0, h := {} }] }
theorem witness_UpdateSteps_parts : (withUpd (updK .waitKappa)).listReady 0 ∧
    (withUpd (updK .waitKappa)).kappaRead 0 (updK .waitKappa) = some (zeros 64) ∧
    ((updK .waitKappa).die 0).phase = .waitKappa ∧
    (withUpd (updK .waitKappa)).creditsAt 0 1024 5 { own := true, phys := 5 } ∧
    (updK .waitKappa).khitch = 5 ∧ ((updK .waitKappa).die 1).dist = [(0, 0, 0)] ∧
    (({ updK .pass2 with near := { phase := .stopped 0 } } : Upd).die 0).phase = .stopped 0 ∧
    ((withUpd (updK .waitKappa)).distEnt 0 0).fwe = false ∧
    (({ withUpd (updK .waitKappa) with mem := { exDev.mem with pool := [(8, 2)] } } : Dev).distEnt 0 0).fwe = true ∧
    ((withUpd (updK .waitKappa)).distEnt 0 0).freeh = 0 ∧
    (withUpd (updK .waitKappa)).creditsAt 0 1025 0 { own := true, phys := 0 } := by
  unfold Dev.listReady Dev.rangesFree Dev.creditsAt; decide +kernel
theorem witness_UpdateSteps_jobs : ((withUpd (updK .waitKappa)).ctx 0).resid = .resident ∧
    (withUpd (updK .waitKappa)).mayRoot 0 (updK .waitKappa) = true ∧
    (updK .waitKappa).idleRoot = some 0 ∧ ((updK .waitKappa).jobs.span (fun j => j.tile.isSome)).2.length = 1 ∧
    (withUpd (updK .waitKappa)).rangesFree ((withUpd (updK .waitKappa)).listRanges 0
      ++ (withUpd (updK .waitKappa)).scratchRanges 0) ((withUpd (updK .waitKappa)).listRanges 0) ∧
    (({ (updK .pass2) with jobs := [{ entry := 0, h := {}, tile := some 0 }] } : Upd).jobs.find?
      (fun j => j.tile == some 0 && j.ended.isNone)).isSome = true ∧ Status.frozen ≠ .done := by
  unfold Dev.rangesFree; decide +kernel
theorem witness_NormIsFormedExactly : (withUpd (updK .waitKappa)).fab.coord = coordinator ∧
    (updK .waitKappa).heldKappa = none ∧ (withUpd (updK .waitKappa)).creditsAt 0 1024 4 { own := true, phys := 4 } ∧
    (updK .waitKappa).nhitch = 4 ∧ (withUpd (updK .waitKappa)).rangesFree [(0x1000000, 64)] [(0x1000000, 64)] ∧
    leAt ((withUpd (updK .waitKappa)).normRead 0 (updK .waitKappa) 0 64) 32 4 ≠ 2 * (withUpd (updK .waitKappa)).fab.devices ∧
    leAt (({ withUpd (updK .waitKappa) with mem := { exDev.mem with pool := [(0x1000020, 2)] } } : Dev).normRead 0
      (updK .waitKappa) 0 64) 32 4 = 2 * (withUpd (updK .waitKappa)).fab.devices := by
  unfold Dev.rangesFree Dev.creditsAt; decide +kernel

/-! ### The Farrier and the host interface -/

/-- The device with one quadrant of tile 0 fenced, which awaits its self-test. -/
def fencedDev : Dev := { dev with tiles := [(0, { health := { selfTest := true, quads := [(3, .fenced)] } })] }
theorem witness_FarrierOperations : dev.farr.pend = false ∧ dev.farr.repair = false ∧ dev.unbacked 0 = false ∧
    ((with0 { ctx with faultHold := true }).ctx 0).faultHold = true ∧ (fencedDev.health 0 0).selfTest = true ∧
    (fencedDev.tile 0 0).prog = none ∧ (fencedDev.phys 0 0).isSome = true ∧
    (∀ q ∈ [3, 4, 5, 6], (fencedDev.health 0 0).quad q = .fenced → (1 : BitVec 4).getLsbD (q - 3) = true) ∧
    (∀ q ∈ [3, 4, 5, 6], (fencedDev.health 0 0).quad q ≠ .retired) := by decide
theorem witness_EarlyWarnings : dev.farr.ewLatch = false ∧ ({ dev.farr with ewLatch := true } : Farr).ewLatch = true ∧
    dev.farr.ewArmed = true ∧ 8 ≤ 8 ∧ 7 < 8 := by decide
/-- A management packet. -/
def notice (op h2 : Nat) : Packet := ⟨packetHead 0 1 0 op, 0, BitVec.ofNat 64 h2, 0, []⟩
theorem witness_ManagementPackets : ∀ op ∈ [0xC0, 0xC1, 0xC2, 0xC3, 0xC4], takeOp op [notice op 0] = some (notice op 0, []) ∧
    mgmtOk (notice op 0) 0 = true ∧ mgmtOk (notice op 1) 0xFFFFFFFFFFFFFFFF = false := by decide
theorem witness_HostConfiguration : dev.hif.pend = false ∧ dev.ctxCfgStatus 1 3 = .done ∧ dev.ctxCfgStatus 1 200 ≠ .done ∧
    hostAccStatus (({} : HostAcc).setWord 0 0) 0 0 true = .done ∧
    dev.ringStatus 1 1 1 (at' 6 59 + at' 1 58 + at' 1 16) = .done ∧
    ((dev.ring 1 1).setWord 1 (at' 6 59 + at' 1 58 + at' 1 16)).en = true ∧ dev.ringStatus 1 1 0 1 ≠ .done := by decide +kernel
/-- The device with context 0 in a residency. -/
def residing (r : Residence) : Dev := with0 { ctx with resid := r }
theorem witness_PreemptionKeepsTiles : (dev.ctx 0).resid = .resident ∧ dev.hif.pend = false ∧
    ({ dev.hif with pend := true } : Hif).pend = true ∧ ((residing .saving).ctx 0).resid = .saving ∧
    (residing .saving).settled 0 = true ∧ (residing .saving).mem.snoop = [] ∧ (residing .saving).mem.pool.wf = true ∧
    ({ residing .saving with tiles := [(0, { tile := atWord [word [slot 6 (.fn false (.lib 0) a32 b32) .performed] none] })] } :
      Dev).settled 0 = false ∧
    ((with0 { ctx with resid := .preempted, backs := [] }).ctx 0).ntile.toNat
      ≤ (with0 { ctx with resid := .preempted, backs := [] }).freeTiles.length := by decide +kernel
theorem witness_PreemptionKeepsTiles_restore : ((residing .restoring).ctx 0).resid = .restoring ∧
    (residing .restoring).readBytes 0 ⟨.hbm, ctx.usable⟩ ctx.area.length = ctx.area ∧
    (residing .restoring).mem.poison = [] ∧
    (∀ k, k < ctx.ntile.toNat → (Tab.find ctx.backs k).isSome = true) ∧
    (∀ j, j < ctx.ntile.toNat → ∀ k, k < ctx.ntile.toNat → Tab.find ctx.backs j = Tab.find ctx.backs k → j = k) := by
  decide +kernel
theorem witness_CxlLinkAndConfiguration : dev.hif.up = true ∧ dev.up.cxl = true ∧ 8 ∈ [1, 2, 4, 8] ∧ 0 < 6 ∧ 6 ≤ 6 ∧
    ({ dev.hif with up := false } : Hif).up = false ∧ (cdatEntries[0]?).isSome = true ∧ 5 ≤ (5 : U16).toNat ∧
    ({ ide := true } : Opts).ide = true ∧ (Tab.find [((3 : Nat), (0 : BitVec 256))] 3).isSome = true := by decide
theorem witness_FallbackIsCxlIoAlone : ({ dev.hif with flit68 := true } : Hif).flit68 = true ∧ 1 ∈ [1, 2, 4, 8] := by decide

/-! ### Time and functions -/

def announce : Announce := ⟨⟨1, 1⟩, 0, 6, 0x21, 0, 0, 1, 0, 0⟩
/-- A time block that follows a master. -/
def following : TimeBlk := { ptpEn := true, mac := 1, best := some announce, reqTx := some (0, ⟨0, 0⟩), ms := some 0 }
theorem witness_BridleMessages : following.accepts ⟨none, .ethernet, 0, 0⟩ = true ∧ following.ptpEn = true ∧
    ({} : TimeBlk).ptpEn = false ∧ ({} : TimeBlk).accepts ⟨none, .ethernet, 0, 0⟩ = true ∧
    following.accepts ⟨none, .ethernet, 1, 0⟩ = false := by decide
theorem witness_BridleMeasuresAndSends : following.best = some announce ∧ following.delayP2p = false ∧
    following.reqTx = some (0, ⟨0, 0⟩) ∧ following.ms = some 0 ∧ following.mayTalk = true ∧
    ({ following with delayP2p := true } : TimeBlk).mayTalk = true ∧ following.tagOk none = true ∧
    ({ following with transport := 2 } : TimeBlk).transport = 2 ∧ (5 : U32) ≠ following.ipv4 := by decide
theorem witness_ServoStaysInRange :
    ({ dev with fab := { dev.fab with gangs := [(0, { cand := { valid := true } })] } } : Dev).bestSource.isSome = true := by
  decide +kernel
theorem witness_TimeIsSetReadAndKept : dev.timeInUse = false ∧ (withBkt atRest).timeInUse = true ∧
    ({ ppsMode := 1 } : TimeBlk).ppsMode ≠ 0 ∧ ({} : TimeBlk).edgeValid 100 = true ∧ ({} : TimeBlk).edgeValid 99 = false ∧
    (st dev).pending = [] ∧ dev.time.freq = 0 ∧ dev.time.acc = 0 := by decide
/-- The device with host memory open to context 0 and a load of one table entry from it. -/
def sfuDev : Dev :=
  { with0 { ctx with hostAcc := [(0, { en := true, pr := true, size := 1 })] } with
    sfu := { state := 1, run := { src := BitVec.ofNat 64 (at' 3 61), count := 1, tmask0 := 1 } } }
theorem witness_FunctionLoads : (0x80000000 : U64).getLsbD 31 = true ∧ (0 : U64).getLsbD 31 = false ∧ dev.sfu.state ≠ 1 ∧
    parseAddr (7 * 2 ^ 61) = none ∧ parseAddr sfuDev.sfu.run.src.toNat = some ⟨.host, 0⟩ ∧ sfuDev.hif.hostUp = true ∧
    sfuDev.sfuStatus (some ⟨.host, 0⟩) = .done := by decide +kernel

/-! ### Power, reset and security -/

theorem witness_RailRamps : targetStatus (760 % 4096) = .done ∧ BitVec.ofNat 12 (760 % 4096) ≠ dev.pwr.actual ∧
    targetStatus (761 % 4096) ≠ .done ∧ (750 : BitVec 12).toNat < (760 : BitVec 12).toNat := by decide
theorem witness_PowerDomains : dev.pwr.pend = false ∧ dev.domStatus 0 .stand = .done ∧ (dev.dom 0).st ≠ .stand ∧
    dev.domStatus 0 .running = .done ∧ (dev.dom 0).st = .running ∧ dev.domStatus 80 .rest ≠ .done ∧
    ((dev.setDom 3 { toSt := some .rest }).dom 3).toSt = some .rest := by decide
theorem witness_PowerReadings : dev.pwr.tripN = false ∧ hottest ((List.range 72).zip [100]) = some (0, 100) ∧
    (∀ x ∈ (List.range 72).zip [(100 : U16)], tripPoint ≤ x.2.toInt → x.1 ∉ dev.pwr.hot) ∧
    (0, (920 : U16)) ∈ (List.range 72).zip [920] ∧ tripPoint ≤ (920 : U16).toInt ∧
    0 ∈ ({ dev.pwr with hot := [0] } : Pwr).hot := by decide +kernel
/-- A firmware store whose image has SVN 0 and no body, under keys for which `flatSig` verifies. -/
def fwStore : Mem := Mem.writeN (Mem.writeN [] 0 (leBytes 4 0x4657434B)) 64 [1]
def fwImg : List Byte := fwImage (readMem fwStore)
theorem fw_valid : fwValid 1 fwImg none = true := by
  have h1 : ((fwImg.take 4096).drop 64).take 64 = flatSig := by decide +kernel
  have h2 : ((fwImg.take 4096).length == 4096 && leAt (fwImg.take 4096) 0 4 == 0x4657434B && leAt (fwImg.take 4096) 12 4 % 64 == 0
    && decide (leAt (fwImg.take 4096) 12 4 ≤ 2 ^ 24 - 4096) && (fwImg.drop 4096).length == leAt (fwImg.take 4096) 12 4
    && (((fwImg.take 4096).drop 24).take 40).all (· == 0) && ((fwImg.take 4096).drop 192).all (· == 0)) = true := by
    decide +kernel
  rw [fwValid, h1, signedBy_flat]
  simpa using h2
theorem witness_ReleaseOrder : fwValid 1 fwImg none = true ∧ (fwSvn fwImg).toNat = 0 ∧ fwValid 1 [] none = false ∧
    ({ nextStep := 4, fwStore := fwStore, vendorKey := 1 } : Rst).nextStep = 4 :=
  And.intro fw_valid (by decide +kernel)
theorem witness_ResetsRestartTheRelease : dev.pwr.tripN = false ∧ (st dev).rst.fwRunning = true ∧ dev.hif.up = true ∧
    dev.secOpen = true ∧ (st dev).rst.boot = 8 ∧ dev.up.recovery = false ∧ 32 ≤ 32 ∧
    Tab.get 0 (st dev).rst.misses 0 = 0 ∧ (0 : BitVec 4).getLsbD 0 = false ∧ 1 ≤ Tab.get 0 [(0, 1)] 0 := by decide
theorem witness_BlockResets : (st dev).rst.blkPend = false ∧ dev.qstate (.context 1) = 0 ∧
    ({ dev with ctxs := [(0, { ctx with launches := [running] })] } : Dev).qstate (.context 0) = 1 ∧
    (∀ k, BlkTarget.context 0 ≠ .invalid k) ∧
    ({ dev with up := { dev.up with quiesced := [2] } } : Dev).qstate .sync = 3 := by decide +kernel
/-- An option image with no records, newer than an empty copy. -/
def optImg : List Byte :=
  leBytes 4 0x4F505453 ++ leBytes 4 1 ++ zeros 8 ++ (sha512 []).take 32 ++ zeros 16
/-- An assignment of a member of a team of one, signed. -/
def record : List Byte := leBytes 8 1 ++ zeros 56 ++ flatSig
/-- The state with an image at the start of host memory, and keys for which `flatSig` verifies. -/
def withImage (img : List Byte) (len : Nat) : State :=
  { st { dev with hif := { dev.hif with hostMem := Mem.writeN [] 0 img } } with
    rst := { (st dev).rst with len := BitVec.ofNat 25 len, opts := { opKey := some 1 }, vendorKey := 1 } }
theorem witness_SecurityOperations_options : dev.secOpen = true ∧ (st dev).rst.secPend = false ∧
    (withImage optImg 64).secFits = true ∧ (withImage optImg 64).rst.optStatus (withImage optImg 64).secImage true = .done ∧
    (withImage optImg 64).rst.opts.copyB = false ∧
    ({ (withImage optImg 64).rst with opts := { copyB := true } } : Rst).optStatus (withImage optImg 64).secImage true = .done := by
  decide +kernel
theorem witness_SecurityOperations_firmware : fwValid 1 fwImg none = true ∧ fwValid 1 (zeros 64) none = false :=
  And.intro fw_valid (by decide +kernel)
theorem witness_SecurityOperations_assign : assignmentValid record (some 1) = true ∧
    (parseAssignment record).fits = true ∧ (parseAssignment record).kind = 1 ∧ dev.farr.kind = 0 ∧
    (withImage (zeros 128) 127).assignStatus (zeros 128) ≠ .done := by
  have h1 : (record.drop 64).take 64 = flatSig := by decide +kernel
  refine And.intro ?_ (by decide +kernel)
  rw [assignmentValid, h1]
  simp only [signedBy_flat, Bool.and_true]
  decide +kernel
theorem witness_SpdmRequestsRunInOrder : (st dev).rst.fwRunning = true ∧ dev.up.cxl = true ∧ dev.hif.up = true ∧
    (zeros 96).length = 96 ∧ Spdm.negotiated.ready = true := by decide
theorem witness_RegistersAndSideband : dev.secOpen = true ∧ dev.up.recovery = false ∧ (regOf 0).isSome = true ∧
    ((regOf 0x30000).map Reg.latches = some true ∨ (regOf 0x30008).map Reg.latches = some true) ∧
    regOf 0xFFFF8 = none := by decide

/-! ## Results worked out by hand -/

/-- FIPS 180-4: the digest of the empty message begins so. -/
theorem test_sha512_empty : (sha512 []).take 8 = [0xCF, 0x83, 0xE1, 0x35, 0x7E, 0xEF, 0xB8, 0xBD] := by decide +kernel

/-- In the field of R235, α times its inverse α⁹ + α² is 1, since α¹⁰ = α³ + 1. -/
theorem test_gf_inverse : gfMul 2 (2 ^ 9 + 2 ^ 2) = 1 := by decide
/-- A codeword of R235 has every root of the generator, and loses that with one symbol changed. -/
theorem test_rs_codeword : rsCodeword (rsEncode [1, 2, 3]) = true ∧ rsCodeword (rsEncode [1, 2, 3] |>.set 0 5) = false := by
  decide +kernel
/-- A 64-bit access is aligned, and covers two words (R341). -/
theorem test_words : wordsOf 8 .word64 = [8, 12] ∧ wordsOf 12 .word64 = [] := by decide
/-- The doorbell page of context 3 has the EQ head at offset 0x10 (Table 14.5). -/
theorem test_doorbell : doorbellOf 0x3010 = some (3, 2) ∧ doorbellOf 0x3020 = none := by decide

/-- The block of the worked example of chapter 3: 10.0, -13.0, 0.7 and -0.1 at elements 0, 1, 16 and 17. -/
def exampleBlock : List Machine.Num :=
  (([0x41200000, 0xC1500000] ++ List.replicate 14 0 ++ [0x3F333333, 0xBDCCCCCD] ++ List.replicate 14 0 : List F32)).map F32.num

/-- Scale byte 0x80, codes 0x6, 0xF, 0x1 and 0x8, UNDERFLOW and INEXACT. -/
theorem test_mxfp4_block : quantBlock 0x1 false exampleBlock (fun _ => .rne) =
    (0x80, [0x6, 0xF] ++ List.replicate 14 0 ++ [0x1, 0x8] ++ List.replicate 14 0, fUnderflow ||| fInexact) := by
  decide +kernel
/-- Scale entry 0x0C80, codes 0x6, 0xF, 0x5 and 0x9, UNDERFLOW and INEXACT. -/
theorem test_kf4_block : quantBlock 0xC false exampleBlock (fun _ => .rne) =
    (0x0C80, [0x6, 0xF] ++ List.replicate 14 0 ++ [0x5, 0x9] ++ List.replicate 14 0, fUnderflow ||| fInexact) := by
  decide +kernel
/-- Element 16 of the KF4 block reads back as 0.75 (R73, R76). -/
theorem test_kf4_read : ((readElem 0xC 0x5 0x0C80 16).1.toF32).1 = 0x3F400000 := by decide +kernel
/-- The example of chapter 7: chunk 5 of 64 rows of 4 KiB falls in one bank under LINEAR, and in 64 under ROW. -/
theorem test_swizzle_banks :
    (List.range 64).all (fun r => swizzle 0 (4096 * r + 64 * 5) / 64 % 64 == 5) = true ∧
    ((List.range 64).map (fun r => swizzle 1 (4096 * r + 64 * 5) / 64 % 64)).Nodup := by decide +kernel
/-- The example of chapter 11: a resend at -19 after k = 1, then FNEXT -17. -/
theorem test_ring_rescale : resendScale 0 (-20) 1 = some (-19) ∧ fnext 2 1 (-19) 29 = -17 := by decide
/-- Table 12.6: m, v and A of the first update of an element with gradient 0.5 under κ = 0.5. -/
theorem test_first_update :
    let h : Hyper := { b1 := 0x3F600000, b2 := 0x3F700000, eps := 0x30800000 }
    let z := moments h 0x3F000000 (FF.of 0x3E000000) (FF.of 0x3D800000) (FF.of 0x3E000000) (FF.of 0x3D800000) 0x3F000000 (FF.of 0) (FF.of 0)
    (z.g.1, z.m.1, z.v.1, z.mh.1, z.a.1) = (0x3E800000, 0x3D000000, 0x3B800000, 0x3E800000, 0x3F800000) := by
  decide +kernel
end Sys2Proof.Tests
end

section
/-! Reading a launch record (R56) and refusing it (R9, R55, R57): what the dispatcher's read changes, the completion record
that a refusal leaves, and O12. -/
namespace Sys2Proof.Machine
open Sys2Proof

/-! ## A record that is read -/

@[simp] theorem Dev.takeRecord_pos (s : Dev) (c : Nat) : (s.takeRecord c).1.pos = (s.ring c 0).dev := rfl

@[simp] theorem Dev.takeRecord_failure (s : Dev) (c : Nat) : (s.takeRecord c).1.failure = none := rfl

@[simp] theorem Dev.outer_takeRecord (s : Dev) (c : Nat) : (s.takeRecord c).2.outer = s.outer := rfl

theorem Dev.ctx_takeRecord_self (s : Dev) (c : Nat) :
    (s.takeRecord c).2.ctx c = { s.ctx c with
      rings := Tab.set (s.ctx c).rings 0 { s.ring c 0 with dev := (s.ring c 0).dev + 1 }
      launches := (s.ctx c).launches ++ [(s.takeRecord c).1] } := by
  simp [Dev.takeRecord, Dev.setRing]

theorem Dev.ctx_takeRecord_ne (s : Dev) {c k : Nat} (h : k ≠ c) : (s.takeRecord c).2.ctx k = s.ctx k := by
  simp [Dev.takeRecord, Dev.setRing, h]

theorem Dev.ring_takeRecord_head (s : Dev) (c : Nat) :
    (s.takeRecord c).2.ring c 0 = { s.ring c 0 with dev := (s.ring c 0).dev + 1 } := by
  rw [Dev.ring, Dev.ctx_takeRecord_self]; exact Tab.get_set_self _ _ _ _

/-- A launch read at a position that no outstanding one has is the launch of that position. -/
theorem Dev.launch?_takeRecord (s : Dev) (c : Nat) (h : ∀ l ∈ (s.ctx c).launches, l.pos ≠ (s.ring c 0).dev) :
    (s.takeRecord c).2.launch? c (s.ring c 0).dev = some (s.takeRecord c).1 := by
  have none_before : (s.ctx c).launches.find? (fun l => l.pos = (s.ring c 0).dev) = none := by simpa using h
  simp [Dev.launch?, Dev.ctx_takeRecord_self, List.find?_append, none_before]

/-! ## A launch that is refused -/

/-- A change of the launch at a position, which keeps its position, is what is found there. -/
theorem Dev.launch?_modLaunch (s : Dev) (c : Nat) (pos : U32) (f : Launch → Launch) (hf : ∀ l, (f l).pos = l.pos) :
    (s.modLaunch c pos f).launch? c pos = (s.launch? c pos).map f := by
  have same_pos : (fun l : Launch => decide (l.pos = pos)) ∘ (fun l => if l.pos = pos then f l else l) =
      fun l => decide (l.pos = pos) := by
    funext l; by_cases h : l.pos = pos <;> simp [h, hf]
  simp only [Dev.launch?, Dev.modLaunch, Dev.ctx_modCtx, if_true, List.find?_map, same_pos]
  cases found : (s.ctx c).launches.find? (fun l => decide (l.pos = pos)) with
  | none => rfl
  | some l => simp [show l.pos = pos by simpa using List.find?_some found]

@[simp] theorem Dev.cpls_modLaunch (s : Dev) (c k : Nat) (pos : U32) (f : Launch → Launch) :
    ((s.modLaunch c pos f).ctx k).cpls = (s.ctx k).cpls := by
  simp only [Dev.modLaunch, Dev.ctx_modCtx]; split <;> simp [*]

/-- The first failure of a launch is kept with it (R57). -/
theorem Dev.failLaunch_first (s : Dev) (c : Nat) (pos : U32) (f : Failure) (l : Launch)
    (hl : s.launch? c pos = some l) (hn : l.failure = none) :
    s.failLaunch c pos f = s.modLaunch c pos (fun l => { l with failure := some f }) := by
  simp [Dev.failLaunch, hl, hn]

/-- The completion record of a launch that ends carries its failure, if it has one (R57). -/
theorem Dev.cpls_finishLaunch (s : Dev) (c : Nat) (pos : U32) (dflt : Status) (l : Launch) (hl : s.launch? c pos = some l) :
    let f := l.failure.getD ⟨dflt, 0, none, none⟩
    ((s.finishLaunch c pos dflt).ctx c).cpls =
      (s.ctx c).cpls ++ [⟨pos, l.record.ltag, l.record.step, f.status, f.tile, f.tag, f.slot, none⟩] := by
  simp [Dev.finishLaunch, hl]

@[simp] theorem Dev.outer_refuseLaunch (s : Dev) (c : Nat) (pos : U32) (f : Failure) :
    (s.refuseLaunch c pos f).outer = s.outer := by
  simp [Dev.refuseLaunch]

/-- The completion record of a refused launch that had not failed before carries the refusal. -/
theorem Dev.cpls_refuseLaunch (s : Dev) (c : Nat) (pos : U32) (f : Failure) (l : Launch)
    (hl : s.launch? c pos = some l) (hn : l.failure = none) :
    ((s.refuseLaunch c pos f).ctx c).cpls =
      (s.ctx c).cpls ++ [⟨pos, l.record.ltag, l.record.step, f.status, f.tile, f.tag, f.slot, none⟩] := by
  have failed : (s.failLaunch c pos f).launch? c pos = some { l with failure := some f } := by
    simp [Dev.failLaunch_first s c pos f l hl hn, Dev.launch?_modLaunch, hl]
  rw [Dev.refuseLaunch, Dev.cpls_finishLaunch _ c pos .done _ failed, Dev.failLaunch_first s c pos f l hl hn,
    Dev.cpls_modLaunch]
  rfl

/-! ## The five commands that read a record -/

/-- A record of the command's type that fails its checks is read and refused: what the type's command does with a good
record does not matter (R9, R55). -/
theorem Dev.readRecord_of_fail (s : Dev) (c type : Nat) (accept : Dev → Launch → Dev) (f : Failure)
    (hread : s.canRead c = true) (hfail : s.recordFail c (s.peek c) = some f) (htype : (s.peek c).type.toNat = type) :
    s.readRecord c type accept = (s.takeRecord c).2.refuseLaunch c (s.ring c 0).dev f := by
  simp [Dev.readRecord, hread, hfail, htype]

/-- LOAD, START, LOAD_CHAIN, ABORT and FENCE read the record of their type, and differ in what they do with a good one. -/
theorem exec_readsRecord (c : CtxId) (s : State) :
    ∀ i ∈ [(1, Instr.load c), (2, .start c), (3, .loadChain c), (4, .abort c), (5, .fence c)],
      ∃ accept, exec i.2 s = .next (s.withDev (s.dev.readRecord c.val i.1 accept)) := by
  intro i hi
  simp only [List.mem_cons, List.not_mem_nil, or_false] at hi
  obtain rfl | rfl | rfl | rfl | rfl := hi
  · exact ⟨fun d l => d.acceptLoad c.val l, rfl⟩
  · exact ⟨fun d l => d.startPart c.val l, rfl⟩
  · exact ⟨fun d l => d.acceptLoad c.val l, rfl⟩
  · exact ⟨fun d l => d.acceptAbort c.val l, rfl⟩
  · exact ⟨fun d l => d.acceptFence c.val l, rfl⟩

/-- Settles O12: the read is `Dev.takeRecord`, and a refusal (`Dev.refuseLaunch`) after it leaves the completion record in
the context and everything outside the contexts and the host interface as it was. -/
theorem recordsAreReadOnce : Obligations.RecordsAreReadOnce := by
  constructor
  · intro d c
    refine ⟨?_, ?_, Dev.takeRecord_pos d c, Dev.outer_takeRecord d c, fun k => Dev.ctx_takeRecord_ne d⟩
    · rw [Dev.ring_takeRecord_head]
    · rw [Dev.ctx_takeRecord_self]
  · intro c s f hread hfail hnew i hi htype
    obtain ⟨accept, hexec⟩ := exec_readsRecord c s i hi
    rw [Dev.readRecord_of_fail s.dev c.val i.1 accept f hread hfail htype] at hexec
    have houter : ((s.dev.takeRecord c.val).2.refuseLaunch c.val (s.dev.ring c.val 0).dev f).outer = s.dev.outer := by
      simp
    have hcpls := Dev.cpls_refuseLaunch _ c.val _ f _ (Dev.launch?_takeRecord s.dev c.val hnew)
      (Dev.takeRecord_failure s.dev c.val)
    rw [Dev.ctx_takeRecord_self] at hcpls
    exact ⟨_, hexec, (congrArg Dev.tiles houter :), (congrArg Dev.sync houter :), _, hcpls, rfl, rfl, rfl⟩

end Sys2Proof.Machine
end

section
/-! Doorbells (R56, R348 to R350): what a tail or head word does, case by case, with O8 and O9. -/
namespace Sys2Proof.Machine
open Sys2Proof

theorem exec_sqTail (c : CtxId) (v : U32) (hw : List Host.Cell) (s : State) :
    exec (.sqTail c v hw) s = .next (s.withDev ((s.dev.hostStores hw).tailWrite c.val v)) := rfl

theorem exec_cqHead (c : CtxId) (v : U32) (s : State) :
    exec (.cqHead c v) s = .next (s.withDev (s.dev.headWrite c.val 1 v)) := rfl

theorem exec_eqHead (c : CtxId) (v : U32) (s : State) :
    exec (.eqHead c v) s = .next (s.withDev (s.dev.headWrite c.val 2 v)) := rfl

theorem exec_tqHead (c : CtxId) (v : U32) (s : State) :
    exec (.tqHead c v) s = .next (s.withDev (s.dev.headWrite c.val 3 v)) := rfl

/-! ## The tail word (R56) -/

@[simp] theorem Dev.hostStores_nil (s : Dev) : s.hostStores [] = s := rfl
@[simp] theorem Dev.ring_hostStores (s : Dev) (hw : List Host.Cell) (c r : Nat) :
    (s.hostStores hw).ring c r = s.ring c r := rfl

theorem Ring.tailCase_accepted (g : Ring) (v : U32) (hne : v ≠ g.host) (hfwd : (v - g.host).toNat < 2 ^ 31)
    (hroom : (v - g.dev).toNat ≤ g.size) : g.tailCase v = .accepted := by
  have inside : ¬(2 ^ 31 ≤ (v - g.host).toNat ∨ g.size < (v - g.dev).toNat) := by omega
  rw [Ring.tailCase, if_neg hne, if_neg inside]

theorem Ring.tailCase_ignored (g : Ring) (v : U32) (hne : v ≠ g.host)
    (hout : 2 ^ 31 ≤ (v - g.host).toNat ∨ g.size < (v - g.dev).toNat) : g.tailCase v = .ignored := by
  rw [Ring.tailCase, if_neg hne, if_pos hout]

theorem Dev.tailWrite_of_accepted (s : Dev) (c : Nat) (v : U32) (hbar : s.barOpen = true) (hen : (s.ring c 0).en = true)
    (hcase : (s.ring c 0).tailCase v = .accepted) :
    s.tailWrite c v = s.setRing c 0 { s.ring c 0 with door := v, host := v } := by
  simp [Dev.tailWrite, hbar, hen, hcase]

theorem Dev.tailWrite_of_ignored (s : Dev) (c : Nat) (v : U32) (hbar : s.barOpen = true) (hen : (s.ring c 0).en = true)
    (hcase : (s.ring c 0).tailCase v = .ignored) :
    s.tailWrite c v = (s.setRing c 0 { s.ring c 0 with door := v }).modCtx c
      (fun x => { x with dbErrors := satAdd x.dbErrors 1 }) := by
  simp [Dev.tailWrite, hbar, hen, hcase]

theorem Dev.tailWrite_of_disabled (s : Dev) (c : Nat) (v : U32) (hbar : s.barOpen = true) (hen : (s.ring c 0).en = false) :
    s.tailWrite c v = s.setRing c 0 { s.ring c 0 with door := v } := by
  simp [Dev.tailWrite, hbar, hen]

/-! ## The head words (R350) -/

theorem Dev.headWrite_of_ok (s : Dev) (c r : Nat) (v : U32) (hbar : s.barOpen = true) (hen : (s.ring c r).en = true)
    (hok : (s.ring c r).headOk v = true) :
    s.headWrite c r v = s.setRing c r { s.ring c r with door := v, host := v } := by
  simp [Dev.headWrite, hbar, hen, hok]

theorem Dev.headWrite_of_bad (s : Dev) (c r : Nat) (v : U32) (hbar : s.barOpen = true) (hen : (s.ring c r).en = true)
    (hbad : (s.ring c r).headOk v = false) :
    s.headWrite c r v = (s.setRing c r { s.ring c r with door := v }).modCtx c
      (fun x => { x with headErr := satAdd x.headErr 1 }) := by
  simp [Dev.headWrite, hbar, hen, hbad]

/-- Settles O8: the judgement of the ring (`Ring.tailCase`, `Ring.headOk`) is that the word is accepted. -/
theorem doorbellsAccepted : Obligations.DoorbellsAccepted := by
  refine ⟨fun c v hw s hbar hen hne hfwd hroom => ?_, fun c v s hbar hen hok => ?_, fun c v s hbar hen hok => ?_,
    fun c v s hbar hen hok => ?_⟩
  · have accepted := Ring.tailCase_accepted (s.dev.ring c.val 0) v hne hfwd hroom
    rw [exec_sqTail, Dev.tailWrite_of_accepted (s.dev.hostStores hw) c.val v hbar hen accepted, Dev.ring_hostStores]
  · rw [exec_cqHead, Dev.headWrite_of_ok s.dev c.val 1 v hbar hen hok]
  · rw [exec_eqHead, Dev.headWrite_of_ok s.dev c.val 2 v hbar hen hok]
  · rw [exec_tqHead, Dev.headWrite_of_ok s.dev c.val 3 v hbar hen hok]

/-! ## What a doorbell that is ignored leaves -/

/-- A doorbell word stored, and the context counting it in a register that is no ring. -/
theorem Dev.ring_modCtx_setRing (s : Dev) (c r : Nat) (g : Ring) (f : Ctx → Ctx) (hf : ∀ x, (f x).rings = x.rings) :
    ((s.setRing c r g).modCtx c f).ring c r = g := by
  have kept : ((s.setRing c r g).modCtx c f).ring c r = (s.setRing c r g).ring c r := by simp [Dev.ring, hf]
  simpa using kept

theorem Dev.ctx_setRing_ne (s : Dev) {c k : Nat} (r : Nat) (g : Ring) (h : k ≠ c) : (s.setRing c r g).ctx k = s.ctx k := by
  simp [Dev.setRing, h]

theorem Dev.ctx_setRing_self (s : Dev) (c r : Nat) (g : Ring) :
    (s.setRing c r g).ctx c = { s.ctx c with rings := Tab.set (s.ctx c).rings r g } := by
  simp [Dev.setRing]

/-- Settles O9: the ring ignores the word (`Ring.tailCase`, `Ring.headOk`), which is stored in its doorbell word, and the
context counts it. -/
theorem doorbellsIgnored : Obligations.DoorbellsIgnored := by
  refine ⟨fun c v s hbar hen hne hout => ?_, fun c v s hbar hen hbad => ?_, fun c v s hbar hen => ?_⟩
  · have ignored := Ring.tailCase_ignored (s.dev.ring c.val 0) v hne hout
    refine ⟨_, exec_sqTail c v [] s, ?_⟩
    rw [Dev.hostStores_nil, Dev.tailWrite_of_ignored s.dev c.val v hbar hen ignored]
    refine ⟨?_, Dev.ring_modCtx_setRing _ _ _ _ _ (fun _ => rfl), rfl, fun k hk => ?_⟩
    · simp [Dev.ctx_setRing_self]
    · simp [hk, Dev.ctx_setRing_ne]
  · refine ⟨_, exec_cqHead c v s, ?_⟩
    rw [Dev.headWrite_of_bad s.dev c.val 1 v hbar hen hbad]
    refine ⟨?_, Dev.ring_modCtx_setRing _ _ _ _ _ (fun _ => rfl), rfl, fun k hk => ?_⟩
    · simp [Dev.ctx_setRing_self]
    · simp [hk, Dev.ctx_setRing_ne]
  · rw [exec_sqTail, Dev.hostStores_nil, Dev.tailWrite_of_disabled s.dev c.val v hbar hen]

end Sys2Proof.Machine
end

section
/-! Messages and counted records (R353): what sending a message leaves alone, and what it does. -/
namespace Sys2Proof.Machine
open Sys2Proof

/-! ## Bits of the mask and pending registers -/

theorem bit_toNat {w : Nat} (x : BitVec w) (i : Nat) : bit x.toNat i = x.getLsbD i := by
  rw [bit, BitVec.getLsbD, Nat.testBit_eq_decide_div_mod_eq]
  rfl

theorem bit_set_self {i : Nat} (h : i < 32) (x : BitVec 32) : bit (x ||| BitVec.ofNat 32 (2 ^ i)).toNat i = true := by
  rw [bit_toNat, BitVec.getLsbD_or, BitVec.getLsbD_ofNat]
  simp [h]

theorem bit_clear_self {i : Nat} (h : i < 32) (x : BitVec 32) :
    bit (x &&& ~~~(BitVec.ofNat 32 (2 ^ i))).toNat i = false := by
  rw [bit_toNat, BitVec.getLsbD_and, BitVec.getLsbD_not, BitVec.getLsbD_ofNat]
  simp [h]

/-! ## What a message can change -/

/-- The context without the pending bits of its vectors: what a message leaves alone. -/
def Ctx.sansPending (x : Ctx) : Ctx := { x with msixPend := 0 }

/-- The context without its rings and pending bits: what the writing of a record leaves alone. -/
def Ctx.sansRings (x : Ctx) : Ctx := { x with rings := [], msixPend := 0 }

/-- A message of an open, unmasked vector on a link that is up is sent. -/
theorem Dev.message_of_open (s : Dev) (c vec : Nat) (hen : s.hif.msixEn = true) (hfn : s.hif.msixFnMask = false)
    (hvec : bit (s.ctx c).msixMask.toNat vec = false) (hup : s.hif.up = true) :
    s.message c vec = { s with hif := { s.hif with msgs := s.hif.msgs ++ [32 * c + vec] } } := by
  simp [Dev.message, hen, hfn, hvec, hup]

/-- A message of a masked vector is left pending. -/
theorem Dev.message_of_masked (s : Dev) (c vec : Nat) (hen : s.hif.msixEn = true)
    (hvec : bit (s.ctx c).msixMask.toNat vec = true) :
    s.message c vec = s.setCtx c { s.ctx c with msixPend := (s.ctx c).msixPend ||| BitVec.ofNat 32 (2 ^ vec) } := by
  simp [Dev.message, hen, hvec]

/-- Sending, holding or leaving pending: a message changes pending bits, or the messages that are kept. -/
theorem Dev.message_cases (s : Dev) (c vec : Nat) :
    (∃ p, s.message c vec = s.setCtx c { s.ctx c with msixPend := p }) ∨
      ∃ ms hs, s.message c vec = { s with hif := { s.hif with msgs := ms, heldMsgs := hs } } := by
  unfold Dev.message
  dsimp only
  split
  · exact .inr ⟨s.hif.msgs, s.hif.heldMsgs, rfl⟩
  · split
    · exact .inl ⟨_, rfl⟩
    · split
      · exact .inr ⟨_, s.hif.heldMsgs, rfl⟩
      · exact .inr ⟨s.hif.msgs, _, rfl⟩

@[simp] theorem Dev.hostMem_message (s : Dev) (c vec : Nat) : (s.message c vec).hif.hostMem = s.hif.hostMem := by
  obtain ⟨p, h⟩ | ⟨ms, hs, h⟩ := s.message_cases c vec <;> simp [h]

theorem Dev.sansPending_message (s : Dev) (c vec : Nat) :
    ((s.message c vec).ctx c).sansPending = (s.ctx c).sansPending := by
  obtain ⟨p, h⟩ | ⟨ms, hs, h⟩ := s.message_cases c vec
  · simp [h, Ctx.sansPending]
  · rw [h]; rfl

theorem Dev.ctx_message_ne (s : Dev) {c k : Nat} (vec : Nat) (h : k ≠ c) : (s.message c vec).ctx k = s.ctx k := by
  obtain ⟨p, hm⟩ | ⟨ms, hs, hm⟩ := s.message_cases c vec
  · simp [hm, h]
  · rw [hm]; rfl

theorem Dev.rings_message (s : Dev) (c vec : Nat) : ((s.message c vec).ctx c).rings = (s.ctx c).rings :=
  (congrArg Ctx.rings (s.sansPending_message c vec) :)

@[simp] theorem Dev.ring_message (s : Dev) (c vec r : Nat) : (s.message c vec).ring c r = s.ring c r := by
  rw [Dev.ring, Dev.rings_message]; rfl

/-! ## What a counted and written record can change (R350) -/

/-- A record that is counted changes the ring's count, and sends a message or none. -/
theorem Dev.countRecord_cases (s : Dev) (c r : Nat) (now : Bool) :
    s.countRecord c r now = s ∨ ∃ n, s.countRecord c r now = s.setRing c r { s.ring c r with k := n } ∨
      s.countRecord c r now = (s.setRing c r { s.ring c r with k := n }).message c (s.ring c r).vec.toNat := by
  unfold Dev.countRecord
  dsimp only
  split
  · exact .inl rfl
  · split
    · exact .inr ⟨0, .inr rfl⟩
    · exact .inr ⟨_, .inl rfl⟩

@[simp] theorem Dev.hostMem_countRecord (s : Dev) (c r : Nat) (now : Bool) :
    (s.countRecord c r now).hif.hostMem = s.hif.hostMem := by
  obtain h | ⟨n, h | h⟩ := s.countRecord_cases c r now <;> simp [h]

@[simp] theorem Dev.dev_countRecord (s : Dev) (c r : Nat) (now : Bool) :
    ((s.countRecord c r now).ring c r).dev = (s.ring c r).dev := by
  obtain h | ⟨n, h | h⟩ := s.countRecord_cases c r now <;> simp [h]

theorem Ctx.sansRings_of_sansPending {x y : Ctx} (h : x.sansPending = y.sansPending) : x.sansRings = y.sansRings :=
  congrArg (fun z : Ctx => { z with rings := [] }) h

@[simp] theorem Dev.sansRings_setRing (s : Dev) (c r : Nat) (g : Ring) :
    ((s.setRing c r g).ctx c).sansRings = (s.ctx c).sansRings := by
  rw [Dev.ctx_setRing_self]; rfl

@[simp] theorem Dev.sansRings_countRecord (s : Dev) (c r : Nat) (now : Bool) :
    ((s.countRecord c r now).ctx c).sansRings = (s.ctx c).sansRings := by
  obtain h | ⟨n, h | h⟩ := s.countRecord_cases c r now
  · rw [h]
  · rw [h, Dev.sansRings_setRing]
  · rw [h, Ctx.sansRings_of_sansPending (Dev.sansPending_message _ c _), Dev.sansRings_setRing]

theorem Dev.ctx_countRecord_ne (s : Dev) {c k : Nat} (r : Nat) (now : Bool) (hk : k ≠ c) :
    (s.countRecord c r now).ctx k = s.ctx k := by
  obtain h | ⟨n, h | h⟩ := s.countRecord_cases c r now
  · rw [h]
  · rw [h, Dev.ctx_setRing_ne _ _ _ hk]
  · rw [h, Dev.ctx_message_ne _ _ hk, Dev.ctx_setRing_ne _ _ _ hk]

/-- The place of the next record of `n` bytes in a ring that the device writes. -/
def Ring.writeAddr (g : Ring) (n : Nat) : Nat := g.base.toNat * 4096 + g.dev.toNat % g.size * n

theorem Dev.hostMem_ringWrite (s : Dev) (c r : Nat) (bs : List Byte) (now : Bool) :
    (s.ringWrite c r bs now).hif.hostMem = Mem.writeN s.hif.hostMem ((s.ring c r).writeAddr bs.length) bs := by
  simp [Dev.ringWrite, Ring.writeAddr]

theorem Dev.dev_ringWrite (s : Dev) (c r : Nat) (bs : List Byte) (now : Bool) :
    ((s.ringWrite c r bs now).ring c r).dev = (s.ring c r).dev + 1 := by
  simp [Dev.ringWrite]

theorem Dev.sansRings_ringWrite (s : Dev) (c r : Nat) (bs : List Byte) (now : Bool) :
    ((s.ringWrite c r bs now).ctx c).sansRings = (s.ctx c).sansRings := by
  simp only [Dev.ringWrite, Dev.sansRings_countRecord, Dev.sansRings_setRing]; rfl

theorem Dev.ctx_ringWrite_ne (s : Dev) {c k : Nat} (r : Nat) (bs : List Byte) (now : Bool) (h : k ≠ c) :
    (s.ringWrite c r bs now).ctx k = s.ctx k := by
  rw [Dev.ringWrite, Dev.ctx_countRecord_ne _ _ _ h, Dev.ctx_setRing_ne _ _ _ h]; rfl

end Sys2Proof.Machine
end

section
/-! Completion records and the interrupts of rings and vectors (R57, R67, R350, R353): what retirement can change, the bytes
that are written, and O10. -/
namespace Sys2Proof.Machine
open Sys2Proof

/-! ## Bytes written are the bytes read, and no others change -/

theorem Mem.read_writeN_outside (m : Mem) (a x : Nat) (bs : List Byte) (hm : m.wf = true)
    (hx : x < a ∨ a + bs.length ≤ x) : Mem.read (m.writeN a bs) x = Mem.read m x := by
  induction bs generalizing m a with
  | nil => rfl
  | cons b bs ih =>
    rw [List.length_cons] at hx
    have hne : x ≠ a := by omega
    rw [Mem.writeN, ih _ _ (Mem.write_wf m a b hm) (by omega), Mem.read_write m a x b hm, if_neg hne]

theorem Mem.readN_writeN (m : Mem) (a : Nat) (bs : List Byte) (hm : m.wf = true) :
    Mem.readN (m.writeN a bs) a bs.length = bs := by
  induction bs generalizing m a with
  | nil => rfl
  | cons b bs ih =>
    have hw := Mem.write_wf m a b hm
    have first : Mem.read (Mem.writeN (m.write a b) (a + 1) bs) a = b := by
      rw [Mem.read_writeN_outside _ _ _ _ hw (by omega), Mem.read_write m a a b hm, if_pos rfl]
    rw [List.length_cons, Mem.readN, Mem.writeN, first, ih _ _ hw]

theorem Mem.readN_writeN_of_length (m : Mem) (a : Nat) {n : Nat} (bs : List Byte) (hm : m.wf = true) (hn : bs.length = n) :
    Mem.readN (m.writeN a bs) a n = bs :=
  hn ▸ Mem.readN_writeN m a bs hm

theorem Cpl.bytes_length (q : Cpl) (phase : Nat) (r time : U64) (exc : BitVec 9) : (q.bytes phase r time exc).length = 64 := by
  simp [Cpl.bytes, leBytes_length, zeros]

/-! ## What the end of launches can change -/

/-- What the end of a launch leaves alone in its context: everything but the launches and the completion records. -/
def Ctx.sansLaunches (x : Ctx) : Ctx := { x with launches := [], cpls := [] }

/-- From `s` to `t` launches of context `c` have at most gone on, and completion records have joined those waiting. -/
structure Dev.LaunchesGoOn (c : Nat) (s t : Dev) : Prop where
  outer : t.outer = s.outer
  hif : t.hif = s.hif
  others : ∀ k, k ≠ c → t.ctx k = s.ctx k
  sansLaunches : (t.ctx c).sansLaunches = (s.ctx c).sansLaunches
  cpls : (s.ctx c).cpls <+: (t.ctx c).cpls
  positions : (t.ctx c).launches.map Launch.pos = (s.ctx c).launches.map Launch.pos

theorem Dev.LaunchesGoOn.refl (c : Nat) (s : Dev) : Dev.LaunchesGoOn c s s :=
  ⟨rfl, rfl, fun _ _ => rfl, rfl, List.prefix_rfl, rfl⟩

theorem Dev.LaunchesGoOn.trans {c : Nat} {s t u : Dev} (h : Dev.LaunchesGoOn c s t) (g : Dev.LaunchesGoOn c t u) :
    Dev.LaunchesGoOn c s u :=
  ⟨g.outer.trans h.outer, g.hif.trans h.hif, fun k hk => (g.others k hk).trans (h.others k hk),
    g.sansLaunches.trans h.sansLaunches, h.cpls.trans g.cpls, g.positions.trans h.positions⟩

theorem Dev.LaunchesGoOn.foldl {α : Type} (c : Nat) (f : Dev → α → Dev) (hf : ∀ d a, Dev.LaunchesGoOn c d (f d a))
    (xs : List α) (s : Dev) : Dev.LaunchesGoOn c s (xs.foldl f s) := by
  induction xs generalizing s with
  | nil => exact .refl c s
  | cons x xs ih => exact (hf s x).trans (ih _)

theorem Dev.launchesGoOn_modLaunch (s : Dev) (c : Nat) (pos : U32) (f : Launch → Launch) (hf : ∀ l, (f l).pos = l.pos) :
    Dev.LaunchesGoOn c s (s.modLaunch c pos f) where
  outer := rfl
  hif := rfl
  others k hk := by simp [Dev.modLaunch, hk]
  sansLaunches := by simp [Dev.modLaunch, Ctx.sansLaunches]
  cpls := by simp
  positions := by
    have same_pos : Launch.pos ∘ (fun l => if l.pos = pos then f l else l) = Launch.pos := by
      funext l; by_cases h : l.pos = pos <;> simp [h, hf]
    simp [Dev.modLaunch, same_pos]

theorem Dev.launchesGoOn_addCpl (s : Dev) (c : Nat) (q : Cpl) :
    Dev.LaunchesGoOn c s (s.modCtx c (fun x => { x with cpls := x.cpls ++ [q] })) where
  outer := rfl
  hif := rfl
  others k hk := by simp [hk]
  sansLaunches := by simp [Ctx.sansLaunches]
  cpls := by simp
  positions := by simp

theorem Dev.launchesGoOn_finishLaunch (s : Dev) (c : Nat) (pos : U32) (dflt : Status) :
    Dev.LaunchesGoOn c s (s.finishLaunch c pos dflt) := by
  unfold Dev.finishLaunch
  split
  · exact .refl c s
  · exact (s.launchesGoOn_modLaunch c pos (fun l => { l with phase := .ready }) (fun _ => rfl)).trans (Dev.launchesGoOn_addCpl _ c _)

theorem Dev.launchesGoOn_noteTarget (pos : U32) (aborted : Bool) (c : Nat) (s : Dev) (l : Launch) :
    Dev.LaunchesGoOn c s (Dev.noteTarget pos aborted c s l) := by
  unfold Dev.noteTarget
  split
  · have noted := s.launchesGoOn_modLaunch c l.pos (fun k => { k with
      targets := l.targets.filter (· != pos), hit := l.hit || aborted }) (fun _ => rfl)
    dsimp only
    split
    · exact noted.trans (Dev.launchesGoOn_finishLaunch _ c _ _)
    · exact noted
  · exact .refl c s

theorem Dev.launchesGoOn_tryFence (c : Nat) (s : Dev) (l : Launch) : Dev.LaunchesGoOn c s (Dev.tryFence c s l) := by
  unfold Dev.tryFence
  dsimp only
  split
  · exact s.launchesGoOn_finishLaunch c _ _
  · exact .refl c s

/-- Retirement takes the launch out; what waited for it then goes on (R57, R66). -/
theorem Dev.launchesGoOn_retireLaunch (s : Dev) (c : Nat) (pos : U32) (aborted : Bool) :
    Dev.LaunchesGoOn c (s.modCtx c (fun x => x.retire pos)) (s.retireLaunch c pos aborted) :=
  (Dev.LaunchesGoOn.foldl c _ (Dev.launchesGoOn_noteTarget pos aborted c) _ _).trans
    (Dev.LaunchesGoOn.foldl c _ (Dev.launchesGoOn_tryFence c) _ _)

theorem Dev.LaunchesGoOn.pos_ne {c : Nat} {s t : Dev} {pos : U32} (h : Dev.LaunchesGoOn c s t)
    (hs : ∀ l ∈ (s.ctx c).launches, l.pos ≠ pos) : ∀ l ∈ (t.ctx c).launches, l.pos ≠ pos := by
  have absent : pos ∉ (s.ctx c).launches.map Launch.pos := by simpa using hs
  rw [← h.positions] at absent
  simpa using absent

/-! ## The oldest completion record -/

/-- The oldest completion record taken from those waiting, and its launch retired unless it was discarded (R57). -/
def Dev.takeCompletion (s : Dev) (c : Nat) (q : Cpl) (rest : List Cpl) : Dev :=
  let s := s.modCtx c (fun x => { x with cpls := rest })
  if q.status == .faultDiscarded then s else s.retireLaunch c q.pos (q.status == .aborted)

/-- RETIRED of a completion record, with the device that has named it (R57, R318). -/
def Dev.retiredOf (s : Dev) (c : Nat) (q : Cpl) : U64 × Dev :=
  match q.retiredAt with
  | some r => (r, s)
  | none => s.retiredPos c

/-- A taken completion record leaves alone what is outside the contexts, the other contexts, the rings and the exception
flags; the records behind it still wait. -/
theorem Dev.takeCompletion_frame (s : Dev) (c : Nat) (q : Cpl) (rest : List Cpl) :
    let t := s.takeCompletion c q rest
    t.outer = s.outer ∧ t.hif = s.hif ∧ (∀ k, k ≠ c → t.ctx k = s.ctx k) ∧ (t.ctx c).rings = (s.ctx c).rings ∧
      (t.ctx c).exc = (s.ctx c).exc ∧ rest <+: (t.ctx c).cpls := by
  unfold Dev.takeCompletion
  dsimp only
  split
  · refine ⟨rfl, rfl, fun k hk => ?_, ?_, ?_, ?_⟩
    · simp [hk]
    all_goals simp
  · obtain ⟨outer, hif, others, same, cpls, -⟩ :=
      (s.modCtx c (fun x => { x with cpls := rest })).launchesGoOn_retireLaunch c q.pos (q.status == .aborted)
    refine ⟨outer, hif, fun k hk => ?_, ?_, ?_, ?_⟩
    · rw [others k hk]; simp [hk]
    · simpa [Ctx.sansLaunches, Ctx.retire] using congrArg Ctx.rings same
    · simpa [Ctx.sansLaunches, Ctx.retire] using congrArg Ctx.exc same
    · simpa [Ctx.retire] using cpls

/-- A launch whose completion record says anything but FAULT_DISCARDED is no longer outstanding (R57). -/
theorem Dev.pos_ne_takeCompletion (s : Dev) (c : Nat) (q : Cpl) (rest : List Cpl) (hq : q.status ≠ .faultDiscarded) :
    ∀ l ∈ ((s.takeCompletion c q rest).ctx c).launches, l.pos ≠ q.pos := by
  have retires : s.takeCompletion c q rest =
      (s.modCtx c (fun x => { x with cpls := rest })).retireLaunch c q.pos (q.status == .aborted) := by
    simp [Dev.takeCompletion, hq]
  rw [retires]
  exact (Dev.launchesGoOn_retireLaunch _ c q.pos _).pos_ne (by simp [Ctx.retire])

/-- A FAULT_DISCARDED record leaves the outstanding launches as they are (R57). -/
theorem Dev.launches_takeCompletion_discarded (s : Dev) (c : Nat) (q : Cpl) (rest : List Cpl)
    (hq : q.status = .faultDiscarded) : ((s.takeCompletion c q rest).ctx c).launches = (s.ctx c).launches := by
  simp [Dev.takeCompletion, hq]

theorem Dev.retiredOf_of_some (s : Dev) (c : Nat) (q : Cpl) (r : U64) (h : q.retiredAt = some r) :
    s.retiredOf c q = (r, s) := by
  simp [Dev.retiredOf, h]

/-- Once a record has retired, the last retired position is known (R57). -/
theorem Dev.retiredOf_of_none (s : Dev) (c : Nat) (q : Cpl) (h : q.retiredAt = none) (hpos : 0 < (s.ctx c).retired) :
    s.retiredOf c q = (BitVec.ofNat 64 (((s.ctx c).retired - 1) % 2 ^ 32), s) := by
  simp [Dev.retiredOf, h, Dev.retiredPos, Nat.pos_iff_ne_zero.1 hpos]

/-- Naming RETIRED draws at most a free value (log entry 13). -/
theorem Dev.retiredOf_device (s : Dev) (c : Nat) (q : Cpl) : ∃ n, (s.retiredOf c q).2 = { s with freeCtr := n } := by
  unfold Dev.retiredOf
  split
  · exact ⟨s.freeCtr, rfl⟩
  · unfold Dev.retiredPos
    dsimp only
    split
    · exact ⟨s.freeCtr + 1, rfl⟩
    · exact ⟨s.freeCtr, rfl⟩

/-- The write of the oldest completion record: it is taken, its RETIRED named, and its bytes written to the ring. -/
theorem Dev.writeCompletion_eq (s : Dev) (c : Nat) (q : Cpl) (rest : List Cpl) (hq : (s.ctx c).cpls = q :: rest)
    (hcan : s.canComplete c = true) : ∃ n,
    s.writeCompletion c = { s.takeCompletion c q rest with freeCtr := n }.ringWrite c 1
      (q.bytes (s.ring c 1).phase ((s.takeCompletion c q rest).retiredOf c q).1 s.time.ns (s.ctx c).exc) false := by
  obtain ⟨n, named⟩ := (s.takeCompletion c q rest).retiredOf_device c q
  obtain ⟨outer, -, -, rings, exc, -⟩ := s.takeCompletion_frame c q rest
  have steps : s.writeCompletion c =
      let r := (s.takeCompletion c q rest).retiredOf c q
      r.2.ringWrite c 1 (q.bytes (r.2.ring c 1).phase r.1 r.2.time.ns (r.2.ctx c).exc) false := by
    unfold Dev.writeCompletion
    simp only [hq, hcan]
    rfl
  have ring : ({ s.takeCompletion c q rest with freeCtr := n } : Dev).ring c 1 = s.ring c 1 :=
    congrArg (fun g => Tab.get ({} : Ring) g 1) rings
  have time : ({ s.takeCompletion c q rest with freeCtr := n } : Dev).time = s.time := (congrArg Dev.time outer :)
  have flags : (({ s.takeCompletion c q rest with freeCtr := n } : Dev).ctx c).exc = (s.ctx c).exc := exc
  refine ⟨n, steps.trans ?_⟩
  simp only [named, ring, time, flags]

section
variable {s : Dev} {c : Nat} {q : Cpl} {rest : List Cpl} (hq : (s.ctx c).cpls = q :: rest) (hcan : s.canComplete c = true)
include hq hcan

/-- The 64 bytes of the record go to the ring's write index. -/
theorem Dev.hostMem_writeCompletion :
    (s.writeCompletion c).hif.hostMem = Mem.writeN s.hif.hostMem ((s.ring c 1).writeAddr 64)
      (q.bytes (s.ring c 1).phase ((s.takeCompletion c q rest).retiredOf c q).1 s.time.ns (s.ctx c).exc) := by
  obtain ⟨n, written⟩ := Dev.writeCompletion_eq s c q rest hq hcan
  obtain ⟨-, hif, -, rings, -, -⟩ := s.takeCompletion_frame c q rest
  have ring : ({ s.takeCompletion c q rest with freeCtr := n } : Dev).ring c 1 = s.ring c 1 :=
    congrArg (fun g => Tab.get ({} : Ring) g 1) rings
  have before : ({ s.takeCompletion c q rest with freeCtr := n } : Dev).hif = s.hif := hif
  rw [written, Dev.hostMem_ringWrite, Cpl.bytes_length, ring, before]

theorem Dev.dev_writeCompletion : ((s.writeCompletion c).ring c 1).dev = (s.ring c 1).dev + 1 := by
  obtain ⟨n, written⟩ := Dev.writeCompletion_eq s c q rest hq hcan
  obtain ⟨-, -, -, rings, -, -⟩ := s.takeCompletion_frame c q rest
  rw [written, Dev.dev_ringWrite]
  exact congrArg (fun g => (Tab.get ({} : Ring) g 1).dev + 1) rings

/-- Rings and pending bits apart, the context is what the taking of the record left. -/
theorem Dev.sansRings_writeCompletion :
    ((s.writeCompletion c).ctx c).sansRings = ((s.takeCompletion c q rest).ctx c).sansRings := by
  obtain ⟨n, written⟩ := Dev.writeCompletion_eq s c q rest hq hcan
  rw [written, Dev.sansRings_ringWrite]; rfl

theorem Dev.outer_writeCompletion : ∃ n, (s.writeCompletion c).outer = { s.outer with freeCtr := n } := by
  obtain ⟨n, written⟩ := Dev.writeCompletion_eq s c q rest hq hcan
  obtain ⟨outer, -, -, -, -, -⟩ := s.takeCompletion_frame c q rest
  exact ⟨n, by rw [written, Dev.outer_ringWrite, ← outer]; rfl⟩

theorem Dev.ctx_writeCompletion_ne {k : Nat} (hk : k ≠ c) : (s.writeCompletion c).ctx k = s.ctx k := by
  obtain ⟨n, written⟩ := Dev.writeCompletion_eq s c q rest hq hcan
  obtain ⟨-, -, others, -, -, -⟩ := s.takeCompletion_frame c q rest
  rw [written, Dev.ctx_ringWrite_ne _ _ _ _ hk]; exact others k hk

end

theorem exec_completionRecordWrite (c : CtxId) (s : State) :
    exec (.completionRecordWrite c) s = .next (s.withDev (s.dev.writeCompletion c.val)) := rfl

/-! ## Interrupts of rings and vectors (R353) -/

theorem exec_interruptTimer (c : CtxId) (r : Fin 4) (s : State) :
    exec (.interruptTimer c r) s = .next (s.withDev (s.dev.ringTimer c.val r.val)) := rfl

/-- The timer of a ring with records counted sends the ring's message. -/
theorem Dev.ringTimer_of_counted (s : Dev) (c r : Nat) (hien : (s.ring c r).ien = true) (htimer : (s.ring c r).itimer ≠ 0)
    (hk : 0 < (s.ring c r).k) :
    s.ringTimer c r = (s.setRing c r { s.ring c r with k := 0 }).message c (s.ring c r).vec.toNat := by
  have armed : ((s.ring c r).ien && (s.ring c r).itimer != 0 && decide (0 < (s.ring c r).k)) = true := by
    simpa [hien, hk] using htimer
  simp only [Dev.ringTimer, armed, if_true]

theorem Dev.ringTimer_of_none (s : Dev) (c r : Nat) (hk : (s.ring c r).k = 0) : s.ringTimer c r = s := by
  simp [Dev.ringTimer, hk]

theorem exec_msixVectorUnmask (v : Fin 2048) (s : State) (hbar : s.dev.barOpen = true) :
    exec (.msixVectorUnmask v) s = .next (s.withDev (s.dev.maskVector v.val false)) := by
  show State.onDev s _ = _
  simp [hbar]

theorem Dev.up_of_barOpen (s : Dev) (h : s.barOpen = true) : s.hif.up = true := by
  simp only [Dev.barOpen, Bool.and_eq_true] at h
  obtain ⟨⟨⟨-, hup⟩, -⟩, -⟩ := h
  exact hup

/-- Vector `v` with its mask bit cleared. -/
def Dev.unmasked (s : Dev) (v : Nat) : Dev :=
  s.modCtx (v / 32) (fun x => { x with msixMask := x.msixMask &&& ~~~(BitVec.ofNat 32 (2 ^ (v % 32))) })

theorem Dev.maskVector_unmask (s : Dev) (v : Nat) :
    s.maskVector v false = (s.unmasked v).sendPending (v / 32) (v % 32) := rfl

theorem Dev.mask_unmasked (s : Dev) (v : Nat) : bit ((s.unmasked v).ctx (v / 32)).msixMask.toNat (v % 32) = false := by
  simpa only [Dev.unmasked, Dev.ctx_modCtx, if_true] using bit_clear_self (Nat.mod_lt v (by decide)) _

theorem Dev.msixPend_unmasked (s : Dev) (v : Nat) :
    ((s.unmasked v).ctx (v / 32)).msixPend = (s.ctx (v / 32)).msixPend := by
  simp [Dev.unmasked]

/-- While MSI-X is disabled, the function masked, or nothing pending, no message leaves. -/
theorem Dev.sendPending_of_quiet (s : Dev) (c i : Nat)
    (h : s.hif.msixEn = false ∨ s.hif.msixFnMask = true ∨ bit (s.ctx c).msixPend.toNat i = false) : s.sendPending c i = s := by
  obtain h | h | h := h <;> simp [Dev.sendPending, Hif.msixOpen, h]

section
variable {s : Dev} {c i : Nat} (hen : s.hif.msixEn = true) (hfn : s.hif.msixFnMask = false) (hup : s.hif.up = true)
  (hmask : bit (s.ctx c).msixMask.toNat i = false) (hpend : bit (s.ctx c).msixPend.toNat i = true)
include hen hfn hup hmask hpend

/-- A pending message that nothing masks is sent, and its vector is no longer pending. -/
theorem Dev.sendPending_of_open :
    s.sendPending c i = { s.setCtx c { s.ctx c with msixPend := (s.ctx c).msixPend &&& ~~~(BitVec.ofNat 32 (2 ^ i)) } with
      hif := { s.hif with msgs := s.hif.msgs ++ [32 * c + i] } } := by
  have step : s.sendPending c i =
      (s.setCtx c { s.ctx c with msixPend := (s.ctx c).msixPend &&& ~~~(BitVec.ofNat 32 (2 ^ i)) }).message c i := by
    simp [Dev.sendPending, Hif.msixOpen, hen, hfn, hmask, hpend]
  exact step.trans (Dev.message_of_open (s.setCtx c _) c i hen hfn (by simpa using hmask) hup)

theorem Dev.ctx_sendPending_of_open :
    (s.sendPending c i).ctx c = { s.ctx c with msixPend := (s.ctx c).msixPend &&& ~~~(BitVec.ofNat 32 (2 ^ i)) } := by
  rw [Dev.sendPending_of_open hen hfn hup hmask hpend]
  exact (Dev.ctx_setCtx s c c _).trans (if_pos rfl)

end

/-- Settles O10: a completion record is taken (`Dev.takeCompletion`) and written to its ring (`Dev.ringWrite`); the timer
of a ring and the unmasking of a vector send a message, by what masks its vector. -/
theorem recordsAndInterruptsAreSent : Obligations.RecordsAndInterruptsAreSent := by
  refine ⟨fun c s q rest hq hen hroom hup hmem => ?_, fun c r s hien htimer hk hup hen hfn => ?_, fun c r s hk => ?_,
    fun v s hbar => ⟨fun hen hfn hpend => ?_, fun hquiet => ?_⟩⟩
  · have hcan : s.dev.canComplete c.val = true := by simp [Dev.canComplete, hq, hen, hroom, hup]
    obtain ⟨n, outer⟩ := Dev.outer_writeCompletion hq hcan
    obtain ⟨-, -, -, -, -, waiting⟩ := s.dev.takeCompletion_frame c.val q rest
    have hostMem := Dev.hostMem_writeCompletion hq hcan
    have same := Dev.sansRings_writeCompletion hq hcan
    have retired : ((s.dev.writeCompletion c.val).ctx c.val).retired = _ := (congrArg Ctx.retired same :)
    have launches : ((s.dev.writeCompletion c.val).ctx c.val).launches = _ := (congrArg Ctx.launches same :)
    have cpls : ((s.dev.writeCompletion c.val).ctx c.val).cpls = _ := (congrArg Ctx.cpls same :)
    refine ⟨_, ((s.dev.takeCompletion c.val q rest).retiredOf c.val q).1, exec_completionRecordWrite c s, fun x hx => ?_,
      fun hnone hpos => ?_, ?_, fun x hx => ?_, Dev.dev_writeCompletion hq hcan, ?_, fun hst => ?_, fun hst => ?_, rfl,
      (congrArg Dev.time outer :), (congrArg Dev.mem outer :), (congrArg Dev.fab outer :), (congrArg Dev.tiles outer :),
      (congrArg Dev.sync outer :), fun k hk => Dev.ctx_writeCompletion_ne hq hcan hk⟩
    · rw [Dev.retiredOf_of_some _ _ _ _ hx]
    · rw [retired] at hpos ⊢
      rw [Dev.retiredOf_of_none _ _ _ hnone hpos]
      rfl
    · rw [hostMem]
      exact Mem.readN_writeN_of_length _ _ _ hmem (q.bytes_length _ _ _ _)
    · rw [hostMem]
      exact Mem.read_writeN_outside _ _ _ _ hmem (by rwa [Cpl.bytes_length])
    · rw [cpls]; exact waiting
    · rw [launches]; exact s.dev.pos_ne_takeCompletion c.val q rest hst
    · rw [launches]; exact s.dev.launches_takeCompletion_discarded c.val q rest hst
  · have timer := s.dev.ringTimer_of_counted c.val r.val hien htimer hk
    refine ⟨_, exec_interruptTimer c r s, ?_, ?_, rfl, fun hmask => ?_, fun hmask => ?_⟩
    · simp [timer]
    · simp [timer]
    · have sent := Dev.message_of_open (s.dev.setRing c.val r.val { s.dev.ring c.val r.val with k := 0 }) c.val
        (s.dev.ring c.val r.val).vec.toNat hen hfn
        (by simpa [Dev.ctx_setRing_self] using hmask) hup
      exact (congrArg Dev.hif (timer.trans sent) :)
    · have pends := Dev.message_of_masked (s.dev.setRing c.val r.val { s.dev.ring c.val r.val with k := 0 }) c.val
        (s.dev.ring c.val r.val).vec.toNat hen
        (by simpa [Dev.ctx_setRing_self] using hmask)
      refine ⟨?_, (congrArg Dev.hif (timer.trans pends) :)⟩
      rw [State.withDev, timer, pends, Dev.ctx_setCtx, if_pos rfl]
      exact bit_set_self (s.dev.ring c.val r.val).vec.isLt _
  · rw [exec_interruptTimer, s.dev.ringTimer_of_none c.val r.val hk]
  · have hup := s.dev.up_of_barOpen hbar
    have hmask := s.dev.mask_unmasked v.val
    rw [← Dev.msixPend_unmasked] at hpend
    have sent := Dev.sendPending_of_open (s := s.dev.unmasked v.val) hen hfn hup hmask hpend
    have vector := Dev.ctx_sendPending_of_open (s := s.dev.unmasked v.val) hen hfn hup hmask hpend
    refine ⟨_, exec_msixVectorUnmask v s hbar, ?_, ?_, ?_, ?_, rfl⟩
    · rw [State.withDev, Dev.maskVector_unmask, sent, Nat.div_add_mod]; rfl
    · rw [State.withDev, Dev.maskVector_unmask, vector]; exact hmask
    · rw [State.withDev, Dev.maskVector_unmask, vector]; exact bit_clear_self (Nat.mod_lt v.val (by decide)) _
    · rw [State.withDev, Dev.maskVector_unmask, sent]; rfl
  · rw [exec_msixVectorUnmask v s hbar, Dev.maskVector_unmask, Dev.sendPending_of_quiet _ _ _ (by rwa [Dev.msixPend_unmasked])]
    rfl

end Sys2Proof.Machine
end

section
/-! Launch records that pass their checks (R55, R58 to R60, R65, R66): what each type's record does, and O11. -/
namespace Sys2Proof.Machine
open Sys2Proof

theorem exec_load (c : CtxId) (s : State) : exec (.load c) s =
    .next (s.withDev (s.dev.readRecord c.val 1 (fun d l => d.acceptLoad c.val l))) := rfl

theorem exec_loadChain (c : CtxId) (s : State) : exec (.loadChain c) s =
    .next (s.withDev (s.dev.readRecord c.val 3 (fun d l => d.acceptLoad c.val l))) := rfl

theorem exec_start (c : CtxId) (s : State) : exec (.start c) s =
    .next (s.withDev (s.dev.readRecord c.val 2 (fun d l => d.startPart c.val l))) := rfl

theorem exec_abort (c : CtxId) (s : State) : exec (.abort c) s =
    .next (s.withDev (s.dev.readRecord c.val 4 (fun d l => d.acceptAbort c.val l))) := rfl

theorem exec_fence (c : CtxId) (s : State) : exec (.fence c) s =
    .next (s.withDev (s.dev.readRecord c.val 5 (fun d l => d.acceptFence c.val l))) := rfl

/-- A record of the command's type that passes its checks is read and accepted. -/
theorem Dev.readRecord_of_good (s : Dev) (c type : Nat) (accept : Dev → Launch → Dev) (hread : s.canRead c = true)
    (hgood : s.recordFail c (s.peek c) = none) (htype : (s.peek c).type.toNat = type) :
    s.readRecord c type accept = accept (s.takeRecord c).2 (s.takeRecord c).1 := by
  simp [Dev.readRecord, hread, hgood, htype]

/-! ## What an accepted record does -/

/-- A load whose pages are free, or that is forced, begins (R60). -/
theorem Dev.acceptLoad_of_free (s : Dev) (c : Nat) (l : Launch) (htiles : l.record.tiles ≠ [])
    (hfree : l.record.force = true ∨ ∀ t ∈ l.record.tiles, ∀ p ∈ l.record.pages, (s.tile c t).pageInUse p = false) :
    s.acceptLoad c l = s.beginLoad c l.record := by
  have none_busy : (if l.record.force then none
      else l.record.tiles.find? (fun t => l.record.pages.any (s.tile c t).pageInUse)) = none := by
    obtain forced | free := hfree
    · simp [forced]
    · simpa using fun _ => free
  simp [Dev.acceptLoad, none_busy, htiles]

/-- A start that passes the start checks on tiles with room in their start queues begins on each of them (R58, R59). -/
theorem Dev.startPart_of_room (s : Dev) (c : Nat) (l : Launch) (htiles : l.record.tiles ≠ [])
    (hgood : s.startFail c l.record = none) (habort : l.abort = false)
    (hroom : ∀ t ∈ l.record.tiles, (s.tile c t).startq.length < 4 ∧ ((s.tile c t).page l.record.page).st ≠ .loading) :
    s.startPart c l = l.record.tiles.foldl (Dev.startTile l.pos l.record c)
      (s.modLaunch c l.pos (fun k => { k with phase := .running, left := l.record.tiles })) := by
  have none_loading : l.record.tiles.any (fun t => ((s.tile c t).page l.record.page).st == .loading) = false := by
    simpa using fun t ht => (hroom t ht).2
  have none_full : l.record.tiles.any (fun t => decide (4 ≤ (s.tile c t).startq.length)) = false := by
    simpa using fun t ht => (hroom t ht).1
  simp [Dev.startPart, htiles, none_loading, hgood, habort, none_full]

/-- An ABORT latches against its targets (R65, R66). -/
theorem Dev.acceptAbort_of_targets (s : Dev) (c : Nat) (l : Launch) (htargets : s.abortTargets c l ≠ []) :
    s.acceptAbort c l = (s.abortTargets c l).foldl (Dev.abortLaunch c)
      (s.modLaunch c l.pos (fun k => { k with phase := .aborting, targets := s.abortTargets c l })) := by
  simp [Dev.acceptAbort, htargets]

/-- A record before the one at `pos`, in ring order, is outstanding. -/
def Ctx.hasEarlier (x : Ctx) (pos : U32) : Prop :=
  ∃ k ∈ x.launches, (k.pos - BitVec.ofNat 32 x.retired).toNat < (pos - BitVec.ofNat 32 x.retired).toNat

/-- What is no FENCE, or has a record before it, does not end as one. -/
theorem Dev.tryFence_of_waiting (s : Dev) (c : Nat) (l : Launch) (h : l.phase = .fence → (s.ctx c).hasEarlier l.pos) :
    Dev.tryFence c s l = s := by
  by_cases fence : l.phase = .fence
  · have earlier : (s.ctx c).launches.any (fun k => decide ((k.pos - BitVec.ofNat 32 (s.ctx c).retired).toNat
        < (l.pos - BitVec.ofNat 32 (s.ctx c).retired).toNat)) = true := by simpa [Ctx.hasEarlier] using h fence
    simp only [Dev.tryFence, earlier, Bool.not_true, Bool.and_false, Bool.false_eq_true, if_false]
  · simp [Dev.tryFence, fence]

theorem foldl_eq_self {α β : Type} (f : α → β → α) (a : α) (xs : List β) (h : ∀ x ∈ xs, f a x = a) : xs.foldl f a = a := by
  induction xs with
  | nil => rfl
  | cons x xs ih =>
    rw [List.foldl_cons, h x List.mem_cons_self]
    exact ih (fun y hy => h y (List.mem_cons_of_mem x hy))

/-- A launch found after a change of the launch at `pos` is one from before, or its changed form. -/
theorem Dev.mem_launches_modLaunch (s : Dev) (c : Nat) (pos : U32) (f : Launch → Launch) (l : Launch) :
    l ∈ ((s.modLaunch c pos f).ctx c).launches ↔ ∃ k ∈ (s.ctx c).launches, (if k.pos = pos then f k else k) = l := by
  simp [Dev.modLaunch]

theorem Dev.retired_modLaunch (s : Dev) (c : Nat) (pos : U32) (f : Launch → Launch) :
    ((s.modLaunch c pos f).ctx c).retired = (s.ctx c).retired := by
  simp [Dev.modLaunch]

/-- A change of a launch that keeps its position keeps which positions have a record before them. -/
theorem Dev.hasEarlier_modLaunch (s : Dev) (c : Nat) (pos p : U32) (f : Launch → Launch) (hf : ∀ l, (f l).pos = l.pos)
    (h : (s.ctx c).hasEarlier p) : ((s.modLaunch c pos f).ctx c).hasEarlier p := by
  obtain ⟨k, hk, hlt⟩ := h
  refine ⟨_, (s.mem_launches_modLaunch c pos f _).2 ⟨k, hk, rfl⟩, ?_⟩
  rw [Dev.retired_modLaunch, show (if k.pos = pos then f k else k).pos = k.pos by split <;> simp [hf]]
  exact hlt

/-- A FENCE behind an outstanding record waits; no other FENCE is outstanding. -/
theorem Dev.acceptFence_of_earlier (s : Dev) (c : Nat) (l : Launch)
    (hfence : ∀ k ∈ (s.ctx c).launches, k.phase = .fence → k.pos = l.pos) (hearlier : (s.ctx c).hasEarlier l.pos) :
    s.acceptFence c l = s.modLaunch c l.pos (fun k => { k with phase := .fence }) := by
  refine foldl_eq_self _ _ _ (fun m hm => Dev.tryFence_of_waiting _ c m (fun phase => ?_))
  obtain ⟨k, hk, rfl⟩ := (s.mem_launches_modLaunch c l.pos _ m).1 hm
  have at_pos : k.pos = l.pos := by
    by_cases here : k.pos = l.pos
    · exact here
    · rw [if_neg here] at phase
      exact hfence k hk phase
  rw [if_pos at_pos]
  refine s.hasEarlier_modLaunch c l.pos _ _ (fun _ => rfl) ?_
  rw [at_pos]
  exact hearlier

/-! ## O11 -/

/-- While a FENCE is outstanding no record is read (Table 2.14). -/
theorem Dev.phase_ne_fence_of_canRead (s : Dev) (c : Nat) (h : s.canRead c = true) :
    ∀ l ∈ (s.ctx c).launches, l.phase ≠ .fence := by
  simp only [Dev.canRead, Bool.and_eq_true, Bool.not_eq_true', List.any_eq_false, Bool.or_eq_true, beq_iff_eq, not_or] at h
  obtain ⟨⟨-, phases⟩, -⟩ := h
  exact fun l hl => (phases l hl).1

/-- Settles O11: the record is read (`Dev.takeRecord`) and accepted, and each type's lemma says what it does. -/
theorem dispatcherActsOnRecords : Obligations.DispatcherActsOnRecords := by
  intro c s hread hgood r d pos
  have accepted (type : Nat) (accept : Dev → Launch → Dev) (htype : r.type.toNat = type) {e : Dev}
      (he : accept d (s.dev.takeRecord c.val).1 = e) :
      Host.Outcome.next (s.withDev (s.dev.readRecord c.val type accept)) =
        (Host.Outcome.next (s.withDev e) : Host.Outcome State Fault Refusal) := by
    rw [s.dev.readRecord_of_good c.val type accept hread hgood htype, he]
  refine ⟨fun htype htiles hfree => ?_, fun htype htiles hfree => ?_, fun htype htiles hstart hroom => ?_,
    fun htype ts hts hne => ?_, fun htype hearlier => ?_⟩
  · rw [exec_load]
    exact accepted 1 _ (by rw [htype]; rfl) (d.acceptLoad_of_free c.val _ htiles hfree)
  · rw [exec_loadChain]
    exact accepted 3 _ (by rw [htype]; rfl) (d.acceptLoad_of_free c.val _ htiles hfree)
  · rw [exec_start]
    exact accepted 2 _ (by rw [htype]; rfl) (d.startPart_of_room c.val _ htiles hstart rfl hroom)
  · subst hts
    rw [exec_abort]
    exact accepted 4 _ (by rw [htype]; rfl) (d.acceptAbort_of_targets c.val _ hne)
  · have launches : (d.ctx c.val).launches = (s.dev.ctx c.val).launches ++ [(s.dev.takeRecord c.val).1] := by
      rw [Dev.ctx_takeRecord_self]
    have retired : (d.ctx c.val).retired = (s.dev.ctx c.val).retired := by rw [Dev.ctx_takeRecord_self]
    have only_fence : ∀ k ∈ (d.ctx c.val).launches, k.phase = .fence → k.pos = pos := by
      intro k hk phase
      rw [launches, List.mem_append, List.mem_singleton] at hk
      obtain old | rfl := hk
      · exact absurd phase (s.dev.phase_ne_fence_of_canRead c.val hread k old)
      · rfl
    have earlier : (d.ctx c.val).hasEarlier pos := by
      obtain ⟨k, hk, hlt⟩ := hearlier
      exact ⟨k, by rw [launches]; exact List.mem_append_left _ hk, by rw [retired]; exact hlt⟩
    rw [exec_fence]
    exact accepted 5 _ (by rw [htype]; rfl) (d.acceptFence_of_earlier c.val _ only_fence earlier)

end Sys2Proof.Machine
end

section
/-! Tiles and their pages (R58, R60, R61): what is read after a write, the generations of loaded and discarded pages, the
end of a load, the start queues, and O13 and O14. -/
namespace Sys2Proof.Machine
open Sys2Proof

/-! ## Reads after writes -/

/-- A mapped table that maps its default to itself reads the mapped value. -/
theorem Tab.get_mapV {α : Type} (d : α) (f : α → α) (hd : f d = d) (t : Tab α) (k : Nat) :
    Tab.get d (Tab.mapV f t) k = f (Tab.get d t k) := by
  induction t with
  | nil => exact hd.symm
  | cons e t ih =>
    have rest : Tab.get d (Tab.mapV f t) k = f (Tab.get d t k) := ih
    by_cases h : k = e.1
    · simp [Tab.mapV, Tab.get_cons, h]
    · rw [Tab.get_cons, if_neg h, ← rest]
      exact if_neg h

theorem Tile.page_setPage (x : Tile) (p q : Nat) (v : Page) : (x.setPage p v).page q = if q = p then v else x.page q :=
  Tab.get_set _ _ _ _ _

/-- A backed tile reads as it was written. -/
theorem Dev.tile_setTile (s : Dev) (c t : Nat) (v : Tile) (h : (s.tile? c t).isSome = true) :
    (s.setTile c t v).tile c t = v := by
  by_cases away : (s.ctx c).away = true
  · have inside : t < (s.ctx c).ntile.toNat := by
      by_cases inside : t < (s.ctx c).ntile.toNat
      · exact inside
      · simp [Dev.tile?, away, inside] at h
    have still_away : ({ s.ctx c with saved := Tab.set (s.ctx c).saved t v } : Ctx).away = true := away
    simp [Dev.tile, Dev.tile?, Dev.setTile, away, inside, still_away]
  · cases backed : Tab.find (s.ctx c).backs t with
    | none => simp [Dev.tile?, away, backed] at h
    | some p =>
      have same : (s.setPtile p { s.ptile p with tile := v }).ctx c = s.ctx c := rfl
      simp [Dev.tile, Dev.tile?, Dev.setTile, away, backed, same]

theorem Dev.tile_modTile (s : Dev) (c t : Nat) (f : Tile → Tile) (h : (s.tile? c t).isSome = true) :
    (s.modTile c t f).tile c t = f (s.tile c t) :=
  s.tile_setTile c t _ h

/-! ## Generations (R61) -/

theorem LaunchRec.pages_nodup (r : LaunchRec) : r.pages.Nodup :=
  List.Pairwise.map (r.page + ·) (fun _ _ hne h => hne (Nat.add_left_cancel h)) List.nodup_range

/-- A page that is not among those rewritten stays. -/
theorem Tile.page_foldl_of_not_mem (f : Nat → Page → Page) (ps : List Nat) (p : Nat) (x : Tile) (h : p ∉ ps) :
    (ps.foldl (fun x q => x.setPage q (f q (x.page q))) x).page p = x.page p := by
  induction ps generalizing x with
  | nil => rfl
  | cons q ps ih =>
    obtain ⟨hne, hps⟩ := not_or.1 (mt List.mem_cons.2 h)
    rw [List.foldl_cons, ih _ hps, Tile.page_setPage, if_neg hne]

/-- A page among those rewritten is rewritten once. -/
theorem Tile.page_foldl_of_mem (f : Nat → Page → Page) (ps : List Nat) (p : Nat) (x : Tile) (hps : ps.Nodup) (h : p ∈ ps) :
    (ps.foldl (fun x q => x.setPage q (f q (x.page q))) x).page p = f p (x.page p) := by
  induction ps generalizing x with
  | nil => exact absurd h List.not_mem_nil
  | cons q ps ih =>
    obtain ⟨hq, hnodup⟩ := List.nodup_cons.1 hps
    rw [List.foldl_cons]
    obtain rfl | later := List.mem_cons.1 h
    · rw [Tile.page_foldl_of_not_mem f ps p _ hq, Tile.page_setPage, if_pos rfl]
    · have hne : p ≠ q := fun e => hq (e ▸ later)
      rw [ih _ hnodup later, Tile.page_setPage, if_neg hne]

theorem gen_loadedPage (r : LaunchRec) (bs : List Byte) (res : Option (List Nat)) (closing : Bool) (p : Nat) (old : Page) :
    (loadedPage r bs res closing p old).gen = old.gen + 1 := by
  cases res <;> rfl

/-- The pages of a load's record are rewritten on a backed tile. -/
theorem Dev.page_writePages (c t p : Nat) (pos : U32) (r : LaunchRec) (bs : List Byte) (res : Option (List Nat)) (s : Dev)
    (ht : (s.tile? c t).isSome = true) (hp : p ∈ r.pages) :
    ((Dev.writePages c pos r bs res s t).tile c t).page p =
      loadedPage r bs res (s.otherLoader c pos t p) p ((s.tile c t).page p) := by
  have page := Tile.page_foldl_of_mem (fun q => loadedPage r bs res (s.otherLoader c pos t q) q) r.pages p (s.tile c t)
    r.pages_nodup hp
  rw [Dev.writePages, Dev.tile_modTile _ _ _ _ ht, ← page]
  split <;> rfl

/-- What a device fault makes of a page: a load under way on it is discarded (R61, R318). -/
def Page.discarded (p : Page) : Page :=
  if p.st == .loading || p.st == .closing then { st := .empty, chain := false, gen := p.gen + 1 } else p

theorem Tile.page_discardWork (x : Tile) (p : Nat) : x.discardWork.page p = (x.page p).discarded :=
  Tab.get_mapV ({} : Page) Page.discarded rfl x.pages p

/-- Settles O14: every page of a load is rewritten by `loadedPage`, and a discarded load's page by `Tile.discardWork`. -/
theorem loadsAdvanceGenerations : Obligations.LoadsAdvanceGenerations := by
  refine ⟨gen_loadedPage, fun c t p pos r bs res d ht hp => ?_, fun x p hload => ?_⟩
  · rw [Dev.page_writePages c t p pos r bs res d ht hp, gen_loadedPage]
  · simp [Tile.page_discardWork, Page.discarded, hload]

/-! ## The end of a load (R60) -/

theorem exec_pageLoadEnd (c : CtxId) (pos : U32) (s : State) :
    exec (.pageLoadEnd c pos) s = .next (s.withDev (s.dev.pageLoadEnd c.val pos)) := rfl

/-- A load ends once its source can be read and no page of it closes any more: what was read is checked. -/
theorem Dev.pageLoadEnd_of_ready (s : Dev) (c : Nat) (pos : U32) (l : Launch) (a : Addr) (hl : s.launch? c pos = some l)
    (hphase : l.phase = .loading) (hresid : (s.ctx c).resid = .resident)
    (hbusy : ∀ t ∈ l.record.tiles, ∀ p ∈ l.record.pages, (s.tile c t).closingBusy p = false)
    (ha : l.record.srcAddr = some a) (hhost : a.space ≠ .hbm → s.hif.hostUp = true)
    (hpool : a.space = .hbm → s.linesFree (linesOf ((s.ctx c).pool a.off) l.record.bytes)
      (linesOf ((s.ctx c).pool a.off) l.record.bytes)) :
    s.pageLoadEnd c pos = s.finishLoad c l (s.readBytes c a l.record.bytes) := by
  have none_busy : l.record.tiles.any (fun t => l.record.pages.any (s.tile c t).closingBusy) = false := by
    simpa using hbusy
  cases space : a.space with
  | hbm =>
    have performed := s.withPool_of_free _ _ (fun d => d.finishLoad c l (d.readBytes c a l.record.bytes)) (hpool space)
    simp [Dev.pageLoadEnd, hl, hphase, hresid, none_busy, ha, space, performed]
  | tile t | staging d | host | remote x w =>
    have up : s.hif.hostUp = true := hhost (by simp [space])
    simp [Dev.pageLoadEnd, hl, hphase, hresid, none_busy, ha, space, up]

/-- A load whose data passes its check writes its pages and completes, or goes on to its start part (R59, R60). -/
theorem Dev.finishLoad_of_ok (s : Dev) (c : Nat) (l : Launch) (bs : List Byte) (starts : List Nat)
    (hok : l.record.check bs = .ok starts) :
    s.finishLoad c l bs =
      (if l.record.go && l.record.type == 1
        then (l.record.tiles.foldl (Dev.writePages c l.pos l.record bs (some starts)) s).startPart c l
        else (l.record.tiles.foldl (Dev.writePages c l.pos l.record bs (some starts)) s).finishLaunch c l.pos
          .done).retryStarts c := by
  simp [Dev.finishLoad, hok]

/-! ## Programs start (R35, R58) -/

theorem exec_startQueueBegin (c : CtxId) (t : TileId) (s : State) :
    exec (.startQueueBegin c t) s = .next (s.withDev (s.dev.startQueueBegin c.val t.val)) := rfl

/-- The head of a start queue begins on a free tile. -/
theorem Dev.startQueueBegin_of_free (s : Dev) (c t : Nat) (e : StartReq) (rest : List StartReq)
    (hq : (s.tile c t).startq = e :: rest) (hfree : s.freeToStart c t = true) (hresid : (s.ctx c).resid = .resident) :
    s.startQueueBegin c t = (s.setTile c t ({ s.tile c t with startq := rest }.begin' e)).retryStarts c := by
  simp [Dev.startQueueBegin, hq, hfree, hresid]

/-- The registers of a program that begins: the arguments of its launch, and 0 (R35). -/
theorem Tile.reg_begin' (x : Tile) (e : StartReq) (r : Nat) :
    (x.begin' e).reg r = if r = 1 then e.arg1 else if r = 0 then e.arg0 else 0 := by
  simp [Tile.reg, Tile.begin', Tab.get_set]

/-- Settles O13: the ends of loads and the start queues by their lemmas, the registers by `Tile.reg_begin'`, and scalar
arithmetic as that of 64-bit words. -/
theorem loadsAndStartsGoOn : Obligations.LoadsAndStartsGoOn := by
  refine ⟨⟨fun c pos s l a starts hl hphase hresid hbusy ha hhost hpool hok => ?_, fun c t s e rest hq hfree hresid => ?_⟩,
    fun x e => ⟨?_, ?_, fun r hr => ?_⟩, fun a b => ⟨?_, ?_, ?_⟩⟩
  · rw [exec_pageLoadEnd, s.dev.pageLoadEnd_of_ready c.val pos l a hl hphase hresid hbusy ha hhost hpool,
      Dev.finishLoad_of_ok _ _ _ _ _ hok]
  · rw [exec_startQueueBegin, s.dev.startQueueBegin_of_free c.val t.val e rest hq hfree hresid]
  · simp [Tile.reg_begin']
  · simp [Tile.reg_begin']
  · have hne : r ≠ 1 ∧ r ≠ 0 := by omega
    simp [Tile.reg_begin', hne]
  · exact BitVec.toNat_add a b
  · show (a - b).toNat = _
    rw [BitVec.toNat_sub]
    congr 1
    omega
  · exact BitVec.toNat_mul a b

end Sys2Proof.Machine
end

section
/-! The control core (R44 to R49, R207): a word that is issued, the hitch slot, the completion of slots, and O15. -/
namespace Sys2Proof.Machine
open Sys2Proof

theorem exec_wordIssue (c : CtxId) (t : TileId) (s : State) :
    exec (.wordIssue c t) s = .next (s.withDev (s.dev.wordIssue c.val t.val)) := rfl

theorem exec_waitSignal (c : CtxId) (t : TileId) (w : Nat) (s : State) :
    exec (.waitSignal c t w) s = .next (s.withDev (s.dev.waitSignal c.val t.val w)) := rfl

theorem exec_barrier (c : CtxId) (t : TileId) (w : Nat) (s : State) :
    exec (.barrier c t w) s = .next (s.withDev (s.dev.barrier c.val t.val w)) := rfl

theorem exec_slotComplete (c : CtxId) (t : TileId) (w : Nat) (n : Fin 8) (s : State) :
    exec (.slotComplete c t w n) s = .next (s.withDev (s.dev.slotComplete c.val t.val w n.val)) := rfl

/-! ## The next word (R45 to R47) -/

/-- A change of a tile of a context whose tiles are in the device changes no context. -/
theorem Dev.ctx_modTile_of_present (s : Dev) (c t : Nat) (f : Tile → Tile) (h : (s.ctx c).away = false) (k : Nat) :
    (s.modTile c t f).ctx k = s.ctx k := by
  simp only [Dev.modTile, Dev.setTile, h, Bool.false_eq_true, if_false]
  split <;> rfl

theorem Ctx.away_of_resident (x : Ctx) (h : x.resid = .resident) : x.away = false := by
  simp [Ctx.away, h]

@[simp] theorem Prog.pos_latch (g : Prog) (w : RawWord) (x : Tile) : (g.latch w x).pos = g.pos := by
  unfold Prog.latch; split <;> rfl

/-- What holds nothing of the next word back before its waits: the program runs, no barrier entry stalls the core, and the
word's page is loaded in the program's generation (R45, R64, R207). -/
structure Dev.MayFetch (s : Dev) (c t : Nat) (g : Prog) : Prop where
  prog : (s.tile c t).prog = some g
  runs : g.stopped = false
  resident : (s.ctx c).resid = .resident
  unstalled : s.barrierStall c t (s.tile c t) = false
  loaded : ((s.tile c t).page (g.off / 4096)).st = .loaded
  fresh : (s.tile c t).fetchStale g = false

/-- The next word of a program that may fetch it, and that neither an abort nor an empty loop takes away, asks its waits;
with every wait taken it is checked and placed. -/
theorem Dev.wordIssue_of_waits (s d : Dev) (c t : Nat) (g g1 g' : Prog) (w : RawWord) (may : s.MayFetch c t g)
    (habort : ∀ l, s.launch? c g.pos = some l → l.abort = false)
    (hw : (s.tile c t).fetch g.off = w) (hg1 : g.latch w (s.tile c t) = g1)
    (hloop : w.lstart = false ∨ g1.returning = true ∨ g1.count ≠ some 0)
    (hwaits : (s.modTile c t (fun x => { x with prog := some g1 })).askWaits c t w = (none, d))
    (hprog : (d.tile c t).prog = some g') (hfree : d.linesFree (d.wordLines c t w) (d.wordLines c t w)) :
    s.wordIssue c t = d.checkAndPlace c t g' w := by
  obtain ⟨prog, runs, resident, unstalled, loaded, fresh⟩ := may
  have launch : (s.modTile c t (fun x => { x with prog := some g1 })).launch? c g1.pos = s.launch? c g.pos := by
    rw [Dev.launch?, Dev.ctx_modTile_of_present _ _ _ _ (Ctx.away_of_resident _ resident), ← hg1, Prog.pos_latch]; rfl
  have no_zero : (w.lstart && !g1.returning && g1.count == some 0) = false := by
    rw [Bool.eq_false_iff]
    intro zero
    simp only [Bool.and_eq_true, Bool.not_eq_true', beq_iff_eq] at zero
    obtain ⟨⟨start, first⟩, count⟩ := zero
    obtain h | h | h := hloop
    · simp [start] at h
    · simp [first] at h
    · exact h count
  have placed := d.withPool_of_free _ _ (fun d => d.checkAndPlace c t g' w) hfree
  unfold Dev.wordIssue
  simp only [prog, runs, resident, unstalled, loaded, fresh, hw, hg1, launch, no_zero, hwaits, hprog, placed]
  cases found : s.launch? c g.pos with
  | none => simp
  | some l => simp [habort l found]

/-! ## The hitch slot (R44, R207) -/

/-- The signals of a word whose slots have completed are raised. -/
theorem Dev.waitSignal_of_done (s : Dev) (c t seq : Nat) (w : IWord) (h : HSlot) (hw : (s.tile c t).word? seq = some w)
    (hh : w.hitch = some h) (hbar : h.barrier = false) (hfin : h.fin = false) (hdone : w.slotsDone = true)
    (haway : (s.ctx c).away = false) :
    s.waitSignal c t seq = (s.modTile c t (fun x =>
      x.modWord seq (fun w => { w with hitch := some { h with fin := true } }))).runJobs
        (raiseJobs c [h.sig1, h.sig2] ++ [.sweep c t]) := by
  simp [Dev.waitSignal, hw, hh, hbar, hfin, hdone, haway]

/-- A word with BARRIER whose slots have completed enters its group where the group takes it. -/
theorem Dev.barrier_of_entered (s d : Dev) (c t seq : Nat) (w : IWord) (h : HSlot) (g : HRef)
    (hw : (s.tile c t).word? seq = some w) (hh : w.hitch = some h) (hg : h.group = some g) (hbar : h.barrier = true)
    (hfin : h.fin = false) (hent : h.entered = false) (hdone : w.slotsDone = true) (haway : (s.ctx c).away = false)
    (henter : (s.modTile c t (fun x =>
      x.modWord seq (fun w => { w with hitch := some { h with entered := true } }))).enterBarrier c t seq g.key = (true, d)) :
    s.barrier c t seq = d := by
  have may : (!h.barrier || h.fin || h.entered || !w.slotsDone || (s.ctx c).away) = false := by
    simp [hbar, hfin, hent, hdone, haway]
  have grouped : (some h).bind (·.group) = some g := hg
  simp only [Dev.barrier, hw, hh, grouped, may, henter, Bool.false_eq_true, if_false]

/-! ## Completion (R49) -/

/-- A performed slot that need not wait completes. -/
theorem Dev.slotComplete_of_performed (s : Dev) (c t seq num : Nat) (y : ISlot) (hy : (s.tile c t).slot? seq num = some y)
    (hst : y.st = .performed) (haway : (s.ctx c).away = false) (hwait : (s.tile c t).mustWait seq y = false) :
    s.slotComplete c t seq num = ((s.modTile c t (fun x => ((x.takeResult y.res).commit y.work).modSlot seq num
      (fun z => { z with st := .ended, work := [] }))).postFlags c y.flags).runJobs
        (raiseJobs c [y.sig] ++ [.arm c t num, .sweep c t]) := by
  simp [Dev.slotComplete, hy, hst, haway, hwait]

/-- Settles O15: the issue of a word, its hitch slot and the completion of a slot, each by its lemma. -/
theorem wordsGoOn : Obligations.WordsGoOn := by
  refine ⟨fun c t s d g g' prog runs resident unstalled loaded fresh habort hloop hwaits hprog hfree => ?_,
    fun c t seq s w h hw hh hbar hfin hdone haway => ?_,
    fun c t seq s d w h g hw hh hg hbar hfin hent hdone haway henter => ?_,
    fun c t seq num s y hy hst haway hwait => ?_⟩
  · rw [exec_wordIssue, s.dev.wordIssue_of_waits d c.val t.val g _ g' _ ⟨prog, runs, resident, unstalled, loaded, fresh⟩
      habort rfl rfl hloop hwaits hprog hfree]
  · rw [exec_waitSignal, s.dev.waitSignal_of_done c.val t.val seq w h hw hh hbar hfin hdone haway]
  · rw [exec_barrier, s.dev.barrier_of_entered d c.val t.val seq w h g hw hh hg hbar hfin hent hdone haway henter]
  · rw [exec_slotComplete, s.dev.slotComplete_of_performed c.val t.val seq num.val y hy hst haway hwait]

end Sys2Proof.Machine
end

section
/-! What the commands of the control core and of the hitch fabric leave alone (R46, R49, R199, R202, R207, R210, R212), and
O16. `Dev.still` is the device without contexts, tiles, hitches and host interface. -/
namespace Sys2Proof.Machine
open Sys2Proof

/-! ## Barrier groups (R207) -/

@[simp] theorem Dev.still_latchStall (key : Nat) (s : Dev) (e : BarEntry) : (Dev.latchStall key s e).still = s.still := by
  unfold Dev.latchStall; split
  · rfl
  · simp

@[simp] theorem Dev.still_endBarrierWord (s : Dev) (e : BarEntry) : (s.endBarrierWord e).still = s.still :=
  Dev.still_modTile _ _ _ _

@[simp] theorem Dev.still_latchStalls (key : Nat) (es : List BarEntry) (s : Dev) :
    (es.foldl (Dev.latchStall key) s).still = s.still :=
  foldl_keeps Dev.still _ (Dev.still_latchStall key) es s

@[simp] theorem Dev.still_endBarrierWords (es : List BarEntry) (s : Dev) :
    (es.foldl Dev.endBarrierWord s).still = s.still :=
  foldl_keeps Dev.still _ Dev.still_endBarrierWord es s

@[simp] theorem Dev.still_advanceBarrier (s : Dev) (key : Nat) : (s.advanceBarrier key).still = s.still := by
  unfold Dev.advanceBarrier; dsimp only; split
  · rfl
  · simp

@[simp] theorem Dev.still_enterBarrier (s : Dev) (c t seq key : Nat) :
    (s.enterBarrier c t seq key).2.still = s.still := by
  unfold Dev.enterBarrier; dsimp only; split
  · rfl
  · split <;> simp

/-! ## The hitch slot and the completion of slots (R44, R49) -/

@[simp] theorem Dev.still_postFlags (s : Dev) (c : Nat) (f : Flags) : (s.postFlags c f).still = s.still :=
  Dev.still_of_outer (s.outer_postFlags c f)

@[simp] theorem Dev.still_waitSignal (s : Dev) (c t seq : Nat) : (s.waitSignal c t seq).still = s.still := by
  unfold Dev.waitSignal; split
  · rfl
  · split
    · rfl
    · split
      · rfl
      · simp

/-- A word enters its group, or nothing changes. -/
@[simp] theorem Dev.still_barrier (s : Dev) (c t seq : Nat) : (s.barrier c t seq).still = s.still := by
  unfold Dev.barrier; split
  · rfl
  · split
    · split
      · rfl
      · dsimp only
        split
        next d entered =>
          simpa using congrArg (fun r => Dev.still r.2) entered.symm
        · rfl
    · rfl

@[simp] theorem Dev.still_slotComplete (s : Dev) (c t seq num : Nat) : (s.slotComplete c t seq num).still = s.still := by
  unfold Dev.slotComplete; split
  · rfl
  · split
    · rfl
    · simp

/-! ## Operations of SYNC_HITCH_OP (R210, R212) -/

@[simp] theorem Dev.still_syncStatus (s : Dev) (st : Status) : (s.syncStatus st).still = s.still := rfl

/-- An operation on the selected hitch leaves alone what its act leaves alone. -/
theorem Dev.still_hitchOp (s : Dev) (refuse : HEntry → Option Status) (act : Dev → Nat → HEntry → Dev)
    (hact : ∀ c e, (act s c e).still = s.still) : (s.hitchOp refuse act).still = s.still := by
  unfold Dev.hitchOp; split
  · rfl
  · dsimp only; split
    · rfl
    · split
      · rfl
      · simp [hact]

@[simp] theorem Dev.still_poisonHitch (s : Dev) (key : Nat) : (s.poisonHitch key).still = s.still := by
  unfold Dev.poisonHitch; dsimp only; split
  · rfl
  · simp

@[simp] theorem Dev.still_setBarrier (s : Dev) (key : Nat) (g : U16) : (s.setBarrier key g).still = s.still := by
  simp [Dev.setBarrier]

@[simp] theorem Dev.still_setHitchOp (s : Dev) (key : Nat) (n : U32) : (s.setHitchOp key n).still = s.still := by
  unfold Dev.setHitchOp; dsimp only; split <;> simp

/-! ## Start queues (R58) -/

@[simp] theorem Dev.still_startTile (pos : U32) (r : LaunchRec) (c : Nat) (s : Dev) (t : Nat) :
    (Dev.startTile pos r c s t).still = s.still :=
  Dev.still_modTile _ _ _ _

@[simp] theorem Dev.still_refuseLaunch (s : Dev) (c : Nat) (pos : U32) (f : Failure) :
    (s.refuseLaunch c pos f).still = s.still := by
  simp [Dev.refuseLaunch]

/-- A start part ends, waits, is refused, or starts its tiles. -/
@[simp] theorem Dev.still_startPart (s : Dev) (c : Nat) (l : Launch) : (s.startPart c l).still = s.still := by
  unfold Dev.startPart; dsimp only
  split
  · simp
  · split
    · simp
    · split
      · simp
      · split
        · simp
        · split
          · simp
          · rw [foldl_keeps Dev.still _ (Dev.still_startTile l.pos l.record c)]; simp

@[simp] theorem Dev.still_retryStarts (s : Dev) (c : Nat) : (s.retryStarts c).still = s.still := by
  refine foldl_keeps Dev.still _ (fun d l => ?_) _ _
  split
  · simp
  · rfl

@[simp] theorem Dev.still_startQueueBegin (s : Dev) (c t : Nat) : (s.startQueueBegin c t).still = s.still := by
  unfold Dev.startQueueBegin; dsimp only; split
  · rfl
  · split
    · rfl
    · simp

/-! ## O16 -/

/-- The register accesses of SYNC_HITCH_OP, while BAR0 decodes. -/
theorem State.onBar_eq (s : State) (f : Dev → Dev) :
    s.onBar f = .next (s.withDev (if s.dev.barOpen then f s.dev else s.dev)) := rfl

theorem exec_hostSignal (n : U32) (s : State) : exec (.hostSignal n) s =
    s.onBar (fun d => d.hitchOp (fun e => failIf e.barrier .invalidWord) (fun d c e => d.runJobs [.raise c e.key n.toNat])) := rfl

theorem exec_set (n : U32) (s : State) : exec (.set n) s =
    s.onBar (fun d => d.hitchOp (fun e => failIf ((d.hitch e.key).st == .poisoned) .ownerLost)
      (fun d _ e => d.setHitchOp e.key n)) := rfl

theorem exec_poison (s : State) : exec .poison s =
    s.onBar (fun d => d.hitchOp (fun _ => none) (fun d _ e => d.poisonHitch e.key)) := rfl

/-- The outcome changes contexts, tiles, hitches and the host interface alone. -/
def State.StaysStill (s : State) (o : Host.Outcome State Fault Refusal) : Prop :=
  ∀ t, o = .next t → t.dev.still = s.dev.still ∧ t.rst = s.rst

theorem State.staysStill_next (s : State) (d : Dev) (h : d.still = s.dev.still) : s.StaysStill (.next (s.withDev d)) := by
  rintro t ⟨⟩
  exact ⟨h, rfl⟩

theorem State.staysStill_onBar (s : State) (f : Dev → Dev) (h : (f s.dev).still = s.dev.still) : s.StaysStill (s.onBar f) := by
  rw [State.onBar_eq]
  refine s.staysStill_next _ ?_
  split
  · exact h
  · rfl

/-- Settles O16: the frame lemma of each command's effect on the device. -/
theorem controlCoreFrame : Obligations.ControlCoreFrame := by
  intro s t i hi
  suffices still : s.StaysStill (exec i s) from still t
  obtain ⟨c, u, w, rfl⟩ | ⟨c, u, w, rfl⟩ | ⟨c, u, w, n, rfl⟩ | ⟨n, rfl⟩ | ⟨n, rfl⟩ | rfl | ⟨c, u, rfl⟩ := hi
  · exact s.staysStill_next _ (s.dev.still_waitSignal c.val u.val w)
  · exact s.staysStill_next _ (s.dev.still_barrier c.val u.val w)
  · exact s.staysStill_next _ (s.dev.still_slotComplete c.val u.val w n.val)
  · rw [exec_hostSignal]
    exact s.staysStill_onBar _ (s.dev.still_hitchOp _ _ (fun c e => s.dev.still_runJobs _))
  · rw [exec_set]
    exact s.staysStill_onBar _ (s.dev.still_hitchOp _ _ (fun _ e => s.dev.still_setHitchOp e.key n))
  · rw [exec_poison]
    exact s.staysStill_onBar _ (s.dev.still_hitchOp _ _ (fun _ e => s.dev.still_poisonHitch e.key))
  · exact s.staysStill_next _ (s.dev.still_startQueueBegin c.val u.val)

end Sys2Proof.Machine
end

section
/-! The computing engines of a tile: the slot at the head of its queue is performed (R92, R112, R157), and what the commit of
an MMA leaves in the accumulator banks (R93, R108, R109); O18. -/
namespace Sys2Proof.Machine
open Sys2Proof

/-! ## The slot at the head of its queue -/

theorem exec_mma (c : CtxId) (t : TileId) (u : Upset) (s : State) :
    exec (.mma c t u) s = .next (s.withDev (s.dev.runMma c.val t.val u)) := rfl

theorem exec_inline (c : CtxId) (t : TileId) (u : Upset) (s : State) :
    exec (.inline c t u) s = .next (s.withDev (s.dev.runVec c.val t.val true u)) := rfl

theorem exec_chain (c : CtxId) (t : TileId) (u : Upset) (s : State) :
    exec (.chain c t u) s = .next (s.withDev (s.dev.runVec c.val t.val false u)) := rfl

theorem exec_apply (c : CtxId) (t : TileId) (u : Upset) (s : State) :
    exec (.apply c t u) s = .next (s.withDev (s.dev.runFn c.val t.val u)) := rfl

/-- A slot that reads sound stores and no pool line meets no error. -/
theorem Dev.meetUpset_of_clean (s : Dev) (c t : Nat) (stores : List Nat) (h : s.storesClean c stores) :
    s.meetUpset c t .clean [] stores false = (s, false) := by
  have hread : (s.bringUpset c .clean).meetLines [] = s := s.meetLines_of_free [] (by simp)
  have hpoison : s.mem.poisoned [] = false := by simp [MemBlk.poisoned]
  simp [Dev.meetUpset, hread, hpoison, s.meetStores_of_clean c stores h]

section
variable (s : Dev) (c t : Nat) (w : IWord) (y : ISlot) (clean : s.storesClean c [t])
include clean

theorem Dev.runMma_of_ready (fs ft bank : Nat) (acc keep axis : Bool) (sd : Desc) (td : Option Desc)
    (m n k aoff part : Nat) (head : s.headReady c t 2 isMma = some (w, y))
    (op : y.op = .mma fs ft bank acc keep axis sd td m n k aoff part) (inService : (s.health c t).fencedPart part = false)
    (free : (s.tile c t).bankBusy bank (16 * aoff) (m * n) = false) :
    s.runMma c t .clean = (s.startMma c t w.seq acc keep axis sd td bank m n k aoff part).1.endPerform c t w.seq 2
      (s.startMma c t w.seq acc keep axis sd td bank m n k aoff part).2 := by
  simp [Dev.runMma, head, op, inService, free, partitionCause, s.meetUpset_of_clean c t [t] clean]

theorem Dev.runVec_of_ready (inl : Bool) (st : List Stage) (fi fo : Nat) (sr scm : Bool) (tid : U32) (inp : VecIn)
    (out : Desc) (ty : LTy) (ch : Option Nat) (head : s.headReady c t 3 (isVec inl) = some (w, y))
    (op : y.op = .vec inl st fi fo sr scm tid inp out ty ch) :
    s.runVec c t inl .clean = (s.vecEffect c t (w.key t 3) w.step inl st fi sr scm tid inp out ty).1.endPerform c t w.seq 3
      (s.vecEffect c t (w.key t 3) w.step inl st fi sr scm tid inp out ty).2 := by
  simp [Dev.runVec, head, op, s.meetUpset_of_clean c t [t] clean]

theorem Dev.runFn_of_ready (scm : Bool) (f : FnRef) (inp out : Desc) (head : s.headReady c t 4 isFn = some (w, y))
    (op : y.op = .fn scm f inp out) :
    s.runFn c t .clean = (s.fnEffect c f inp out).1.endPerform c t w.seq 4 (s.fnEffect c f inp out).2 := by
  simp [Dev.runFn, head, op, s.meetUpset_of_clean c t [t] clean]

end

/-! ## What a list of writes leaves in a table -/

/-- A key that no write names reads as before. -/
theorem Tab.get_foldl_set_of_not_mem {α : Type} (d : α) (k : Nat) (ws : List (Nat × α)) (b : Tab α)
    (h : ∀ e ∈ ws, e.1 ≠ k) : Tab.get d (ws.foldl (fun b e => Tab.set b e.1 e.2) b) k = Tab.get d b k := by
  induction ws generalizing b with
  | nil => rfl
  | cons e ws ih =>
    rw [List.foldl_cons, ih _ (fun x hx => h x (List.mem_cons_of_mem _ hx)), Tab.get_set_ne d b _ (h e List.mem_cons_self).symm]

/-- A key whose every write has one value reads that value once it has been written. -/
theorem Tab.get_foldl_set_of_mem {α : Type} (d v : α) (k : Nat) (ws : List (Nat × α)) (b : Tab α)
    (written : ∃ e ∈ ws, e.1 = k) (only : ∀ e ∈ ws, e.1 = k → e.2 = v) :
    Tab.get d (ws.foldl (fun b e => Tab.set b e.1 e.2) b) k = v := by
  induction ws generalizing b with
  | nil => simp at written
  | cons e ws ih =>
    rw [List.foldl_cons]
    by_cases later : ∃ x ∈ ws, x.1 = k
    · exact ih _ later (fun x hx => only x (List.mem_cons_of_mem _ hx))
    · have none_later : ∀ x ∈ ws, x.1 ≠ k := fun x hx hk => later ⟨x, hx, hk⟩
      obtain ⟨x, hx, rfl⟩ := written
      obtain rfl | hx := List.mem_cons.1 hx
      · rw [Tab.get_foldl_set_of_not_mem d _ ws _ none_later, Tab.get_set_self, only x List.mem_cons_self rfl]
      · exact absurd rfl (none_later x hx)

theorem Tile.acc_commit_of_mem (x : Tile) (ws : List (Nat × U32)) (bank w : Nat) (v : U32)
    (written : ∃ e ∈ ws, e.1 = accKey bank w) (only : ∀ e ∈ ws, e.1 = accKey bank w → e.2 = v) :
    (x.commit ws).acc bank w = v :=
  Tab.get_foldl_set_of_mem 0 v _ ws x.banks written only

theorem Tile.acc_commit_of_not_mem (x : Tile) (ws : List (Nat × U32)) (bank w : Nat) (h : ∀ e ∈ ws, e.1 ≠ accKey bank w) :
    (x.commit ws).acc bank w = x.acc bank w :=
  Tab.get_foldl_set_of_not_mem 0 _ ws x.banks h

/-! ## The region of an MMA (R120) -/

/-- Two elements of a region with the same word are the same element. -/
theorem accWord_inj {aoff rows i j i' j' : Nat} (hi : i < rows) (hi' : i' < rows)
    (h : accWord aoff rows i j = accWord aoff rows i' j') : i = i' ∧ j = j' := by
  have hw : i + rows * j = i' + rows * j' := by
    rw [Nat.mul_comm rows j, Nat.mul_comm rows j']
    unfold accWord at h
    omega
  have row := congrArg (· % rows) hw
  have col := congrArg (· / rows) hw
  simp only [Nat.add_mul_mod_self_left, Nat.mod_eq_of_lt, hi, hi'] at row
  simp only [Nat.add_mul_div_left _ _ (Nat.zero_lt_of_lt hi), Nat.div_eq_of_lt, hi, hi', Nat.zero_add] at col
  exact ⟨row, col⟩

theorem accWord_lt {aoff rows cols i j : Nat} (hi : i < rows) (hj : j < cols) :
    16 * aoff ≤ accWord aoff rows i j ∧ accWord aoff rows i j < 16 * aoff + cols * rows := by
  have hcol : (j + 1) * rows ≤ cols * rows := Nat.mul_le_mul_right rows hj
  rw [Nat.add_mul, Nat.one_mul] at hcol
  unfold accWord
  constructor <;> omega

theorem accKey_inj {bank w w' : Nat} (h : accKey bank w = accKey bank w') : w = w' := Nat.add_left_cancel h

/-- Two words of the banks have different keys. -/
theorem accKey_ne {b bank w w' : Nat} (hw : w < 16384) (hw' : w' < 16384)
    (h : b ≠ bank ∨ w ≠ w') : accKey bank w' ≠ accKey b w := by
  unfold accKey
  omega

/-- What an MMA works out for one element of its region: its row and column accumulated (R93). -/
def Dev.mmaValue (d : Dev) (c t : Nat) (acc keep axis : Bool) (sd : Desc) (td : Option Desc)
    (bank m k aoff part i j : Nat) : F32 :=
  (mmaElem (if acc then (d.tile c t).acc bank (accWord aoff m i j) else 0)
    ((List.range k).map (blockElem (d.mmaBlock c t keep axis td m k part) axis i))
    ((List.range k).map (fun q => d.operandAt c sd q j))).1

section
variable (d : Dev) (c t : Nat) (acc keep axis : Bool) (sd : Desc) (td : Option Desc) (bank m n k aoff part : Nat)

/-- An MMA writes the elements of its region, each with its value, and nothing else (R93, R109). -/
theorem Dev.mem_mmaWork (e : Nat × U32) : e ∈ (d.mmaWork c t acc keep axis sd td bank m n k aoff part).1 ↔
    ∃ i < m, ∃ j < n,
      e = (accKey bank (accWord aoff m i j), d.mmaValue c t acc keep axis sd td bank m k aoff part i j) := by
  simp only [Dev.mmaWork, mmaResults, ← List.map_prod_left_eq_zip, List.mem_map, List.mem_flatMap, List.mem_range]
  constructor
  · rintro ⟨_, ⟨_, ⟨j, hj, rfl⟩, _, ⟨i, hi, rfl⟩, rfl⟩, rfl⟩
    exact ⟨i, hi, j, hj, rfl⟩
  · rintro ⟨i, hi, j, hj, rfl⟩
    exact ⟨_, ⟨_, ⟨j, hj, rfl⟩, _, ⟨i, hi, rfl⟩, rfl⟩, rfl⟩

theorem Dev.acc_commit_mmaWork {i j : Nat} (hi : i < m) (hj : j < n) :
    ((d.tile c t).commit (d.mmaWork c t acc keep axis sd td bank m n k aoff part).1).acc bank (accWord aoff m i j) =
      d.mmaValue c t acc keep axis sd td bank m k aoff part i j := by
  refine Tile.acc_commit_of_mem _ _ _ _ _ ⟨_, (d.mem_mmaWork ..).2 ⟨i, hi, j, hj, rfl⟩, rfl⟩ ?_
  intro e he hkey
  obtain ⟨i', hi', j', hj', rfl⟩ := (d.mem_mmaWork ..).1 he
  obtain ⟨rfl, rfl⟩ := accWord_inj hi' hi (accKey_inj hkey)
  rfl

theorem Dev.acc_commit_mmaWork_outside {b w : Nat} (outside : b ≠ bank ∨ w < 16 * aoff ∨ 16 * aoff + n * m ≤ w)
    (hw : w < 16384) (fits : 16 * aoff + n * m ≤ 16384) :
    ((d.tile c t).commit (d.mmaWork c t acc keep axis sd td bank m n k aoff part).1).acc b w = (d.tile c t).acc b w := by
  refine Tile.acc_commit_of_not_mem _ _ _ _ fun e he => ?_
  obtain ⟨i, hi, j, hj, rfl⟩ := (d.mem_mmaWork ..).1 he
  obtain ⟨hlo, hhi⟩ := accWord_lt (aoff := aoff) hi hj
  exact accKey_ne hw (by omega) (by omega)

end

/-! ## O18 -/

/-- Settles O18: each engine's slot by its `…_of_ready` lemma, and the commit by what an MMA writes (`Dev.mem_mmaWork`). -/
theorem computingSlotsArePerformed : Obligations.ComputingSlotsArePerformed := by
  refine ⟨fun c t s w y clean => ⟨?_, ?_, ?_⟩, ?_⟩
  · intro fs ft bank acc keep axis sd td m n k aoff part head op inService free
    rw [exec_mma, s.dev.runMma_of_ready c.val t.val w y clean fs ft bank acc keep axis sd td m n k aoff part head op inService free]
  · intro inl st fi fo sr scm tid inp out ty ch head op
    have run := s.dev.runVec_of_ready c.val t.val w y clean inl st fi fo sr scm tid inp out ty ch head op
    cases inl with
    | true => rw [if_pos rfl, exec_inline, run]
    | false => rw [if_neg Bool.false_ne_true, exec_chain, run]
  · intro scm f inp out head op
    rw [exec_apply, s.dev.runFn_of_ready c.val t.val w y clean scm f inp out head op]
  · intro d c t acc keep axis sd td bank m n k aoff part
    exact ⟨fun i j hi hj => d.acc_commit_mmaWork c t acc keep axis sd td bank m n k aoff part hi hj,
      fun b w outside _ hw _ fits =>
        d.acc_commit_mmaWork_outside c t acc keep axis sd td bank m n k aoff part outside hw fits⟩

end Sys2Proof.Machine
end

section
/-! The Farrier: RESUME, REPAIR and WITHDRAW (R318 to R320, Table 13.5), the self-test of fenced quadrants (R107), and what the
traffic of a link that goes down leaves alone; O40. -/
namespace Sys2Proof.Machine
open Sys2Proof

/-! ## Operations of FARR_CTL -/

theorem exec_resume (c : CtxId) (s : State) : exec (.resume c) s = s.onBar (fun d => d.resume c.val) := rfl
theorem exec_repair (s : State) : exec .repair s = s.onBar Dev.repairOp := rfl
theorem exec_withdraw (s : State) : exec .withdraw s = s.onBar (fun d => d.farrOp (fun d => (.done, d.withdraw))) := rfl
theorem exec_farrierRepairEnd (s : State) : exec .farrierRepairEnd s =
    .next (s.withDev { s.dev with farr := { s.dev.farr with repair := false } }) := rfl
theorem exec_partitionSelfTest (c : CtxId) (t : TileId) (pass : BitVec 4) (s : State) :
    exec (.partitionSelfTest c t pass) s = .next (s.withDev (s.dev.partitionSelfTest c.val t.val pass)) := rfl

theorem State.onBar_of_open (s : State) (f : Dev → Dev) (h : s.dev.barOpen = true) : s.onBar f = .next (s.withDev (f s.dev)) := by
  rw [State.onBar_eq, if_pos h]

theorem Dev.farrOp_of_free (s d : Dev) (st : Status) (act : Dev → Status × Dev) (h : s.farr.pend = false)
    (hact : act s = (st, d)) : s.farrOp act = d.farrStatus st := by
  simp [Dev.farrOp, h, hact]

/-- REPAIR tries the substitutions that wait, and ends DONE (R320; log entry 89). -/
theorem Dev.repairOp_of_free (s d : Dev) (h : s.farr.pend = false) (tried : s.farr.wanting.foldl Dev.retrySpare s = d) :
    s.repairOp = (Dev.giveUpSpares { d with farr := { d.farr with noPwr := !d.farr.wanting.isEmpty } }).farrStatus .done := by
  subst tried
  exact s.farrOp_of_free _ _ _ h rfl

/-! ## RESUME (R318, R319) -/

/-- The device with the context that an operation of FARR_CTL names. -/
def Dev.farrNamed (s : Dev) (c : Nat) : Dev := { s with farr := { s.farr with ctlCtx := BitVec.ofNat 6 c } }

theorem Dev.resume_of_backed (s : Dev) (c : Nat) (hpend : s.farr.pend = false) (hrep : s.farr.repair = false)
    (backed : s.unbacked c = false) : s.resume c = ((s.farrNamed c).resumeCtx c).farrStatus .done := by
  have allowed : firstRefusal [((s.farrNamed c).unbacked c, .range), ((s.farrNamed c).farr.repair, .busy)] = .done := by
    rw [show (s.farrNamed c).unbacked c = false from backed, show (s.farrNamed c).farr.repair = false from hrep]
    rfl
  refine s.farrOp_of_free _ _ _ hpend ?_
  dsimp only
  split
  · rfl
  · next refused => exact (refused allowed).elim

theorem Dev.resume_of_repair (s : Dev) (c : Nat) (hpend : s.farr.pend = false) (hrep : s.farr.repair = true)
    (backed : s.unbacked c = false) : s.resume c = (s.farrNamed c).farrStatus .busy := by
  have busy : firstRefusal [((s.farrNamed c).unbacked c, .range), ((s.farrNamed c).farr.repair, .busy)] = .busy := by
    rw [show (s.farrNamed c).unbacked c = false from backed, show (s.farrNamed c).farr.repair = true from hrep]
    rfl
  refine s.farrOp_of_free _ _ _ hpend ?_
  dsimp only
  split
  · next allowed => exact absurd (allowed.symm.trans busy) (by decide)
  · exact congrArg (fun st => (st, s.farrNamed c)) busy

theorem Dev.resumeCtx_of_held (s : Dev) (c : Nat) (h : (s.ctx c).faultHold = true) :
    s.resumeCtx c = (s.setCtx c { s.ctx c with faultHold := false, retiredAbove := [] }).setRing c 0
      { s.ring c 0 with dev := BitVec.ofNat 32 (s.ctx c).retired } := by
  have ring : (s.setCtx c { s.ctx c with faultHold := false, retiredAbove := [] }).ring c 0 = s.ring c 0 := by simp [Dev.ring]
  unfold Dev.resumeCtx
  dsimp only
  rw [if_neg (by simp [h]), ring]

/-- What RESUME of a held context leaves: the hold lifted, the ring at the first record after RETIRED, the other contexts,
the tiles and the memories as they were (R318, R319). -/
theorem Dev.resumeCtx_frame (s : Dev) (c : Nat) (h : (s.ctx c).faultHold = true) :
    ((s.resumeCtx c).ctx c).faultHold = false ∧ ((s.resumeCtx c).ring c 0).dev = BitVec.ofNat 32 (s.ctx c).retired ∧
      (s.resumeCtx c).tiles = s.tiles ∧ (s.resumeCtx c).mem = s.mem ∧ ∀ k, k ≠ c → (s.resumeCtx c).ctx k = s.ctx k := by
  rw [s.resumeCtx_of_held c h]
  refine ⟨?_, ?_, rfl, rfl, fun k hk => ?_⟩
  · rw [Dev.ctx_setRing_self, Dev.ctx_setCtx, if_pos rfl]
  · rw [Dev.ring_setRing, if_pos ⟨rfl, rfl⟩]
  · rw [Dev.ctx_setRing_ne _ _ _ hk, Dev.ctx_setCtx, if_neg hk]

/-! ## What the traffic of links leaves alone -/

/-- The memories, the tiles and the state of one link. -/
structure LinkView where
  mem : MemBlk
  tiles : Tab PTile
  st : LinkState

def Dev.linkView (j : Nat) (s : Dev) : LinkView := { mem := s.mem, tiles := s.tiles, st := (s.link j).st }

section
variable (j : Nat)

theorem Dev.linkView_of_outer {s t : Dev} (h : s.outer = t.outer) : s.linkView j = t.linkView j :=
  calc s.linkView j
    _ = s.outer.linkView j := rfl
    _ = t.outer.linkView j := congrArg (Dev.linkView j) h
    _ = t.linkView j := rfl

theorem Dev.linkView_setOutbox (s : Dev) (q : List (Nat × Nat × Routed)) :
    Dev.linkView j { s with fab := { s.fab with outbox := q } } = s.linkView j := rfl

/-- A write of a link that keeps its state. -/
theorem Dev.linkView_setLink (s : Dev) (l : Nat) (k : Link) (h : k.st = (s.link l).st) :
    (s.setLink l k).linkView j = s.linkView j := by
  have hst : ((s.setLink l k).link j).st = (s.link j).st := by
    rw [Dev.link_setLink]
    split
    · next hj => rw [hj, h]
    · rfl
  exact congrArg (LinkView.mk s.mem s.tiles) hst

@[simp] theorem Dev.linkView_release (s : Dev) (r : Routed) : (s.release r).linkView j = s.linkView j := by
  unfold Dev.release
  split
  · rfl
  · exact s.linkView_setLink j _ _ rfl

@[simp] theorem Dev.linkView_routeOn (s : Dev) (r : Routed) : (s.routeOn r).linkView j = s.linkView j := by
  unfold Dev.routeOn
  dsimp only
  split
  · split <;> exact s.linkView_release j r
  · rfl
  · exact s.linkView_release j r

@[simp] theorem Link.st_push (k : Link) (vc : Nat) : (k.push vc).st = k.st := rfl

@[simp] theorem Link.st_fill (n : Nat) (k : Link) : (Link.fill n k).st = k.st := by
  induction n generalizing k with
  | zero => rfl
  | succ n ih =>
    rw [Link.fill]
    split
    · rfl
    · split
      · rfl
      · simp [ih]

@[simp] theorem Dev.linkView_assignLink (s : Dev) (e : Nat × Nat × Routed) : (s.assignLink e).linkView j = s.linkView j := by
  unfold Dev.assignLink
  split
  · rfl
  · exact s.linkView_setLink j _ _ rfl

@[simp] theorem Dev.linkView_sendLink (s : Dev) (l : Nat) : (s.sendLink l).linkView j = s.linkView j := by
  unfold Dev.sendLink
  dsimp only
  split
  · rfl
  · rw [foldl_keeps (Dev.linkView j) _ (fun d (e : Nat × Routed × List Byte) => d.linkView_release j e.2.1)]
    exact s.linkView_setLink j _ _ (Link.st_fill _ _)

@[simp] theorem Dev.linkView_sendReturns (s : Dev) (l : Nat) : (s.sendReturns l).linkView j = s.linkView j := by
  unfold Dev.sendReturns
  dsimp only
  split
  · exact s.linkView_setLink j _ _ rfl
  · rfl

@[simp] theorem Dev.linkView_flush (s : Dev) : s.flush.linkView j = s.linkView j := by
  unfold Dev.flush
  rw [foldl_keeps (Dev.linkView j) _ (Dev.linkView_sendReturns j), foldl_keeps (Dev.linkView j) _ (Dev.linkView_sendLink j),
    foldl_keeps (Dev.linkView j) _ (Dev.linkView_assignLink j)]
  exact s.linkView_setOutbox j []

@[simp] theorem Dev.linkView_reroute (s : Dev) (g : Nat) : (s.reroute g).linkView j = s.linkView j := by
  unfold Dev.reroute
  split
  · exact s.linkView_flush j
  · rw [Dev.linkView_flush, foldl_keeps (Dev.linkView j) _ (fun d (e : Nat × Nat × Routed) => d.linkView_routeOn j e.2.2)]
    exact s.linkView_setOutbox j _

@[simp] theorem Dev.linkView_sendMgmt (s : Dev) (dst : BitVec 24) (c op h1 : Nat) :
    (s.sendMgmt dst c op h1).linkView j = s.linkView j := by
  unfold Dev.sendMgmt Dev.send Dev.route
  rw [Dev.linkView_flush, Dev.linkView_routeOn]
  rfl

@[simp] theorem Dev.linkView_linkEvent (s : Dev) (l : Nat) : (s.linkEvent l).linkView j = s.linkView j :=
  Dev.linkView_of_outer j (s.outer_eventAll _ _ _)

/-! ## Links go down (R241) -/

/-- The view once its link is DOWN, where it goes down. -/
def LinkView.downIf (v : LinkView) (p : Prop) [Decidable p] : LinkView := { v with st := if p then .down else v.st }

theorem LinkView.downIf_of_down (v : LinkView) (p : Prop) [Decidable p] (h : p → v.st = .down) : v.downIf p = v := by
  have hst : (if p then LinkState.down else v.st) = v.st := by
    split
    · next hp => exact (h hp).symm
    · rfl
  exact congrArg (LinkView.mk v.mem v.tiles) hst

theorem LinkView.downIf_downIf (v : LinkView) (l : Nat) (ls : List Nat) :
    (v.downIf (j = l)).downIf (j ∈ ls) = v.downIf (j ∈ l :: ls) := by
  have hst : (if j ∈ ls then LinkState.down else if j = l then .down else v.st) = if j ∈ l :: ls then .down else v.st := by
    by_cases hls : j ∈ ls <;> simp [hls]
  exact congrArg (LinkView.mk v.mem v.tiles) hst

theorem Dev.linkView_setLink_down (s : Dev) (l : Nat) (k : Link) (h : k.st = .down) :
    (s.setLink l k).linkView j = (s.linkView j).downIf (j = l) := by
  have hst : ((s.setLink l k).link j).st = if j = l then .down else (s.link j).st := by
    rw [Dev.link_setLink, apply_ite Link.st, h]
  exact congrArg (LinkView.mk s.mem s.tiles) hst

/-- A link that goes down is DOWN, and the memories, the tiles and the other links' states are as they were. -/
theorem Dev.linkView_linkDown (s : Dev) (l : Nat) : (s.linkDown l).linkView j = (s.linkView j).downIf (j = l) := by
  unfold Dev.linkDown
  dsimp only
  split
  · next down => exact ((s.linkView j).downIf_of_down _ (fun hj => by simpa [Dev.linkView, hj] using down)).symm
  · split
    · rw [Dev.linkView_sendMgmt, Dev.linkView_reroute, Dev.linkView_setOutbox, Dev.linkView_linkEvent]
      split <;> exact s.linkView_setLink_down j l _ rfl
    · rw [Dev.linkView_reroute, Dev.linkView_setOutbox, Dev.linkView_linkEvent]
      split <;> exact s.linkView_setLink_down j l _ rfl

theorem Dev.linkView_foldl_linkDown (ls : List Nat) (s : Dev) :
    (ls.foldl Dev.linkDown s).linkView j = (s.linkView j).downIf (j ∈ ls) := by
  induction ls generalizing s with
  | nil => exact ((s.linkView j).downIf_of_down _ (by simp)).symm
  | cons l ls ih => rw [List.foldl_cons, ih, s.linkView_linkDown j l, LinkView.downIf_downIf]

end

theorem Dev.foldl_gangOff (gs : List Nat) (s : Dev) : gs.foldl Dev.gangOff s = (gs.flatMap gangLinks).foldl Dev.linkDown s := by
  rw [List.foldl_flatMap]
  rfl

theorem mem_links_of_gangs : ∀ l < 32, l ∈ (List.range 8).flatMap gangLinks := by
  intro l hl
  refine List.mem_flatMap.2 ⟨l / 4, List.mem_range.2 (by omega), ?_⟩
  simp only [gangLinks, List.mem_cons, List.not_mem_nil, or_false]
  omega

/-- A withdrawn device has every link DOWN, and its memories and tiles are as they were (Table 13.5). -/
theorem Dev.withdraw_frame (s : Dev) : (∀ l < 32, (s.withdraw.link l).st = .down) ∧ s.withdraw.mem = s.mem ∧
    s.withdraw.tiles = s.tiles ∧ s.withdraw.farr.kind = 3 := by
  have view (l : Nat) := s.linkView_foldl_linkDown l ((List.range 8).flatMap gangLinks)
  rw [← Dev.foldl_gangOff] at view
  unfold Dev.withdraw
  generalize (List.range 8).foldl Dev.gangOff s = d at view
  exact ⟨fun l hl => (congrArg LinkView.st (view l)).trans (if_pos (mem_links_of_gangs l hl)),
    congrArg LinkView.mem (view 0), congrArg LinkView.tiles (view 0), rfl⟩

/-! ## The self-test of fenced quadrants (R107) -/

/-- One quadrant of the array after its test. -/
def Health.quadTested (pass : BitVec 4) (x : Health) (q : Nat) : Health :=
  if x.quad q != .fenced then x
  else if bit pass.toNat (q - 3) then { x with quads := Tab.set x.quads q .inService, passCnt := satAdd x.passCnt 1 }
  else { x with quads := Tab.set x.quads q .retired }

/-- The state of a quadrant once it has been tested: a fenced one is judged by its result. -/
def QuadState.judged (x : QuadState) (passed : Bool) : QuadState :=
  if x = .fenced then (if passed then .inService else .retired) else x

theorem QuadState.judged_of_fenced {x : QuadState} (h : x = .fenced) : x.judged true = .inService := by
  rw [h]
  rfl

theorem QuadState.judged_of_inService {x : QuadState} (b : Bool) (h : x = .inService) : x.judged b = .inService := by
  rw [h]
  rfl

theorem QuadState.judged_ne_retired {x : QuadState} {b : Bool} (hpass : x = .fenced → b = true) (h : x ≠ .retired) :
    x.judged b ≠ .retired := by
  unfold QuadState.judged
  split
  · next fenced => simp [hpass fenced]
  · exact h

theorem Health.quad_quadTested (pass : BitVec 4) (x : Health) (q j : Nat) :
    (x.quadTested pass q).quad j = if j = q then (x.quad q).judged (pass.getLsbD (q - 3)) else x.quad j := by
  unfold Health.quadTested QuadState.judged
  rw [bit_toNat]
  by_cases fenced : x.quad q = .fenced
  · simp only [fenced, bne_self_eq_false, Bool.false_eq_true, if_false, if_true]
    split <;> exact Tab.get_set _ _ _ _ _
  · simp only [bne_iff_ne, ne_eq, fenced, not_false_eq_true, if_true, if_false]
    split
    · next hj => rw [hj]
    · rfl

/-- Each quadrant of a list is tested once. -/
theorem Health.quad_foldl_quadTested (pass : BitVec 4) (qs : List Nat) (hqs : qs.Nodup) (x : Health) (j : Nat) :
    (qs.foldl (Health.quadTested pass) x).quad j = if j ∈ qs then (x.quad j).judged (pass.getLsbD (j - 3)) else x.quad j := by
  induction qs generalizing x with
  | nil => rfl
  | cons q qs ih =>
    obtain ⟨hq, hqs⟩ := List.nodup_cons.1 hqs
    rw [List.foldl_cons, ih hqs, Health.quad_quadTested]
    by_cases hj : j = q
    · subst hj
      simp [hq]
    · simp [hj]

theorem Health.quad_selfTested (x : Health) (pass : BitVec 4) {q : Nat} (hq : q ∈ [3, 4, 5, 6]) :
    (x.selfTested pass).quad q = (x.quad q).judged (pass.getLsbD (q - 3)) := by
  have tested : x.selfTested pass = [3, 4, 5, 6].foldl (Health.quadTested pass) { x with selfTest := false } := rfl
  rw [tested, Health.quad_foldl_quadTested pass _ (by decide), if_pos hq]
  rfl

theorem Health.selfTest_quadTested (pass : BitVec 4) (x : Health) (q : Nat) : (x.quadTested pass q).selfTest = x.selfTest := by
  unfold Health.quadTested
  split
  · rfl
  · split <;> rfl

theorem Health.selfTest_selfTested (x : Health) (pass : BitVec 4) : (x.selfTested pass).selfTest = false :=
  foldl_keeps Health.selfTest _ (Health.selfTest_quadTested pass) [3, 4, 5, 6] { x with selfTest := false }

theorem Dev.modHealth_of_backed (s : Dev) (c t p : Nat) (f : Health → Health) (hp : s.phys c t = some p) :
    s.modHealth c t f = s.setPtile p { s.ptile p with health := f (s.ptile p).health } := by
  rw [Dev.modHealth, hp]

theorem Dev.health_modHealth (s : Dev) (c t : Nat) (f : Health → Health) (backed : (s.phys c t).isSome = true) :
    (s.modHealth c t f).health c t = f (s.health c t) := by
  obtain ⟨p, hp⟩ := Option.isSome_iff_exists.1 backed
  have hp' : (s.setPtile p { s.ptile p with health := f (s.ptile p).health }).phys c t = some p := hp
  rw [s.modHealth_of_backed c t p f hp, Dev.health, Dev.health, hp, hp']
  simp

/-- A change of the service of an array changes the tiles alone. -/
theorem Dev.modHealth_frame (s : Dev) (c t : Nat) (f : Health → Health) :
    { s.modHealth c t f with tiles := s.tiles } = s := by
  unfold Dev.modHealth
  split <;> rfl

/-- A self-test that retires no quadrant changes the service of the array alone (R107). -/
theorem Dev.partitionSelfTest_of_pass (s : Dev) (c t : Nat) (pass : BitVec 4) (owed : (s.health c t).selfTest = true)
    (ended : (s.tile c t).prog = none) (backed : (s.phys c t).isSome = true)
    (kept : ∀ q ∈ [3, 4, 5, 6], ((s.health c t).quad q).judged (pass.getLsbD (q - 3)) ≠ .retired) :
    s.partitionSelfTest c t pass = s.modHealth c t (fun x => x.selfTested pass) := by
  have none_retired : [3, 4, 5, 6].any (fun q =>
      ((s.modHealth c t (fun x => x.selfTested pass)).health c t).quad q == .retired) = false := by
    rw [List.any_eq_false]
    intro q hq
    rw [s.health_modHealth c t _ backed, Health.quad_selfTested _ pass hq]
    simpa using kept q hq
  unfold Dev.partitionSelfTest
  rw [if_neg (by simp [owed, ended, Option.isSome_iff_ne_none.1 backed])]
  dsimp only
  rw [none_retired]
  rfl

/-! ## O40 -/

/-- Settles O40: RESUME by `Dev.resume_of_backed` and `Dev.resume_of_repair`, REPAIR by `Dev.repairOp_of_free`, WITHDRAW by
`Dev.withdraw_frame`, and the self-test by `Dev.partitionSelfTest_of_pass`. -/
theorem farrierOperations : Obligations.FarrierOperations := by
  refine ⟨⟨?_, ?_, ?_, exec_farrierRepairEnd⟩, ?_, ?_⟩
  · intro c s hbar hpend hrep backed held
    obtain ⟨hold, hring, htiles, hmem, hctx⟩ := (s.dev.farrNamed c.val).resumeCtx_frame c.val held
    refine ⟨s.withDev (((s.dev.farrNamed c.val).resumeCtx c.val).farrStatus .done), ?_, hold, rfl, hring, htiles, hmem, rfl,
      hctx⟩
    rw [exec_resume, s.onBar_of_open _ hbar, s.dev.resume_of_backed c.val hpend hrep backed]
  · intro c s hbar hpend hrep backed
    refine ⟨s.withDev ((s.dev.farrNamed c.val).farrStatus .busy), ?_, rfl, rfl, rfl⟩
    rw [exec_resume, s.onBar_of_open _ hbar, s.dev.resume_of_repair c.val hpend hrep backed]
  · intro s hbar hpend
    rw [exec_repair, s.onBar_of_open _ hbar, s.dev.repairOp_of_free _ hpend rfl]
  · intro s hbar hpend
    have run : exec .withdraw s = .next (s.withDev (s.dev.withdraw.farrStatus .done)) := by
      rw [exec_withdraw, s.onBar_of_open _ hbar,
        s.dev.farrOp_of_free s.dev.withdraw .done (fun d => (.done, d.withdraw)) hpend rfl]
    obtain ⟨down, hmem, htiles, hkind⟩ := s.dev.withdraw_frame
    generalize s.dev.withdraw = d at run down hmem htiles hkind
    exact ⟨s.withDev (d.farrStatus .done), run, hkind, rfl, down, hmem, htiles, rfl⟩
  · intro c t pass s owed ended backed passes unretired
    have quads : ∀ q ∈ [3, 4, 5, 6], ((s.dev.modHealth c.val t.val (fun x => x.selfTested pass)).health c.val t.val).quad q =
        ((s.dev.health c.val t.val).quad q).judged (pass.getLsbD (q - 3)) := fun q hq => by
      rw [s.dev.health_modHealth _ _ _ backed, Health.quad_selfTested _ pass hq]
    refine ⟨s.withDev (s.dev.modHealth c.val t.val (fun x => x.selfTested pass)), ?_, ?_, ?_, ?_, ?_⟩
    · rw [exec_partitionSelfTest, s.dev.partitionSelfTest_of_pass c.val t.val pass owed ended backed
        (fun q hq => QuadState.judged_ne_retired (passes q hq) (unretired q hq))]
    · rw [s.dev.health_modHealth _ _ _ backed, Health.selfTest_selfTested]
    · intro q hq fenced
      rw [quads q hq, passes q hq fenced, QuadState.judged_of_fenced fenced]
    · intro q hq inService
      rw [quads q hq, QuadState.judged_of_inService _ inService]
    · exact congrArg s.withDev (s.dev.modHealth_frame c.val t.val (fun x => x.selfTested pass))

end Sys2Proof.Machine
end

section
/-! Loads of user functions and tables (R152 to R155, R168): the fields that a write of SFU_LOAD_CTL takes, how a load ends,
and O51. -/
namespace Sys2Proof.Machine
open Sys2Proof

/-! ## A write of SFU_LOAD_CTL (Table 6.12) -/

theorem exec_sfuLoad (v : U64) (s : State) : exec (.sfuLoad v) s = s.onBar (fun d => d.sfuLoad v) := rfl

theorem ofNat_fld_toNat {w : Nat} (x : BitVec w) (hi lo : Nat) :
    BitVec.ofNat (hi + 1 - lo) (fld x.toNat hi lo) = x.extractLsb' lo (hi + 1 - lo) :=
  BitVec.eq_of_toNat_eq (by simp [fld, Nat.shiftRight_eq_div_pow])

theorem ofNat_toNat_low {w : Nat} (x : BitVec w) (n : Nat) : BitVec.ofNat n x.toNat = x.extractLsb' 0 n :=
  BitVec.eq_of_toNat_eq (by simp)

/-- The load registers after `v` is written to SFU_LOAD_CTL. -/
def SfuReq.withCtl (r : SfuReq) (v : U64) : SfuReq :=
  { r with c := v.extractLsb' 32 6, kind := v.getLsbD 28, index := v.extractLsb' 20 8, count := v.extractLsb' 0 11 }

/-- A write takes the fields, and starts a load of them where GO is set and no load runs. -/
theorem Dev.sfuLoad_eq (s : Dev) (v : U64) :
    s.sfuLoad v =
      let l : SfuLoad := { s.sfu with regs := s.sfu.regs.withCtl v }
      if v.getLsbD 31 && s.sfu.state != 1 then
        ({ s with sfu := { l with run := s.sfu.regs.withCtl v, state := 1 } } : Dev).sfuRun
      else { s with sfu := l } := by
  have hc := ofNat_fld_toNat v 37 32
  have hindex := ofNat_fld_toNat v 27 20
  simp only [Nat.reduceAdd, Nat.reduceSub] at hc hindex
  simp only [Dev.sfuLoad, bit_toNat, ofNat_toNat_low, hc, hindex, SfuReq.withCtl]

/-! ## The end of a load (R153) -/

theorem Dev.sfuEnd_done (s : Dev) : s.sfuEnd .done = { s with sfu := { s.sfu with state := 2, status := 0 } } := by
  rw [Dev.sfuEnd, if_pos rfl]; rfl

theorem Dev.sfuEnd_of_failed (s : Dev) {st : Status} (failed : st ≠ .done) :
    s.sfuEnd st = { s with sfu := { s.sfu with state := 3, status := st.byte } } := by
  rw [Dev.sfuEnd, if_neg failed]

/-- A load whose source is no address ends INVALID_WORD. -/
theorem Dev.sfuRun_of_noAddr (s : Dev) (running : s.sfu.state = 1) (noAddr : parseAddr s.sfu.run.src.toNat = none) :
    s.sfuRun = s.sfuEnd .invalidWord := by
  rw [Dev.sfuRun, if_neg (not_not_intro running), noAddr]
  rfl

/-- A load from host memory that can be reached goes on to its end at once. -/
theorem Dev.sfuRun_of_host (s : Dev) (a : Addr) (running : s.sfu.state = 1)
    (addr : parseAddr s.sfu.run.src.toNat = some a) (host : a.space = .host) (up : s.hif.hostUp = true) :
    s.sfuRun = s.sfuFinish (some a) := by
  simp [Dev.sfuRun, running, addr, host, up]

/-- The device with the image of its load as the shadow copy on each tile that TMASK names. -/
def Dev.withShadows (s : Dev) (a : Addr) : Dev :=
  s.sfu.run.tiles.foldl (fun d t => d.modTile s.sfu.run.c.toNat t
    (fun x => x.shadow s.sfu.run (s.readBytes s.sfu.run.c.toNat a (s.imageLen a)))) s

/-- A load whose checks pass writes the shadow copies and ends DONE. -/
theorem Dev.sfuFinish_of_done (s : Dev) (a : Addr) (passed : s.sfuStatus (some a) = .done) :
    s.sfuFinish (some a) = (s.withShadows a).sfuEnd .done := by
  simp only [Dev.sfuFinish, passed, if_true]
  rfl

/-- The shadow copies stand in the tiles: they change no load register, no memory and nothing of the fabric. -/
theorem Dev.still_withShadows (s : Dev) (a : Addr) : (s.withShadows a).still = s.still :=
  foldl_keeps Dev.still _ (fun d t => Dev.still_modTile d _ t _) _ _

/-- A load that has changed no register, no memory and nothing of the fabric ends DONE with its state and status alone
changed. It speaks of any two devices, so that the kernel compares their fields without running a load. -/
theorem Dev.sfuEnd_done_of_still {s d : Dev} (still : d.still = s.still) :
    (d.sfuEnd .done).sfu = { s.sfu with state := 2, status := 0 } ∧ (d.sfuEnd .done).mem = s.mem ∧
      (d.sfuEnd .done).fab = s.fab := by
  have hsfu : d.sfu = s.sfu := (congrArg Dev.sfu still :)
  rw [Dev.sfuEnd_done, hsfu]
  exact ⟨rfl, (congrArg Dev.mem still :), (congrArg Dev.fab still :)⟩

/-! ## O51 -/

/-- Settles O51: the write by `Dev.sfuLoad_eq`, a source that is no address by `Dev.sfuRun_of_noAddr`, and a load whose
checks pass by `Dev.sfuFinish_of_done`, whose shadow copies leave all but the tiles alone (`Dev.still_withShadows`). -/
theorem functionLoads : Obligations.FunctionLoads := by
  refine ⟨fun v s hbar => ?_, fun d running noAddr => ?_, ?_⟩
  · have run : exec (.sfuLoad v) s = .next (s.withDev (s.dev.sfuLoad v)) := by
      rw [exec_sfuLoad, s.onBar_of_open _ hbar]
    rw [run, Dev.sfuLoad_eq]
    refine ⟨fun ignored => ?_, fun idle go => ?_⟩
    · have notStarted : ¬(v.getLsbD 31 && s.dev.sfu.state != 1) = true := fun start =>
        have ⟨go, idle⟩ := Bool.and_eq_true_iff.mp start
        ignored.elim (bne_iff_ne.mp idle) (fun noGo => Bool.false_ne_true (noGo.symm.trans go))
      rw [if_neg notStarted]; rfl
    · rw [if_pos (Bool.and_eq_true_iff.mpr ⟨go, bne_iff_ne.mpr idle⟩)]; rfl
  · rw [d.sfuRun_of_noAddr running noAddr, d.sfuEnd_of_failed (by decide)]
  · intro d a running addr host up passed
    rw [d.sfuRun_of_host a running addr host up, d.sfuFinish_of_done a passed]
    exact Dev.sfuEnd_done_of_still (d.still_withShadows a)

end Sys2Proof.Machine
end

section
/-! The moves of the layout engine (R183 to R187): a move that is ready is performed, and what a copy leaves alone (R178,
R183); O17. -/
namespace Sys2Proof.Machine
open Sys2Proof

/-! ## The seven commands -/

theorem exec_loadCopy (c : CtxId) (t : TileId) (u : Upset) (s : State) :
    exec (.loadCopy c t u) s = .next (s.withDev (s.dev.runMove c.val t.val false 1 u)) := rfl

theorem exec_multicast (c : CtxId) (t : TileId) (u : Upset) (s : State) :
    exec (.multicast c t u) s = .next (s.withDev (s.dev.runMove c.val t.val false 2 u)) := rfl

theorem exec_gather (c : CtxId) (t : TileId) (u : Upset) (s : State) :
    exec (.gather c t u) s = .next (s.withDev (s.dev.runMove c.val t.val false 3 u)) := rfl

theorem exec_storeCopy (c : CtxId) (t : TileId) (u : Upset) (s : State) :
    exec (.storeCopy c t u) s = .next (s.withDev (s.dev.runMove c.val t.val true 1 u)) := rfl

theorem exec_scatter (c : CtxId) (t : TileId) (u : Upset) (s : State) :
    exec (.scatter c t u) s = .next (s.withDev (s.dev.runMove c.val t.val true 4 u)) := rfl

theorem exec_scatterAdd (c : CtxId) (t : TileId) (u : Upset) (s : State) :
    exec (.scatterAdd c t u) s = .next (s.withDev (s.dev.runMove c.val t.val true 5 u)) := rfl

theorem exec_accumulate (c : CtxId) (t : TileId) (u : Upset) (s : State) :
    exec (.accumulate c t u) s = .next (s.withDev (s.dev.runMove c.val t.val true 6 u)) := rfl

/-! ## The lines of tile stores that a move touches (R181) -/

def moveLines (src dst : Desc) (idx : Option Desc) (mc : Bool) : List (Nat × Nat) :=
  (src :: idx.toList).flatMap (fun d => d.storeLines false) ++ dst.storeLines mc

theorem moveLines_none (src dst : Desc) (mc : Bool) :
    moveLines src dst none mc = src.storeLines false ++ dst.storeLines mc := by
  simp [moveLines]

theorem moveLines_some (src dst i : Desc) (mc : Bool) :
    moveLines src dst (some i) mc = src.storeLines false ++ i.storeLines false ++ dst.storeLines mc := by
  simp [moveLines]

/-! ## A move that is ready is performed -/

/-- Pool lines that nothing holds back and stores that are sound give no error, wherever else the slot reads. -/
theorem Dev.meetUpset_of_free (s : Dev) (c t : Nat) (touch reads stores : List Nat) (staging : Bool)
    (free : s.linesFree touch reads) (clean : s.storesClean c stores) :
    s.meetUpset c t .clean reads stores staging = (s, false) := by
  obtain ⟨-, noLatent, noPoison⟩ := free
  have hread : (s.bringUpset c .clean).meetLines reads = s := s.meetLines_of_free reads noLatent
  simp [Dev.meetUpset, hread, noPoison, s.meetStores_of_clean c stores clean]

/-- The end of a move that touched the lines `ls`: the beats it lost are counted (R181), and its slot is performed. -/
def Dev.endMove (c t seq num : Nat) (ls : List (Nat × Nat)) (r : Dev × Flags) : Dev :=
  (r.1.lostBeats c t ls).endPerform c t seq num r.2

theorem Dev.runMove_of_ready {s : Dev} {c t : Nat} {store : Bool} {op : Nat} {w : IWord} {y : ISlot} {conv : Option Conv}
    {src dst : Desc} {idx : Option Desc} (ready : s.moveReady c t store op w y conv src dst idx) :
    s.runMove c t store op .clean =
      Dev.endMove c t w.seq (if store then 5 else 1) (moveLines src dst idx (!store && op == 2))
        (s.moveEffect c t w.step store op conv src dst idx) := by
  obtain ⟨head, isOp, host, free, clean⟩ := ready
  have reachable : (([src, dst] ++ idx.toList).any Desc.inHost && !s.hif.hostUp) = false := by
    cases inHost : ([src, dst] ++ idx.toList).any Desc.inHost
    · rfl
    · rw [host inHost]; rfl
  simp only [Dev.runMove, head, isOp, reachable]
  rw [if_neg Bool.false_ne_true, s.withPool_of_free _ _ _ free, s.meetUpset_of_free c t _ _ _ _ free clean]
  rfl

/-! ## What a copy leaves alone -/

/-- A write of cells changes the stacks and staging stores, the tiles or the memory of the host. -/
theorem Dev.still_writeCells (s : Dev) (c : Nat) (sp : Space) (cells : List Host.Cell) :
    (s.writeCells c sp cells).still = { s.still with mem := (s.writeCells c sp cells).mem } := by
  cases sp with
  | tile t =>
    have memSame : (s.writeCells c (.tile t) cells).mem = s.mem := (s.setTile_outside _ _ _).1
    rw [memSame]
    exact s.still_modTile _ _ _
  | _ => rfl

/-- Lost beats are counted in a tile; their number uses up a free value (log entry 115). -/
theorem Dev.still_lostBeats (s : Dev) (c t : Nat) (ls : List (Nat × Nat)) :
    ∃ k, (s.lostBeats c t ls).still = { s.still with freeCtr := k } := by
  unfold Dev.lostBeats; split
  · exact ⟨s.freeCtr + 1, Dev.still_modTile _ _ _ _⟩
  · exact ⟨s.freeCtr, rfl⟩

@[simp] theorem Dev.still_endPerform (s : Dev) (c t seq num : Nat) (f : Flags) :
    (s.endPerform c t seq num f).still = s.still := by
  simp [Dev.endPerform]

/-- A device that differs from another in free values, the memories of a third and what `Dev.still` drops. It speaks of
any three devices, so that the kernel compares their fields without running a move. -/
theorem Dev.fields_of_still {s w d : Dev} {k : Nat} (wrote : w.still = { s.still with mem := w.mem })
    (ended : d.still = { w.still with freeCtr := k }) :
    d.time = s.time ∧ d.fab = s.fab ∧ d.pwr = s.pwr ∧ d.farr = s.farr ∧ d.mem = w.mem := by
  rw [wrote] at ended
  exact ⟨(congrArg Dev.time ended :), (congrArg Dev.fab ended :), (congrArg Dev.pwr ended :), (congrArg Dev.farr ended :),
    (congrArg Dev.mem ended :)⟩

/-- A move that is one write of cells: besides what `Dev.still` drops and the free values, it changes the memories alone,
and these as the write does. -/
theorem Dev.endMove_of_write (s : Dev) (c t seq num : Nat) (ls : List (Nat × Nat)) (sp : Space) (cells : List Host.Cell)
    (f : Flags) :
    let d := Dev.endMove c t seq num ls (s.writeCells c sp cells, f)
    d.time = s.time ∧ d.fab = s.fab ∧ d.pwr = s.pwr ∧ d.farr = s.farr ∧ d.mem = (s.writeCells c sp cells).mem := by
  obtain ⟨k, lost⟩ := (s.writeCells c sp cells).still_lostBeats c t ls
  exact Dev.fields_of_still (s.still_writeCells c sp cells) ((Dev.still_endPerform _ c t seq num f).trans lost)

/-- A copy is one write of cells (R183). -/
theorem Dev.moveEffect_copy (s : Dev) (c t : Nat) (step : U64) (conv : Option Conv) (src dst : Desc) :
    s.moveEffect c t step false 1 conv src dst none =
      (s.writeCells c dst.base.space (dst.putCells conv step (indices dst.lext) src.fmt (s.codes c src)).1,
        (dst.putCells conv step (indices dst.lext) src.fmt (s.codes c src)).2) := rfl

/-! ## O17 -/

/-- Settles O17: each opcode's move by `Dev.runMove_of_ready`; a copy is one write of cells
(`Dev.moveEffect_copy`), whose end changes no memory (`Dev.endMove_of_write`). -/
theorem movesArePerformed : Obligations.MovesArePerformed := by
  refine ⟨fun c t s w y conv src dst i => ⟨fun ready => ?_, fun ready => ?_, fun ready => ?_, fun ready => ?_,
    fun ready => ?_, fun ready => ?_, fun ready => ?_⟩, fun c t s u w y conv src dst ready run => ?_⟩
  · rw [exec_loadCopy, Dev.runMove_of_ready ready, moveLines_none]; rfl
  · rw [exec_multicast, Dev.runMove_of_ready ready, moveLines_none]; rfl
  · rw [exec_gather, Dev.runMove_of_ready ready, moveLines_some]; rfl
  · rw [exec_storeCopy, Dev.runMove_of_ready ready, moveLines_none]; rfl
  · rw [exec_scatter, Dev.runMove_of_ready ready, moveLines_some]; rfl
  · rw [exec_scatterAdd, Dev.runMove_of_ready ready, moveLines_some]; rfl
  · rw [exec_accumulate, Dev.runMove_of_ready ready, moveLines_none]; rfl
  · rw [exec_loadCopy, Dev.runMove_of_ready ready, Dev.moveEffect_copy] at run
    obtain rfl := Host.Outcome.next.inj run
    exact ⟨rfl, s.dev.endMove_of_write c.val t.val w.seq 1 _ _ _ _⟩

end Sys2Proof.Machine
end

section
/-! Credits of hitches (R199): what a signal and a wait that is met do to the count of a hitch, and that serving its waiters
neither makes nor loses credits; O20. -/
namespace Sys2Proof.Machine
open Sys2Proof

/-- A counter takes what it has room for. -/
theorem toNat_satAdd {w : Nat} (x : BitVec w) (n : Nat) : (satAdd x n).toNat = min (x.toNat + n) (2 ^ w - 1) := by
  unfold satAdd
  split
  · rename_i fits
    rw [BitVec.toNat_ofNat, Nat.mod_eq_of_lt fits]; omega
  · rw [BitVec.toNat_allOnes]; omega

theorem satAdd_eq_add_of_fits {w : Nat} (x n : BitVec w) (fits : x.toNat + n.toNat < 2 ^ w) : satAdd x n.toNat = x + n := by
  rw [satAdd, if_pos fits, BitVec.ofNat_add, BitVec.ofNat_toNat, BitVec.ofNat_toNat, BitVec.setWidth_eq, BitVec.setWidth_eq]

/-! ## Signals and waits -/

/-- A hitch that takes signals has its credits added; every other hitch is as it was. -/
theorem Dev.hitch_signal_of_active (s : Dev) (c k n : Nat) (active : (s.hitch k).st = .active)
    (counts : (s.hitch k).barrier = false) (j : Nat) :
    (s.signal c k n).hitch j = if j = k then { s.hitch k with count := satAdd (s.hitch k).count n } else s.hitch j := by
  unfold Dev.signal; dsimp only
  rw [if_neg (by simp [active, counts])]
  split
  · rw [Dev.hitch_setHitch]
  · rw [Dev.hitch_setHitch]; rfl

/-- Credits that the count has room for are added, and nothing else changes. -/
theorem Dev.signal_of_fits (s : Dev) (c k : Nat) (n : U32) (active : (s.hitch k).st = .active)
    (counts : (s.hitch k).barrier = false) (fits : (s.hitch k).count.toNat + n.toNat < 2 ^ 32) :
    s.signal c k n.toNat = s.setHitch k { s.hitch k with count := (s.hitch k).count + n } := by
  unfold Dev.signal; dsimp only
  rw [if_neg (by simp [active, counts]), if_pos fits, satAdd_eq_add_of_fits _ _ fits]

/-- A wait that takes its credits finds them, and takes them from the count. -/
theorem Dev.wait_of_taken (s : Dev) (k n : Nat) (who : Sleeper) (taken : (s.wait k n who).1 = .taken) :
    n ≤ (s.hitch k).count.toNat ∧ (s.wait k n who).2 =
      s.setHitch k { s.hitch k with count := BitVec.ofNat 32 ((s.hitch k).count.toNat - n) } := by
  unfold Dev.wait at taken ⊢
  dsimp only at taken ⊢
  by_cases quiet : s.up.quiesced.contains 2 = true
  · rw [if_pos quiet] at taken; cases taken
  rw [if_neg quiet] at taken ⊢
  cases st : (s.hitch k).st <;> simp only [st] at taken ⊢
  case unmapped => cases taken
  case poisoned => cases taken
  case discarded => split at taken <;> cases taken
  case active =>
    split at taken
    · rename_i met
      rw [if_pos met]
      rw [Bool.and_eq_true, decide_eq_true_eq] at met
      exact ⟨met.2, rfl⟩
    · cases taken

/-! ## Waiters are served -/

/-- What serving the waiters `ws` with `n` credits gives: the credits left, the waiters that wake and those that stay. -/
structure Served (n : Nat) (ws : List Waiter) (r : Nat × List Waiter × List Waiter) : Prop where
  credits : r.1 + (r.2.1.map (·.amount)).sum = n
  wake : r.2.1.Sublist ws
  stay : r.2.2.Sublist ws
  each : r.2.1.length + r.2.2.length = ws.length

section
variable {n : Nat} {w : Waiter} {ws : List Waiter} {r : Nat × List Waiter × List Waiter}

/-- A waiter that stays takes nothing. -/
theorem Served.cons_stay (h : Served n ws r) : Served n (w :: ws) (r.1, r.2.1, w :: r.2.2) where
  credits := h.credits
  wake := h.wake.cons w
  stay := h.stay.cons_cons w
  each := by simp only [List.length_cons, ← h.each]; omega

/-- A waiter that wakes takes its threshold. -/
theorem Served.cons_wake (h : Served (n - w.amount) ws r) (met : w.amount ≤ n) :
    Served n (w :: ws) (r.1, w :: r.2.1, r.2.2) where
  credits := by
    have left := h.credits
    simp only [List.map_cons, List.sum_cons]; omega
  wake := h.wake.cons_cons w
  stay := h.stay.cons w
  each := by simp only [List.length_cons, ← h.each]; omega

end

theorem serveList_served (away : Nat → Bool) (n : Nat) (held : Bool) (ws : List Waiter) :
    Served n ws (serveList away n held ws) := by
  induction ws generalizing n held with
  | nil => exact ⟨rfl, .slnil, .slnil, rfl⟩
  | cons w ws ih =>
    rw [serveList]
    split
    · exact (ih n held).cons_stay
    · split
      · rename_i met
        rw [Bool.and_eq_true, decide_eq_true_eq] at met
        exact (ih (n - w.amount) false).cons_wake met.2
      · exact (ih n true).cons_stay

/-- Settles O20: signals by `Dev.hitch_signal_of_active`, waits by `Dev.wait_of_taken`, and the serving of waiters by
`serveList_served`. -/
theorem creditsAreConserved : Obligations.CreditsAreConserved := by
  refine ⟨fun d c k n active counts => ?_, fun d k n who taken => ?_, fun away n held ws => ?_⟩
  · have reads := d.hitch_signal_of_active c k n active counts
    refine ⟨?_, fun j hj => ?_⟩
    · rw [reads, if_pos rfl, toNat_satAdd]
    · rw [reads, if_neg hj]
  · obtain ⟨enough, after⟩ := d.wait_of_taken k n who taken
    have room : (d.hitch k).count.toNat - n < 2 ^ 32 := Nat.lt_of_le_of_lt (Nat.sub_le _ _) (d.hitch k).count.isLt
    refine ⟨enough, ?_⟩
    rw [after, Dev.hitch_setHitch, if_pos rfl, BitVec.toNat_ofNat, Nat.mod_eq_of_lt room]
  · obtain ⟨credits, wake, stay, each⟩ := serveList_served away n held ws
    exact ⟨credits, wake, stay, each⟩

end Sys2Proof.Machine
end

section
/-! The registers of the hitch fabric (R196 to R198, R210, R212): the operations of SYNC_HITCH_OP on a hitch on which nothing
waits, and what a map write changes; O21. -/
namespace Sys2Proof.Machine
open Sys2Proof

/-! ## Cascades that end at once -/

theorem Dev.runJobs_nil (s : Dev) : s.runJobs [] = s := rfl

/-- A job is carried out before those it causes. -/
theorem runJobsFuel_cons (n : Nat) (s : Dev) (j : Job) (js : List Job) :
    runJobsFuel (n + 1) s (j :: js) = runJobsFuel n (s.runJob j).1 (js ++ (s.runJob j).2) := rfl

/-- A signal and what it causes are within the bound of a cascade. -/
theorem jobBound_enough : ∃ n, jobBound = n + 3 := ⟨2 ^ 24 - 3, rfl⟩

theorem Dev.serve_of_unwaited (s : Dev) (key : Nat) (unwaited : (s.hitch key).waiters = []) : s.serve key = s := by
  simp [Dev.serve, unwaited]

theorem Dev.runJobs_serve_of_unwaited (s : Dev) (key : Nat) (unwaited : (s.hitch key).waiters = []) :
    s.runJobs [.serve key] = s := by
  obtain ⟨n, fuel⟩ := jobBound_enough
  rw [Dev.runJobs, fuel, runJobsFuel_cons]
  exact s.serve_of_unwaited key unwaited

theorem Dev.runJobs_raise_of_unwaited (s : Dev) (c key n : Nat) (unwaited : ((s.signal c key n).hitch key).waiters = []) :
    s.runJobs [.raise c key n] = s.signal c key n := by
  obtain ⟨m, fuel⟩ := jobBound_enough
  rw [Dev.runJobs, fuel, runJobsFuel_cons, List.nil_append]
  exact (s.signal c key n).serve_of_unwaited key unwaited

/-! ## Operations of SYNC_HITCH_OP (R210, R212) -/

/-- An operation that is not refused is performed and answers DONE. -/
theorem Dev.hitchOp_of_accepted (s : Dev) (e : HEntry) (refuse : HEntry → Option Status) (act : Dev → Nat → HEntry → Dev)
    (free : s.sync.pend = false) (named : s.mapEntry s.sync.selCtx.toNat s.sync.selVid.toNat = some e)
    (accepted : refuse e = none) : s.hitchOp refuse act = (act s s.sync.selCtx.toNat e).syncStatus .done := by
  simp [Dev.hitchOp, free, named, accepted]

theorem Dev.setHitchOp_of_count (s : Dev) (key : Nat) (n : U32) (unwaited : (s.hitch key).waiters = [])
    (counts : (s.hitch key).barrier = false) :
    s.setHitchOp key n = s.setHitch key { s.hitch key with st := .active, count := n, disc := [] } := by
  unfold Dev.setHitchOp; dsimp only
  rw [if_neg (by simp [counts]), Dev.runJobs_serve_of_unwaited]
  rw [Dev.hitch_setHitch, if_pos rfl]; exact unwaited

theorem Dev.setHitchOp_of_barrier (s : Dev) (key : Nat) (n : U32) (empty : (s.hitch key).entries = [])
    (barrier : (s.hitch key).barrier = true) :
    s.setHitchOp key n = s.setHitch key { s.hitch key with st := .active, gen := n.truncate 16, disc := [] } := by
  unfold Dev.setHitchOp Dev.setBarrier; dsimp only
  rw [if_pos barrier, empty]
  exact Dev.runJobs_nil _

theorem Dev.poisonHitch_of_unwaited (s : Dev) (key : Nat) (mapped : (s.hitch key).st ≠ .unmapped)
    (unwaited : (s.hitch key).waiters = []) : s.poisonHitch key = s.setHitch key { s.hitch key with st := .poisoned } := by
  unfold Dev.poisonHitch; dsimp only
  rw [if_neg (by simpa using mapped), unwaited]
  exact Dev.runJobs_nil _

/-! ## Map writes (R196 to R198) -/

theorem exec_mapWrite (v : U64) (s : State) : exec (.mapWrite v) s = s.onBar (fun d => d.mapWrite v) := rfl

theorem Tab.find_del {α : Type} (t : Tab α) (k j : Nat) : Tab.find (Tab.del t k) j = if j = k then none else Tab.find t j := by
  induction t with
  | nil => simp [Tab.del, Tab.find]
  | cons e t ih =>
    obtain ⟨k', v'⟩ := e
    rw [Tab.del] at ih ⊢
    by_cases gone : k' = k
    · subst gone
      rw [List.filter_cons_of_neg (by simp), ih, Tab.find]
      split <;> rfl
    · rw [List.filter_cons_of_pos (by simpa using gone), Tab.find, ih, Tab.find]
      by_cases here : j = k'
      · subst here; simp [gone]
      · simp [here]

/-- The context with its map entry `vid` as the quantity `v` spells it, or unmapped. -/
def Ctx.withEntry (x : Ctx) (vid v : Nat) : Ctx :=
  { x with hmap := if (parseEntry v).2 then Tab.set x.hmap vid (parseEntry v).1 else Tab.del x.hmap vid }

theorem Ctx.find_withEntry (x : Ctx) (vid v w : Nat) : Tab.find (x.withEntry vid v).hmap w =
    if w = vid then (if (parseEntry v).2 then some (parseEntry v).1 else none) else Tab.find x.hmap w := by
  unfold Ctx.withEntry; dsimp only
  split
  · exact Tab.find_set _ _ _ _
  · exact Tab.find_del _ _ _

/-- A claim changes the hitches alone. -/
theorem Dev.claim_frame (s : Dev) (c : Nat) (e : HEntry) : ∃ y, s.claim c e = { s with sync := y } := by
  unfold Dev.claim
  split
  · exact ⟨s.sync, rfl⟩
  · exact ⟨_, rfl⟩

/-- The device with the hitch freed that an owner's entry gives up when `v` is written over it. -/
def Dev.freeOld (s : Dev) (c vid v : Nat) : Dev :=
  match s.mapEntry c vid with
  | some o =>
    if o.own && !((parseEntry v).2 && (parseEntry v).1.own && o.key == (parseEntry v).1.key) then s.setHitch o.key {} else s
  | none => s

theorem Dev.freeOld_frame (s : Dev) (c vid v : Nat) : ∃ y, s.freeOld c vid v = { s with sync := y } := by
  unfold Dev.freeOld
  split
  · split
    · exact ⟨_, rfl⟩
    · exact ⟨s.sync, rfl⟩
  · exact ⟨s.sync, rfl⟩

/-- A map write frees what the old entry gives up, writes the entry, and claims what it owns. -/
theorem Dev.mapSet_eq (s : Dev) (c vid v : Nat) :
    s.mapSet c vid v =
      let d := (s.freeOld c vid v).modCtx c (fun x => x.withEntry vid v)
      if (parseEntry v).2 && (parseEntry v).1.own then d.claim c (parseEntry v).1 else d := by
  have unfolded : s.mapSet c vid v =
      if (parseEntry v).2 then
        let d := (s.freeOld c vid v).modCtx c (fun x => { x with hmap := Tab.set x.hmap vid (parseEntry v).1 })
        if (parseEntry v).1.own then d.claim c (parseEntry v).1 else d
      else (s.freeOld c vid v).modCtx c (fun x => { x with hmap := Tab.del x.hmap vid }) := rfl
  rw [unfolded]
  cases valid : (parseEntry v).2 <;> simp [Ctx.withEntry, valid]

/-- An accepted map write changes its entry in the context's map and hitches, and nothing else. -/
theorem Dev.mapSet_frame (s : Dev) (c vid v : Nat) :
    ∃ y, s.mapSet c vid v = { s.modCtx c (fun x => x.withEntry vid v) with sync := y } := by
  obtain ⟨y, freed⟩ := s.freeOld_frame c vid v
  rw [Dev.mapSet_eq, freed]; dsimp only
  split
  · exact Dev.claim_frame _ _ _
  · exact ⟨y, rfl⟩

theorem Dev.mapEntry_mapSet (s : Dev) (c vid v k w : Nat) : (s.mapSet c vid v).mapEntry k w =
    if k = c ∧ w = vid then (if (parseEntry v).2 then some (parseEntry v).1 else none) else s.mapEntry k w := by
  obtain ⟨y, written⟩ := s.mapSet_frame c vid v
  have maps : (s.mapSet c vid v).mapEntry k w = Tab.find ((s.modCtx c (fun x => x.withEntry vid v)).ctx k).hmap w := by
    rw [written]; rfl
  rw [maps, Dev.ctx_modCtx, Dev.mapEntry]
  by_cases here : k = c
  · subst here; simp [Ctx.find_withEntry]
  · simp [here]

@[simp] theorem Dev.still_mapSet (s : Dev) (c vid v : Nat) : (s.mapSet c vid v).still = s.still := by
  obtain ⟨y, written⟩ := s.mapSet_frame c vid v
  rw [written]; rfl

@[simp] theorem Dev.mapSet_tiles (s : Dev) (c vid v : Nat) : (s.mapSet c vid v).tiles = s.tiles := by
  obtain ⟨y, written⟩ := s.mapSet_frame c vid v
  rw [written]; rfl

theorem Dev.mapWrite_of_accepted (s : Dev) (v : U64) (free : s.sync.pend = false)
    (accepted : s.mapStatus s.sync.selCtx.toNat s.sync.selVid.toNat v.toNat = .done) :
    s.mapWrite v = (s.mapSet s.sync.selCtx.toNat s.sync.selVid.toNat v.toNat).syncStatus .done := by
  simp [Dev.mapWrite, free, accepted]

theorem Dev.mapWrite_of_refused (s : Dev) (v : U64) (free : s.sync.pend = false)
    (refused : s.mapStatus s.sync.selCtx.toNat s.sync.selVid.toNat v.toNat ≠ .done) :
    s.mapWrite v = s.syncStatus (s.mapStatus s.sync.selCtx.toNat s.sync.selVid.toNat v.toNat) := by
  simp [Dev.mapWrite, free, refused]

/-- Settles O21: each operation by `Dev.hitchOp_of_accepted` and what it does where nothing waits, map writes by
`Dev.mapWrite_of_accepted`, `Dev.mapSet_frame` and `Dev.mapWrite_of_refused`. -/
theorem hitchRegisterOperations : Obligations.HitchRegisterOperations := by
  refine ⟨fun n s e hbar free named unwaited empty => ⟨fun isCount active counts fits => ?_, fun sound counts => ?_,
    fun sound barrier => ?_, fun mapped => ?_⟩, fun v s hbar free => ⟨fun accepted => ?_, fun refused => ?_⟩⟩
  · have signalled := s.dev.signal_of_fits s.dev.sync.selCtx.toNat e.key n active counts fits
    rw [exec_hostSignal, s.onBar_of_open _ hbar, s.dev.hitchOp_of_accepted e _ _ free named (by simp [failIf, isCount]),
      Dev.runJobs_raise_of_unwaited, signalled]
    rw [signalled, Dev.hitch_setHitch, if_pos rfl]; exact unwaited
  · rw [exec_set, s.onBar_of_open _ hbar, s.dev.hitchOp_of_accepted e _ _ free named (by simp [failIf, sound]),
      s.dev.setHitchOp_of_count _ _ unwaited counts]
  · rw [exec_set, s.onBar_of_open _ hbar, s.dev.hitchOp_of_accepted e _ _ free named (by simp [failIf, sound]),
      s.dev.setHitchOp_of_barrier _ _ empty barrier]
  · rw [exec_poison, s.onBar_of_open _ hbar, s.dev.hitchOp_of_accepted e _ _ free named rfl,
      s.dev.poisonHitch_of_unwaited _ mapped unwaited]
  · refine ⟨s.withDev ((s.dev.mapSet s.dev.sync.selCtx.toNat s.dev.sync.selVid.toNat v.toNat).syncStatus .done), ?_, rfl, ?_,
      fun k w elsewhere => ?_, s.dev.still_mapSet _ _ _, s.dev.mapSet_tiles _ _ _, rfl⟩
    · rw [exec_mapWrite, s.onBar_of_open _ hbar, s.dev.mapWrite_of_accepted v free accepted]
    · exact (s.dev.mapEntry_mapSet _ _ _ _ _).trans (if_pos ⟨rfl, rfl⟩)
    · exact (s.dev.mapEntry_mapSet _ _ _ _ _).trans (if_neg (fun same => elsewhere.elim (· same.1) (· same.2)))
  · rw [exec_mapWrite, s.onBar_of_open _ hbar, s.dev.mapWrite_of_refused v free refused]

end Sys2Proof.Machine
end

section
/-! Which commands complete (log entry 2), and the six that stop on operands that are no access and no flit (R228, R236; log
entry 113); O3, O4. -/
namespace Sys2Proof.Machine
open Sys2Proof

/-! ## Accesses to the window and flits -/

/-- An access to the window within its 512 GiB completes (R228). -/
theorem exec_hostWindowRead_of_lt (a : Nat) (cached : Bool) (s : State) (inside : a < windowSize) :
    exec (.hostWindowRead a cached) s = .next (s.withDev (s.dev.windowRead a cached)) :=
  if_neg (Nat.not_le.mpr inside)

theorem exec_hostWindowWrite_of_lt (a : Nat) (data : List Byte) (s : State) (inside : a < windowSize)
    (oneLine : inOneLine a data.length = true) :
    exec (.hostWindowWrite a data) s = .next (s.withDev (s.dev.windowWrite a data)) := by
  obtain ⟨nonempty, fits⟩ := Bool.and_eq_true_iff.mp oneLine
  have bytes : (data.isEmpty || decide (64 < a % 64 + data.length)) = false := by
    cases data with
    | nil => exact absurd nonempty Bool.false_ne_true
    | cons b bs => exact decide_eq_false (Nat.not_lt.mpr (of_decide_eq_true fits))
  show execHostWindowWrite a data s = _
  rw [execHostWindowWrite, if_neg (Nat.not_le.mpr inside), bytes]
  rfl

theorem State.onFlit_of_sized (s : State) (flit : List Byte) (f : Dev → Dev) (sized : flitSized flit = true) :
    s.onFlit flit f = .next (s.withDev (f s.dev)) :=
  if_pos (beq_iff_eq.mp sized)

theorem State.onFlit_of_other (s : State) (flit : List Byte) (f : Dev → Dev) (other : flit.length ≠ 256) :
    s.onFlit flit f = .refused (.illFormed "a flit is 256 bytes") :=
  if_neg other

/-- Settles O3: an access within the window and a flit of 256 bytes complete by the lemmas above; every other command is a
change of the device or of the state, which answers the state so changed. -/
theorem everyCommandCompletes : Obligations.EveryCommandCompletes := by
  intro c s wf readInside writeInside
  cases c with
  | hostWindowRead a cached => exact ⟨_, exec_hostWindowRead_of_lt a cached s (readInside a cached rfl)⟩
  | hostWindowWrite a data => exact ⟨_, exec_hostWindowWrite_of_lt a data s (writeInside a data rfl) wf⟩
  | dataFlit l flit fec => exact ⟨_, s.onFlit_of_sized flit _ wf⟩
  | idleFlit l flit fec => exact ⟨_, s.onFlit_of_sized flit _ wf⟩
  | nakFlit l flit fec => exact ⟨_, s.onFlit_of_sized flit _ wf⟩
  | timeFlit l flit fec => exact ⟨_, s.onFlit_of_sized flit _ wf⟩
  | _ => exact ⟨_, rfl⟩

/-- Settles O4: an address beyond the window fails the first check of either access, and `State.onFlit_of_other` refuses the
four flits for the same reason. -/
theorem impossibleAccessesStop : Obligations.ImpossibleAccessesStop := by
  refine ⟨fun a b s beyond => if_pos beyond, fun a d s beyond => if_pos beyond, fun l flit f s other => ?_⟩
  exact ⟨_, s.onFlit_of_other flit _ other, s.onFlit_of_other flit _ other, s.onFlit_of_other flit _ other,
    s.onFlit_of_other flit _ other⟩

end Sys2Proof.Machine
end

section
/-! Writes of MEM_ALLOT and MEM_STG (R215, R216, R227, R415): what an accepted allotment meets, and what a write
leaves; O22. -/
namespace Sys2Proof.Machine
open Sys2Proof

/-! ## Judgement of an allotment (R215) -/

/-- An operation that ends DONE has passed each check that refuses. -/
theorem firstRefusal_done {checks : List (Bool × Status)} (passed : firstRefusal checks = .done)
    (refuses : ∀ e ∈ checks, e.2 ≠ .done) : ∀ e ∈ checks, e.1 = false := by
  intro e he
  unfold firstRefusal at passed
  split at passed
  · next found => exact absurd passed (refuses _ (List.mem_of_find?_eq_some found))
  · next none => exact Bool.eq_false_iff.mpr (List.find?_eq_none.mp none e he)

/-- Two ranges of at least one unit that do not meet lie one behind the other. -/
theorem apart_of_not_rangesMeet {a n b m : Nat} (apart : rangesMeet a n b m = false) (hn : 0 < n) (hm : 0 < m) :
    a + n ≤ b ∨ b + m ≤ a := by
  simp only [rangesMeet, hn, hm, decide_true, Bool.true_and, Bool.and_eq_false_iff, decide_eq_false_iff_not] at apart
  omega

/-- An allotment that is enabled holds a save area, lies in the pool, and meets no other allotment (R215, R216). -/
theorem Dev.allotStatus_done {s : Dev} {c v : Nat} (accepted : s.allotStatus c v = .done) (en : bit v 0 = true) :
    0 < fld v 43 32 ∧ fitsPool s.mem (fld v 11 1) (fld v 43 32) = true ∧
      ∀ k < 64, k ≠ c → (s.ctx k).allotEn = true →
        rangesMeet (fld v 11 1) (fld v 43 32) (s.ctx k).allotBase.toNat (s.ctx k).allotSize.toNat = false := by
  have checks := firstRefusal_done accepted (by simp)
  simp only [List.forall_mem_cons, en, Bool.true_and, Bool.or_eq_false_iff, Bool.not_eq_false',
    decide_eq_false_iff_not] at checks
  obtain ⟨⟨fits, large⟩, others, -⟩ := checks
  refine ⟨Nat.pos_of_ne_zero (fun none => large (by rw [none]; omega)), fits, fun k hk hne hen => ?_⟩
  have other := List.any_eq_false.mp others k (List.mem_range.mpr hk)
  simpa [hne, hen] using other

/-! ## The writes -/

theorem exec_memAllotWrite (c : CtxId) (v : U64) (s : State) :
    exec (.memAllotWrite c v) s = s.onBar (fun d => d.memAllotWrite c.val v) := rfl

theorem exec_memStgWrite (c : CtxId) (d : DieId) (v : U64) (s : State) :
    exec (.memStgWrite c d v) s = s.onBar (fun x => x.memStgWrite c.val d.val v) := rfl

/-- The context with the allotment that a value of MEM_ALLOT gives. -/
def Ctx.withAllot (x : Ctx) (v : U64) : Ctx :=
  { x with allotEn := v.getLsbD 0, allotBase := v.extractLsb' 1 11, allotSize := v.extractLsb' 32 12 }

/-- The context with the range on a die's staging store that a value of MEM_STG gives. -/
def Ctx.withStg (x : Ctx) (die : Nat) (v : U64) : Ctx :=
  { x with stg := Tab.set x.stg die ⟨v.extractLsb' 32 14, v.extractLsb' 1 13, v.getLsbD 0⟩ }

theorem toNat_extractLsb'_eq_fld {w : Nat} (x : BitVec w) (hi lo : Nat) :
    (x.extractLsb' lo (hi + 1 - lo)).toNat = fld x.toNat hi lo := by
  simp [fld, Nat.shiftRight_eq_div_pow]

section
variable {s : Dev} {c die : Nat} {v : U64} (free : s.mem.pend = false)
include free

theorem Dev.memAllotWrite_of_accepted (accepted : s.allotStatus c v.toNat = .done) :
    s.memAllotWrite c v = (s.modCtx c (fun x => x.withAllot v)).memStatus .done := by
  simp only [Dev.memAllotWrite, free, accepted, bit_toNat, ofNat_fld_toNat v 11 1, ofNat_fld_toNat v 43 32]
  rfl

theorem Dev.memAllotWrite_of_refused (refused : s.allotStatus c v.toNat ≠ .done) :
    s.memAllotWrite c v = s.memStatus (s.allotStatus c v.toNat) := by
  simp [Dev.memAllotWrite, free, refused]

theorem Dev.memStgWrite_of_accepted (accepted : s.stgStatus c die v.toNat = .done) :
    s.memStgWrite c die v = (s.modCtx c (fun x => x.withStg die v)).memStatus .done := by
  simp only [Dev.memStgWrite, free, accepted, bit_toNat, ofNat_fld_toNat v 13 1, ofNat_fld_toNat v 45 32]
  rfl

theorem Dev.memStgWrite_of_refused (refused : s.stgStatus c die v.toNat ≠ .done) :
    s.memStgWrite c die v = s.memStatus (s.stgStatus c die v.toNat) := by
  simp [Dev.memStgWrite, free, refused]

end

@[simp] theorem Dev.ctx_memStatus (s : Dev) (st : Status) (k : Nat) : (s.memStatus st).ctx k = s.ctx k := rfl

/-- An allotment enabled by an accepted write lies in the pool, behind or before every other of at least one unit. -/
theorem Dev.allotment_of_accepted {s : Dev} {c : Nat} {v : U64} (accepted : s.allotStatus c v.toNat = .done)
    (en : v.getLsbD 0 = true) :
    ((v.extractLsb' 1 11).toNat + (v.extractLsb' 32 12).toNat) * 2 ^ 28 ≤ s.mem.capacity ∧
      ∀ k, k < 64 → k ≠ c → (s.ctx k).allotEn = true → 0 < (s.ctx k).allotSize.toNat →
        (v.extractLsb' 1 11).toNat + (v.extractLsb' 32 12).toNat ≤ (s.ctx k).allotBase.toNat ∨
        (s.ctx k).allotBase.toNat + (s.ctx k).allotSize.toNat ≤ (v.extractLsb' 1 11).toNat := by
  rw [← bit_toNat] at en
  rw [toNat_extractLsb'_eq_fld v 11 1, toNat_extractLsb'_eq_fld v 43 32]
  obtain ⟨large, fits, others⟩ := Dev.allotStatus_done accepted en
  exact ⟨of_decide_eq_true fits, fun k hk hne hen => apart_of_not_rangesMeet (others k hk hne hen) large⟩

/-- Settles O22: an accepted write by `Dev.memAllotWrite_of_accepted` and `Dev.memStgWrite_of_accepted`, whose allotment is
placed as `Dev.allotment_of_accepted` says; a refused one leaves the status alone. -/
theorem allotmentsAndRanges : Obligations.AllotmentsAndRanges := by
  refine ⟨fun c v s hbar free accepted => ?_, fun c d v s hbar free accepted => ?_, fun c d v s hbar free =>
    ⟨fun refused => ?_, fun refused => ?_⟩⟩
  · refine ⟨s.withDev ((s.dev.modCtx c.val (fun x => x.withAllot v)).memStatus .done), ?_, rfl, ?_⟩
    · rw [exec_memAllotWrite, s.onBar_of_open _ hbar, Dev.memAllotWrite_of_accepted free accepted]
    · simp only [Dev.ctx_memStatus, Dev.ctx_modCtx, if_true]
      refine ⟨rfl, rfl, rfl, fun k hk => if_neg hk, fun en => ?_⟩
      obtain ⟨fits, apart⟩ := Dev.allotment_of_accepted accepted en
      exact ⟨fits, fun k hk hne => by rw [if_neg hne]; exact apart k hk hne⟩
  · refine ⟨s.withDev ((s.dev.modCtx c.val (fun x => x.withStg d.val v)).memStatus .done), ?_, rfl, ?_,
      fun k hk => ?_, rfl, rfl⟩
    · rw [exec_memStgWrite, s.onBar_of_open _ hbar, Dev.memStgWrite_of_accepted free accepted]
    · simp [Ctx.withStg]
    · simp [hk]
  · rw [exec_memAllotWrite, s.onBar_of_open _ hbar, Dev.memAllotWrite_of_refused free refused]
  · rw [exec_memStgWrite, s.onBar_of_open _ hbar, Dev.memStgWrite_of_refused free refused]

end Sys2Proof.Machine
end

section
/-! What a device fault leaves alone (R318): the registers of the stacks, and of each context all but its work, its rings and
events, its tiles and its part in exchange, update and hold. -/
namespace Sys2Proof.Machine
open Sys2Proof

/-! ## What stays through a device fault -/

/-- The memory without the contents of the stacks. -/
def MemBlk.bare (m : MemBlk) : MemBlk := { m with pool := [], poison := [], latent := [] }

/-- The context without what a device fault changes besides its launches and its hold. -/
def Ctx.lasting (x : Ctx) : Ctx :=
  { x.sansRings with
    saved := [], evq := [], evtSeq := 0, lost := false, evtLost := 0, cpls := [], bkts := [], upd := {}
    holdStep := 0, ewHeld := false, ewReady := false }

/-- The memory without its contents, the Farrier and one context without what a device fault ends. -/
structure FaultView where
  mem : MemBlk
  farr : Farr
  ctx : Ctx

def Dev.faultView (j : Nat) (s : Dev) : FaultView := ⟨s.mem.bare, s.farr, (s.ctx j).lasting⟩

section
variable {j : Nat}

theorem Dev.mem_of_outer {s t : Dev} (outer : t.outer = s.outer) : t.mem = s.mem := (congrArg Dev.mem outer :)

theorem Dev.farr_of_outer {s t : Dev} (outer : t.outer = s.outer) : t.farr = s.farr := (congrArg Dev.farr outer :)

theorem Dev.faultView_of_outer {s t : Dev} (outer : t.outer = s.outer) (ctx : (t.ctx j).lasting = (s.ctx j).lasting) :
    t.faultView j = s.faultView j := by
  rw [Dev.faultView, Dev.mem_of_outer outer, Dev.farr_of_outer outer, ctx, Dev.faultView]

theorem Dev.faultView_setCtx (s : Dev) (c : Nat) (x : Ctx) (lasting : x.lasting = (s.ctx c).lasting) :
    (s.setCtx c x).faultView j = s.faultView j := by
  refine Dev.faultView_of_outer rfl ?_
  rw [Dev.ctx_setCtx]
  split
  · next same => rw [same, lasting]
  · rfl

theorem Dev.faultView_modCtx (s : Dev) (c : Nat) (f : Ctx → Ctx) (lasting : ∀ x, (f x).lasting = x.lasting) :
    (s.modCtx c f).faultView j = s.faultView j :=
  s.faultView_setCtx c _ (lasting _)

/-! ### Tiles and waiters -/

@[simp] theorem Dev.faultView_setTile (s : Dev) (c t : Nat) (v : Tile) : (s.setTile c t v).faultView j = s.faultView j := by
  unfold Dev.setTile; dsimp only; split
  · split
    · exact s.faultView_setCtx c _ rfl
    · rfl
  · split <;> rfl

@[simp] theorem Dev.faultView_modTile (s : Dev) (c t : Nat) (f : Tile → Tile) :
    (s.modTile c t f).faultView j = s.faultView j :=
  s.faultView_setTile c t _

@[simp] theorem Dev.faultView_grant (key : Nat) (s : Dev) (w : Waiter) :
    (Dev.grant key s w).faultView j = s.faultView j := by
  unfold Dev.grant; split
  · exact s.faultView_modTile _ _ _
  · exact s.faultView_modTile _ _ _
  · rfl

@[simp] theorem Dev.faultView_serve (s : Dev) (key : Nat) : (s.serve key).faultView j = s.faultView j := by
  unfold Dev.serve; dsimp only; split
  · rfl
  · exact foldl_keeps (Dev.faultView j) _ (Dev.faultView_grant key) _ _

@[simp] theorem Dev.faultView_awaken (s : Dev) (p : Sleeper → Bool) : (s.awaken p).faultView j = s.faultView j :=
  foldl_keeps (Dev.faultView j) _ Dev.faultView_serve _ _

@[simp] theorem Dev.faultView_engineOff (s : Dev) (c : Nat) (p : Nat → Bool) :
    (s.engineOff c p).faultView j = s.faultView j :=
  s.faultView_awaken _

/-! ### Records and events -/

@[simp] theorem Dev.faultView_ringWrite (s : Dev) (c r : Nat) (bs : List Byte) (now : Bool) :
    (s.ringWrite c r bs now).faultView j = s.faultView j := by
  refine Dev.faultView_of_outer (s.outer_ringWrite c r bs now) ?_
  by_cases same : j = c
  · subst same; exact (congrArg Ctx.lasting (s.sansRings_ringWrite j r bs now) :)
  · rw [s.ctx_ringWrite_ne r bs now same]

@[simp] theorem Dev.faultView_writeEvent (s : Dev) (c : Nat) (e : Ev) : (s.writeEvent c e).faultView j = s.faultView j := by
  unfold Dev.writeEvent; dsimp only; split
  · rfl
  · split
    · exact (Dev.faultView_ringWrite _ _ _ _ _).trans (s.faultView_setCtx c _ rfl)
    · exact s.faultView_setCtx c _ rfl

@[simp] theorem Dev.faultView_flushEvents (s : Dev) (c : Nat) : (s.flushEvents c).faultView j = s.faultView j :=
  (foldl_keeps (Dev.faultView j) _ (fun d e => d.faultView_writeEvent c e) _ _).trans (s.faultView_modCtx c _ (fun _ => rfl))

@[simp] theorem Dev.faultView_event (s : Dev) (c ty : Nat) (p q : U64) : (s.event c ty p q).faultView j = s.faultView j := by
  unfold Dev.event; split
  · rfl
  · dsimp only; split
    · exact (Dev.faultView_flushEvents _ c).trans (s.faultView_modCtx c _ (fun _ => rfl))
    · exact s.faultView_modCtx c _ (fun _ => rfl)

@[simp] theorem Dev.faultView_ewCheck (s : Dev) (c : Nat) : (s.ewCheck c).faultView j = s.faultView j := by
  unfold Dev.ewCheck; dsimp only; split
  · exact (Dev.faultView_event _ c _ _ _).trans (s.faultView_setCtx c _ rfl)
  · rfl

/-! ### Buckets and the update list -/

@[simp] theorem Dev.faultView_setBucket (s : Dev) (c b : Nat) (k : Bucket) :
    (s.setBucket c b k).faultView j = s.faultView j :=
  s.faultView_modCtx c (fun x => { x with bkts := Tab.set x.bkts b k }) (fun _ => rfl)

@[simp] theorem Dev.faultView_failBucket (s : Dev) (c b : Nat) (st : Status) :
    (s.failBucket c b st).faultView j = s.faultView j := by
  unfold Dev.failBucket; dsimp only; split
  · rfl
  · rw [Dev.faultView_ewCheck, Dev.faultView_event, Dev.faultView_engineOff]
    exact s.faultView_setBucket c b _

/-- Bytes written into the stacks are among their contents. -/
@[simp] theorem Dev.faultView_writeHbm (s : Dev) (c off : Nat) (bs : List Byte) :
    (s.writeBytes c ⟨.hbm, off⟩ bs).faultView j = s.faultView j := rfl

@[simp] theorem Dev.faultView_fresh (s : Dev) : s.fresh.2.faultView j = s.faultView j := rfl

@[simp] theorem Dev.faultView_spoil (s : Dev) (c off n : Nat) : (s.spoil c off n).faultView j = s.faultView j :=
  Dev.faultView_writeHbm { s with freeCtr := s.freeCtr + n } c off _

@[simp] theorem Dev.faultView_spoilEntry (s : Dev) (c : Nat) (d : UpdDie) : (s.spoilEntry c d).faultView j = s.faultView j := by
  unfold Dev.spoilEntry; split
  · dsimp only
    rw [Dev.faultView_spoil, Dev.faultView_spoil, Dev.faultView_writeHbm, Dev.faultView_fresh, Dev.faultView_fresh]
  · rfl

/-- The context with another update list. -/
def Ctx.withUpd (u : Upd) (x : Ctx) : Ctx := { x with upd := u }

@[simp] theorem Dev.faultView_withUpd (s : Dev) (c : Nat) (u : Upd) :
    (s.modCtx c (Ctx.withUpd u)).faultView j = s.faultView j :=
  s.faultView_modCtx c _ (fun _ => rfl)

@[simp] theorem Dev.faultView_failList (s : Dev) (c : Nat) (st : Status) : (s.failList c st).faultView j = s.faultView j := by
  unfold Dev.failList; dsimp only; split
  · rfl
  · rw [Dev.faultView_ewCheck, Dev.faultView_event, Dev.faultView_engineOff]
    refine (Dev.faultView_withUpd ((s.spoilEntry c (s.ctx c).upd.near).spoilEntry c (s.ctx c).upd.off) c _).trans ?_
    rw [Dev.faultView_spoilEntry, Dev.faultView_spoilEntry]

end

/-! ## What a device fault ends -/

/-- The view with its context changed. -/
def FaultView.mapCtx (g : Ctx → Ctx) (v : FaultView) : FaultView := { v with ctx := g v.ctx }

def Ctx.unlaunched (x : Ctx) : Ctx := { x with launches := [] }
def Ctx.held (x : Ctx) : Ctx := { x with faultHold := true }

section
variable {j : Nat}

/-- A change of one context changes its own view alone. -/
theorem Dev.faultView_modCtx_eq (s : Dev) (c : Nat) (f g : Ctx → Ctx) (lasting : ∀ x, (f x).lasting = g x.lasting) :
    (s.modCtx c f).faultView j = if j = c then (s.faultView j).mapCtx g else s.faultView j := by
  unfold Dev.faultView
  rw [Dev.ctx_modCtx]
  split
  · next same => rw [same, lasting]; rfl
  · rfl

@[simp] theorem Dev.faultView_discardTiles (s : Dev) (c : Nat) : (s.discardTiles c).faultView j = s.faultView j := by
  refine foldl_keeps (Dev.faultView j) _ (fun d t => ?_) _ _
  split
  · exact d.faultView_modTile c t _
  · rfl

@[simp] theorem Dev.faultView_retiredPos (s : Dev) (c : Nat) : (s.retiredPos c).2.faultView j = s.faultView j := by
  unfold Dev.retiredPos; dsimp only; split <;> rfl

theorem Dev.faultView_discardLaunches (s : Dev) (c : Nat) : (s.discardLaunches c).faultView j =
    if j = c then (s.faultView j).mapCtx Ctx.unlaunched else s.faultView j := by
  unfold Dev.discardLaunches; split
  · next empty =>
    have none : (s.ctx c).launches = [] := List.isEmpty_iff.mp empty
    have same : (s.ctx c).unlaunched = s.ctx c := by rw [Ctx.unlaunched, ← none]
    split
    · next here => subst here; exact (congrArg (fun x : Ctx => FaultView.mk s.mem.bare s.farr x.lasting) same).symm
    · rfl
  · rw [← s.faultView_retiredPos c]
    exact Dev.faultView_modCtx_eq _ c _ Ctx.unlaunched (fun _ => rfl)

/-- A device fault discards the work of a context (R318 steps 2 to 4). -/
def Dev.faultWork (st : Status) (s : Dev) (c : Nat) : Dev :=
  let d := (s.discardTiles c).modCtx c (fun x => { x with ewHeld := false })
  (((d.ctx c).bkts.foldl (fun s e => s.failBucket c e.1 st) d).failList c st).discardLaunches c

/-- The position that the event of a device fault names. -/
def Dev.faultPos (s : Dev) (c : Nat) : U64 × Dev := if (s.ring c 2).en then s.retiredPos c else (0, s)

theorem Dev.faultCtx_eq (st : Status) (cause : Nat) (s : Dev) (c : Nat) : Dev.faultCtx st cause s c =
    (((Dev.faultWork st s c).faultPos c).2.event c 0x01 (BitVec.ofNat 64 (at' cause 8 + st.code))
      ((Dev.faultWork st s c).faultPos c).1).modCtx c
        (fun x => { x with faultHold := true, holdStep := 0, ewHeld := false, ewReady := false }) := by
  unfold Dev.faultCtx Dev.faultWork Dev.faultPos
  dsimp only

theorem Dev.faultView_faultWork (st : Status) (s : Dev) (c : Nat) : (Dev.faultWork st s c).faultView j =
    if j = c then (s.faultView j).mapCtx Ctx.unlaunched else s.faultView j := by
  unfold Dev.faultWork
  rw [Dev.faultView_discardLaunches, Dev.faultView_failList,
    foldl_keeps (Dev.faultView j) _ (fun d (e : Nat × Bucket) => d.faultView_failBucket c e.1 st),
    Dev.faultView_modCtx _ c (fun x => { x with ewHeld := false }) (fun _ => rfl), Dev.faultView_discardTiles]

@[simp] theorem Dev.faultView_faultPos (s : Dev) (c : Nat) : (s.faultPos c).2.faultView j = s.faultView j := by
  unfold Dev.faultPos; split
  · exact s.faultView_retiredPos c
  · rfl

/-- What a device fault does to one context ends its launches and holds it, and changes no other. -/
theorem Dev.faultView_faultCtx (st : Status) (cause : Nat) (s : Dev) (c : Nat) : (Dev.faultCtx st cause s c).faultView j =
    if j = c then (s.faultView j).mapCtx (fun x => x.unlaunched.held) else s.faultView j := by
  rw [Dev.faultCtx_eq, Dev.faultView_modCtx_eq _ c _ Ctx.held (fun _ => rfl), Dev.faultView_event, Dev.faultView_faultPos,
    Dev.faultView_faultWork]
  split <;> rfl

end

/-- Steps that each change the part of their own key, and no more when repeated, change the parts of the keys met. -/
theorem foldl_keyed {α β : Type} (part : Nat → α → β) (f : α → Nat → α) (g : β → β) (again : ∀ b, g (g b) = g b)
    (step : ∀ a c j, part j (f a c) = if j = c then g (part j a) else part j a) (cs : List Nat) (a : α) (j : Nat) :
    part j (cs.foldl f a) = if j ∈ cs then g (part j a) else part j a := by
  induction cs generalizing a with
  | nil => rfl
  | cons c cs ih =>
    rw [List.foldl_cons, ih, step]
    by_cases later : j ∈ cs
    · rw [if_pos later, if_pos (List.mem_cons_of_mem c later)]
      split
      · exact again _
      · rfl
    · simp only [if_neg later, List.mem_cons, or_iff_left later]

/-- The Farrier with a device fault of a cause (R318). -/
def Farr.faulted (f : Farr) (cause : Nat) : Farr :=
  { f with faults := satAdd f.faults 1, cause := BitVec.ofNat 8 cause, repair := true }

/-- A device fault is noted, the waiters leave their hitches and operations and function loads end, before it reaches the
contexts (R318). -/
def Dev.faultNoted (s : Dev) (cause : Nat) : Dev :=
  let d := ({ s with farr := s.farr.faulted cause, side := s.side.raise 1 } : Dev).dropWaiters (fun _ => true)
  let d := { d with fab := { d.fab with ops := [] } }
  if d.sfu.state = 1 then { d with sfu := { d.sfu with state := 3, status := Status.faultDiscarded.byte } } else d

theorem Dev.deviceFault_eq (s : Dev) (cause : Nat) : s.deviceFault cause =
    allCtx.foldl (Dev.faultCtx (if cause = 0x3F then .internal else .faultDiscarded) cause) (s.faultNoted cause) := rfl

theorem Dev.faultView_faultNoted (s : Dev) (cause j : Nat) :
    (s.faultNoted cause).faultView j = { s.faultView j with farr := s.farr.faulted cause } := by
  have woken := Dev.faultView_awaken (j := j) { s with farr := s.farr.faulted cause, side := s.side.raise 1 } (fun _ => true)
  unfold Dev.faultNoted; dsimp only
  split <;> exact woken

theorem Dev.faultView_deviceFault (s : Dev) (cause j : Nat) (h : j < 64) : (s.deviceFault cause).faultView j =
    { mem := s.mem.bare, farr := s.farr.faulted cause, ctx := (s.ctx j).lasting.unlaunched.held } := by
  rw [Dev.deviceFault_eq, foldl_keyed Dev.faultView _ (FaultView.mapCtx fun x => x.unlaunched.held) (fun _ => rfl)
    (fun d c j => d.faultView_faultCtx _ cause c), if_pos (show j ∈ allCtx from List.mem_range.mpr h),
    Dev.faultView_faultNoted]
  rfl

/-- After a device fault the stacks have their registers. -/
theorem Dev.bare_deviceFault (s : Dev) (cause : Nat) : (s.deviceFault cause).mem.bare = s.mem.bare :=
  (FaultView.mk.inj (s.faultView_deviceFault cause 0 (by decide))).1

theorem Dev.farr_deviceFault (s : Dev) (cause : Nat) : (s.deviceFault cause).farr = s.farr.faulted cause :=
  (FaultView.mk.inj (s.faultView_deviceFault cause 0 (by decide))).2.1

/-- A context that a device fault has reached has lost its launches and is held. -/
theorem Dev.lasting_deviceFault (s : Dev) (cause : Nat) {c : Nat} (h : c < 64) :
    ((s.deviceFault cause).ctx c).lasting = (s.ctx c).lasting.unlaunched.held :=
  (FaultView.mk.inj (s.faultView_deviceFault cause c h)).2.2

end Sys2Proof.Machine
end

section
/-! The CXL.mem window, its snoops and its decoder (R228 to R231, R342); O23. -/
namespace Sys2Proof.Machine
open Sys2Proof

/-! ## Reads and writes through the window (R228, R229) -/

theorem Dev.meetLine_of_sound (s : Dev) (line : Nat) (sound : Tab.find s.mem.latent line = none) : s.meetLine line = s := by
  rw [Dev.meetLine, sound]

/-- The device with a line and its poison mark as the answer to the host's read. -/
def Dev.answerRead (s : Dev) (line : Nat) : Dev :=
  { s with hif := { s.hif with
      winData := Mem.readN s.mem.pool (64 * line) 64, winPoison := s.mem.poison.contains line } }

theorem MemBlk.mem_snoop_track (m : MemBlk) (line : Nat) : line ∈ (m.track line).snoop := by
  unfold MemBlk.track; dsimp only; split <;> exact List.mem_append_right _ List.mem_cons_self

theorem MemBlk.pool_track (m : MemBlk) (line : Nat) : (m.track line).pool = m.pool := by
  unfold MemBlk.track; dsimp only; split <;> rfl

section
variable {s : Dev} {a : Nat} (holds : s.windowHolds a = true)
include holds

theorem Dev.windowRead_of_sound (ready : s.memReady = true) (inPool : a < s.mem.capacity)
    (sound : Tab.find s.mem.latent (a / 64) = none) (cached : Bool) :
    s.windowRead a cached =
      if cached then { s.answerRead (a / 64) with mem := s.mem.track (a / 64) } else s.answerRead (a / 64) := by
  simp only [Dev.windowRead, holds, ready, Nat.not_le.mpr inPool, s.meetLine_of_sound _ sound]
  rfl

theorem Dev.windowWrite_of_ready (ready : s.memReady = true) (inPool : a < s.mem.capacity) (bs : List Byte) :
    s.windowWrite a bs = { s with mem := s.mem.poolWrite (cellsAt a bs) } := by
  simp [Dev.windowWrite, holds, ready, Nat.not_le.mpr inPool]

section
variable (unanswered : s.mem.capacity ≤ a ∨ s.memReady = false)
include unanswered

theorem Dev.windowWrite_of_unanswered (bs : List Byte) : s.windowWrite a bs = s.rejectWindow := by
  obtain outside | unready := unanswered <;> simp [Dev.windowWrite, *]

theorem Dev.windowRead_of_unanswered (cached : Bool) : s.windowRead a cached =
    ({ s with hif := { s.hif with winData := List.replicate 64 0, winPoison := true } } : Dev).rejectWindow := by
  obtain outside | unready := unanswered <;> simp [Dev.windowRead, zeros, *]

end
end

theorem cellsAt_cons (a : Nat) (b : Byte) (bs : List Byte) : cellsAt a (b :: bs) = (a, b) :: cellsAt (a + 1) bs := by
  simp [cellsAt, List.range_succ_eq_map, List.zip_map_left, Function.comp_def, Nat.add_assoc, Nat.add_comm 1]

/-- Consecutive cells are written as consecutive bytes are. -/
theorem Mem.writeCells_cellsAt (m : Mem) (a : Nat) (bs : List Byte) : m.writeCells (cellsAt a bs) = m.writeN a bs := by
  induction bs generalizing m a with
  | nil => rfl
  | cons b bs ih => rw [cellsAt_cons, Mem.writeCells, Mem.writeN, ih]

/-! ## Snoops and the decoder (R229, R342) -/

theorem exec_backInvalidateTimeout (l : Nat) (s : State) :
    exec (.backInvalidateTimeout l) s = .next (s.withDev (s.dev.biTimeout l)) := rfl

theorem exec_backInvalidateResponse (l : Nat) (s : State) :
    exec (.backInvalidateResponse l) s = .next (s.withDev (s.dev.biResponse l)) := rfl

theorem exec_hostSnoop (l : Nat) (s : State) : exec (.hostSnoop l) s = .next (s.withDev
    (if s.dev.hif.up && s.dev.hif.cache then { s.dev with hif := { s.dev.hif with snoopMiss := s.dev.hif.snoopMiss + 1 } }
      else s.dev)) := rfl

theorem exec_hdmCommit (b z : Nat) (bi : Bool) (s : State) :
    exec (.hdmCommit b z bi) s = .next (s.withDev (s.dev.hdmCommit b z bi)) := rfl

/-- The device that waits for no answer about a line. -/
def Dev.unwaited (s : Dev) (line : Nat) : Dev :=
  { s with mem := { s.mem with biWait := s.mem.biWait.filter (· != line) } }

theorem MemBlk.biWait_of_bare {m n : MemBlk} (same : m.bare = n.bare) : m.biWait = n.biWait :=
  (congrArg MemBlk.biWait same :)

section
variable {s : Dev} {line : Nat} (waiting : line ∈ s.mem.biWait)
include waiting

theorem Dev.biTimeout_of_waiting : s.biTimeout line = (s.unwaited line).deviceFault 0x3F :=
  if_pos (List.contains_iff_mem.mpr waiting)

/-- The fault for an unanswered snoop gives up its line (R342). -/
theorem Dev.biWait_biTimeout : (s.biTimeout line).mem.biWait = s.mem.biWait.filter (· != line) := by
  rw [Dev.biTimeout_of_waiting waiting]
  exact MemBlk.biWait_of_bare (Dev.bare_deviceFault _ _)

theorem Dev.farr_biTimeout : (s.biTimeout line).farr = s.farr.faulted 0x3F := by
  rw [Dev.biTimeout_of_waiting waiting]
  exact Dev.farr_deviceFault _ _

/-- While no function load runs, an answer releases its line and nothing else happens. -/
theorem Dev.biResponse_of_waiting (idle : s.sfu.state ≠ 1) : s.biResponse line =
    { s with mem := { s.mem with
        biWait := s.mem.biWait.filter (· != line), snoop := s.mem.snoop.filter (· != line) } } := by
  rw [Dev.biResponse, if_pos (List.contains_iff_mem.mpr waiting)]
  exact if_pos idle

end

section
variable {s : Dev} (hbar : s.barOpen = true) (full : s.hif.flit68 = false) (base : Nat) {size : Nat} {bi : Bool}
include hbar full

theorem Dev.hdmCommit_of_fits (fits : size ≤ windowSize) (hbi : bi = true) : s.hdmCommit base size bi =
    { s with hif := { s.hif with
      hdmCommitted := true, hdmBase := base / 2 ^ 28 * 2 ^ 28, hdmSize := size / 2 ^ 28 * 2 ^ 28
      biEn := true, mem := true } } := by
  simp [Dev.hdmCommit, hdmGrain, hbar, full, hbi, Nat.not_lt.mpr fits]

theorem Dev.hdmCommit_of_refused (refused : windowSize < size ∨ bi = false) : s.hdmCommit base size bi =
    { s with hif := { s.hif with hdmCommitted := false, mem := false } } := by
  simp [Dev.hdmCommit, hbar, full, refused]

end

/-! ## O23 -/

/-- Settles O23: the window by `Dev.windowRead_of_sound`, `Dev.windowWrite_of_ready` and the accesses that the pool cannot
answer; snoops by `Dev.biTimeout_of_waiting` and `Dev.biResponse_of_waiting`; the decoder by the two cases of a commit. -/
theorem windowAndSnoops : Obligations.WindowAndSnoops := by
  refine ⟨⟨fun a k s inside holds ready inPool sound => ?_, fun a bs s inside nonempty fits holds ready inPool wf => ?_,
    fun a k bs s inside nonempty fits holds unanswered => ?_⟩, fun l s waiting => ⟨?_, fun idle => ?_⟩, fun l s up cache => ?_,
    fun b z bi s hbar full => ⟨fun fits hbi => ?_, fun refused => ?_⟩⟩
  · refine ⟨_, exec_hostWindowRead_of_lt a k s inside, ?_⟩
    rw [Dev.windowRead_of_sound holds ready inPool sound]
    cases k with
    | true => exact ⟨rfl, rfl, MemBlk.pool_track _ _, rfl, rfl, fun _ => MemBlk.mem_snoop_track _ _, nofun⟩
    | false => exact ⟨rfl, rfl, rfl, rfl, rfl, nofun, fun _ => rfl⟩
  · have written : (s.dev.mem.poolWrite (cellsAt a bs)).pool = s.dev.mem.pool.writeN a bs := Mem.writeCells_cellsAt _ a bs
    have oneLine : inOneLine a bs.length = true := by simp [inOneLine, fits, List.length_pos_iff.mpr nonempty]
    refine ⟨_, exec_hostWindowWrite_of_lt a bs s inside oneLine, ?_⟩
    rw [Dev.windowWrite_of_ready holds ready inPool]
    dsimp only
    rw [written]
    exact ⟨Mem.readN_writeN _ a bs wf, fun x outside => Mem.read_writeN_outside _ a x bs wf outside, rfl⟩
  · have oneLine : inOneLine a bs.length = true := by simp [inOneLine, fits, List.length_pos_iff.mpr nonempty]
    rw [exec_hostWindowWrite_of_lt a bs s inside oneLine, exec_hostWindowRead_of_lt a k s inside,
      Dev.windowWrite_of_unanswered holds unanswered, Dev.windowRead_of_unanswered holds unanswered]
    exact ⟨rfl, rfl⟩
  · refine ⟨_, exec_backInvalidateTimeout l s, ?_⟩
    dsimp only
    rw [Dev.biWait_biTimeout waiting, Dev.farr_biTimeout waiting]
    exact ⟨by simp, rfl, rfl, rfl⟩
  · refine ⟨_, exec_backInvalidateResponse l s, ?_⟩
    rw [Dev.biResponse_of_waiting waiting idle]
    exact ⟨by simp, by simp, rfl, rfl, rfl⟩
  · rw [exec_hostSnoop, if_pos (Bool.and_eq_true_iff.mpr ⟨up, cache⟩)]
  · rw [exec_hdmCommit, Dev.hdmCommit_of_fits hbar full b fits hbi]
  · rw [exec_hdmCommit, Dev.hdmCommit_of_refused hbar full b refused]

end Sys2Proof.Machine
end

section
/-! Errors, repair and retirement in the stacks, and their initialisation (R213, R217 to R222, R317, R323); O24. -/
namespace Sys2Proof.Machine
open Sys2Proof

/-! ## Patrol scrub (R218 to R220) -/

theorem exec_patrolScrub (l : Nat) (found : LineCheck) (s : State) :
    exec (.patrolScrub l found) s = .next (s.withDev (s.dev.patrolScrub l found)) := rfl

@[simp] theorem MemBlk.chan_setChan (m : MemBlk) (k j : Nat) (h : Chan) :
    (m.setChan k h).chan j = if j = k then h else m.chan j :=
  Tab.get_set _ _ _ _ _

theorem MemBlk.chan_setChan_self (m : MemBlk) (k : Nat) (h : Chan) : (m.setChan k h).chan k = h := by simp

/-- A corrected line changes the registers of its channel. -/
theorem Dev.hbmCorrected_eq (s : Dev) (line : Nat) : ∃ h : Chan,
    h.corr = satAdd (s.mem.chan (s.mem.place (64 * line)).1).corr 1 ∧
    s.hbmCorrected line = { s with mem := s.mem.setChan (s.mem.place (64 * line)).1 h } :=
  ⟨_, rfl, rfl⟩

/-- The poisoned lines with one more that may be among them. -/
def poisonWith (poison : List Nat) (line : Nat) : List Nat := if poison.contains line then poison else line :: poison

theorem mem_poisonWith (poison : List Nat) (line : Nat) :
    line ∈ poisonWith poison line ∧ ∀ p ∈ poison, p ∈ poisonWith poison line := by
  unfold poisonWith; split
  · next already => exact ⟨List.contains_iff_mem.mp already, fun _ hp => hp⟩
  · exact ⟨List.mem_cons_self, fun _ hp => List.mem_cons_of_mem _ hp⟩

/-- An uncorrectable line changes the registers of its channel and joins the poisoned lines. -/
theorem Dev.hbmUncorrectable_eq (s : Dev) (line : Nat) : ∃ h : Chan,
    h.uncorr = satAdd (s.mem.chan (s.mem.place (64 * line)).1).uncorr 1 ∧
    s.hbmUncorrectable line = { s with mem := { s.mem.setChan (s.mem.place (64 * line)).1 h with
      poison := poisonWith s.mem.poison line } } :=
  ⟨_, rfl, rfl⟩

section
variable {s : Dev} {line : Nat} (enabled : s.mem.scrubEn = true) (ready : s.memReady = true)
  (inPool : 64 * line < s.mem.capacity) (sound : Tab.find s.mem.latent line = none)

/-- The device after the upset of a sound line has been found. -/
def Dev.upsetMet (s : Dev) (line : Nat) (bad : Bool) : Dev :=
  { s with mem := { s.mem with latent := Tab.del (Tab.set s.mem.latent line bad) line } }

include sound in
/-- An upset of a sound line is what the next read of it finds. -/
theorem Dev.meetLine_upset (bad : Bool) : ({ s with mem := s.mem.upset line bad } : Dev).meetLine line =
    if bad then (s.upsetMet line bad).hbmUncorrectable line else (s.upsetMet line bad).hbmCorrected line := by
  have upset : s.mem.upset line bad = { s.mem with latent := Tab.set s.mem.latent line bad } := by
    simp [MemBlk.upset, sound]
  rw [upset]
  unfold Dev.meetLine
  dsimp only
  rw [Tab.find_set, if_pos rfl]
  rfl

include enabled ready inPool sound

theorem Dev.patrolScrub_clean : s.patrolScrub line .clean = s := by
  simp [Dev.patrolScrub, enabled, ready, Nat.not_le.mpr inPool, s.meetLine_of_sound line sound]

theorem Dev.patrolScrub_corrected : s.patrolScrub line .corrected = (s.upsetMet line false).hbmCorrected line := by
  simp [Dev.patrolScrub, enabled, ready, Nat.not_le.mpr inPool, Dev.meetLine_upset sound]

theorem Dev.patrolScrub_uncorrectable :
    s.patrolScrub line .uncorrectable = (s.upsetMet line true).hbmUncorrectable line := by
  simp [Dev.patrolScrub, enabled, ready, Nat.not_le.mpr inPool, Dev.meetLine_upset sound]

end

/-! ## Row repair (R221) -/

theorem exec_rowRepair (k : Fin 256) (b r : Nat) (spare : Bool) (s : State) :
    exec (.rowRepair k b r spare) s = .next (s.rowRepair k.val b r spare) := rfl

/-- The channel with a row moved to a repair row at a time. -/
def Chan.repair (h : Chan) (bank row now : Nat) : Chan :=
  { h with
    ppr := satAdd h.ppr 1, repairAt := some now
    rows := h.rows.filter (fun e => !(e.1 == bank && e.2.1 == row))
    rowUnc := h.rowUnc.filter (fun e => e != (bank, row)), repaired := h.repaired ++ [(bank, row)] }

/-- The channel with a bank noted as spent. -/
def Chan.spend (h : Chan) (bank : Nat) : Chan :=
  { h with spent := if h.spent.contains bank then h.spent else h.spent ++ [bank] }

theorem Chan.mem_spent_spend (h : Chan) (bank : Nat) : bank ∈ (h.spend bank).spent := by
  unfold Chan.spend; dsimp only; split
  · next noted => exact List.contains_iff_mem.mp noted
  · exact List.mem_append_right _ List.mem_cons_self

/-- A repaired row has no error left to repair it for. -/
theorem Dev.rowFails_repair (s : Dev) (h : Chan) (bank row now : Nat) :
    s.rowFails (h.repair bank row now) bank row = false := by
  simp only [Dev.rowFails, Chan.repair, Bool.or_eq_false_iff, decide_eq_false_iff_not, List.filter_filter]
  refine ⟨by simp, ?_⟩
  rw [List.filter_eq_nil_iff.mpr]
  · decide
  · simp +contextual

section
variable {s : State} {ch bank row : Nat} (inService : (s.dev.mem.chan ch).retired = false) (ready : s.dev.memReady = true)
  (fails : s.dev.rowFails (s.dev.mem.chan ch) bank row = true)
include inService ready fails

theorem State.rowRepair_of_spare : s.rowRepair ch bank row true =
    { s with
      dev := { s.dev with mem := s.dev.mem.setChan ch ((s.dev.mem.chan ch).repair bank row s.dev.time.ns.toNat) }
      rst := { s.rst with repairLog := s.rst.repairLog ++ [(ch, bank, row)] } } := by
  simp [State.rowRepair, inService, ready, fails, Chan.repair]

theorem State.rowRepair_of_spent : s.rowRepair ch bank row false =
    s.withDev { s.dev with mem := s.dev.mem.setChan ch ((s.dev.mem.chan ch).spend bank) } := by
  simp [State.rowRepair, inService, ready, fails, Chan.spend]

end

/-! ## Allotments that no longer fit (R222 step 5) -/

/-- The context with its allotment disabled where it does not fit. -/
def Ctx.dropAllot (m : MemBlk) (x : Ctx) : Ctx :=
  { x with allotEn := x.allotEn && fitsPool m x.allotBase.toNat x.allotSize.toNat }

@[simp] theorem Ctx.launches_dropAllot (m : MemBlk) (x : Ctx) : (x.dropAllot m).launches = x.launches := rfl
@[simp] theorem Ctx.faultHold_dropAllot (m : MemBlk) (x : Ctx) : (x.dropAllot m).faultHold = x.faultHold := rfl
@[simp] theorem Ctx.allotEn_dropAllot (m : MemBlk) (x : Ctx) :
    (x.dropAllot m).allotEn = (x.allotEn && fitsPool m x.allotBase.toNat x.allotSize.toNat) := rfl

theorem Ctx.dropAllot_dropAllot (m : MemBlk) (x : Ctx) : (x.dropAllot m).dropAllot m = x.dropAllot m := by
  simp [Ctx.dropAllot]

theorem Ctx.dropAllot_eq (m : MemBlk) (x : Ctx) : x.dropAllot m =
    if x.allotEn && !fitsPool m x.allotBase.toNat x.allotSize.toNat then { x with allotEn := false } else x := by
  unfold Ctx.dropAllot
  cases fitsPool m x.allotBase.toNat x.allotSize.toNat with
  | true => simp
  | false =>
    cases en : x.allotEn with
    | true => rfl
    | false => simp [← en]

/-- One context's allotment is disabled where it does not fit. -/
def Dev.dropAllotOf (s : Dev) (c : Nat) : Dev :=
  if (s.ctx c).allotEn && !fitsPool s.mem (s.ctx c).allotBase.toNat (s.ctx c).allotSize.toNat then
    s.setCtx c { s.ctx c with allotEn := false }
  else s

theorem Dev.dropAllots_eq (s : Dev) : s.dropAllots = allCtx.foldl Dev.dropAllotOf s := rfl

theorem Dev.outer_dropAllotOf (s : Dev) (c : Nat) : (s.dropAllotOf c).outer = s.outer := by
  unfold Dev.dropAllotOf; split <;> rfl

theorem Dev.ctx_dropAllotOf (s : Dev) (c j : Nat) :
    (s.dropAllotOf c).ctx j = if j = c then (s.ctx j).dropAllot s.mem else s.ctx j := by
  rw [Ctx.dropAllot_eq]; unfold Dev.dropAllotOf
  by_cases here : j = c
  · subst here; split <;> simp
  · split <;> simp [here]

@[simp] theorem Dev.outer_dropAllots (s : Dev) : s.dropAllots.outer = s.outer :=
  foldl_keeps Dev.outer _ Dev.outer_dropAllotOf _ _

theorem Dev.ctx_dropAllots (s : Dev) {c : Nat} (h : c < 64) : s.dropAllots.ctx c = (s.ctx c).dropAllot s.mem := by
  have step (d : Dev) (c j : Nat) : ((d.dropAllotOf c).mem, (d.dropAllotOf c).ctx j) =
      if j = c then (d.mem, (d.ctx j).dropAllot d.mem) else (d.mem, d.ctx j) := by
    rw [Dev.mem_of_outer (d.outer_dropAllotOf c), d.ctx_dropAllotOf]
    split <;> rfl
  have all := foldl_keyed (fun j (d : Dev) => (d.mem, d.ctx j)) Dev.dropAllotOf (fun p => (p.1, p.2.dropAllot p.1))
    (fun p => by rw [p.2.dropAllot_dropAllot]) step allCtx s c
  rw [if_pos (show c ∈ allCtx from List.mem_range.mpr h)] at all
  exact (Prod.mk.inj all).2

/-! ## Retirement of a channel (R222, R323) -/

theorem exec_channelRetirement (k : Fin 256) (s : State) :
    exec (.channelRetirement k) s = .next (s.withDev (s.dev.retireChannel k.val)) := rfl

/-- The stacks without a channel: the pool lies over the others, and has lost its contents. -/
def MemBlk.lose (m : MemBlk) (ch : Nat) : MemBlk :=
  { m.setChan ch { m.chan ch with retired := true } with
    nch := m.nch - 1, pool := [], poison := [], latent := [], short := true, ready := true }

theorem MemBlk.lose_of_bare {m n : MemBlk} (same : m.bare = n.bare) (ch : Nat) : m.lose ch = n.lose ch := by
  show m.bare.lose ch = n.bare.lose ch
  rw [same]

/-- The device without a channel, before allotments are dropped. -/
def Dev.withoutChannel (s : Dev) (ch : Nat) : Dev :=
  { s with mem := s.mem.lose ch, farr := { s.farr with hbmShort := true } }

theorem Dev.loseChannel_eq (s : Dev) (ch : Nat) :
    s.loseChannel ch = ((s.deviceFault 0x04).withoutChannel ch).dropAllots := by
  unfold Dev.loseChannel
  generalize s.deviceFault 0x04 = d
  rfl

theorem Dev.ctx_withoutChannel_dropAllots (s : Dev) (ch : Nat) {c : Nat} (h : c < 64) :
    (s.withoutChannel ch).dropAllots.ctx c = (s.ctx c).dropAllot (s.mem.lose ch) :=
  (s.withoutChannel ch).ctx_dropAllots h

theorem Dev.mem_loseChannel (s : Dev) (ch : Nat) : (s.loseChannel ch).mem = s.mem.lose ch := by
  rw [Dev.loseChannel_eq, Dev.mem_of_outer (Dev.outer_dropAllots _)]
  exact MemBlk.lose_of_bare (s.bare_deviceFault 0x04) ch

theorem Dev.farr_loseChannel (s : Dev) (ch : Nat) :
    (s.loseChannel ch).farr = { s.farr.faulted 0x04 with hbmShort := true } := by
  rw [Dev.loseChannel_eq, Dev.farr_of_outer (Dev.outer_dropAllots _), Dev.withoutChannel, s.farr_deviceFault]

/-- What is read of a context that a device fault has reached. -/
theorem Ctx.fields_of_faulted {x y : Ctx} (reached : x.lasting = y.lasting.unlaunched.held) :
    x.launches = [] ∧ x.faultHold = true ∧ x.allotEn = y.allotEn ∧ x.allotBase = y.allotBase ∧ x.allotSize = y.allotSize :=
  ⟨(congrArg Ctx.launches reached :), (congrArg Ctx.faultHold reached :), (congrArg Ctx.allotEn reached :),
    (congrArg Ctx.allotBase reached :), (congrArg Ctx.allotSize reached :)⟩

theorem Dev.ctx_loseChannel (s : Dev) (ch : Nat) {c : Nat} (h : c < 64) :
    ((s.loseChannel ch).ctx c).launches = [] ∧ ((s.loseChannel ch).ctx c).faultHold = true ∧
    ((s.loseChannel ch).ctx c).allotEn = ((s.ctx c).allotEn &&
      fitsPool (s.loseChannel ch).mem (s.ctx c).allotBase.toNat (s.ctx c).allotSize.toNat) := by
  have reached : (s.loseChannel ch).ctx c = ((s.deviceFault 0x04).ctx c).dropAllot (s.loseChannel ch).mem := by
    rw [s.mem_loseChannel, ← MemBlk.lose_of_bare (s.bare_deviceFault 0x04) ch, s.loseChannel_eq,
      Dev.ctx_withoutChannel_dropAllots _ ch h]
  obtain ⟨launches, hold, en, base, size⟩ := Ctx.fields_of_faulted (s.lasting_deviceFault 0x04 h)
  rw [reached, Ctx.launches_dropAllot, Ctx.faultHold_dropAllot, Ctx.allotEn_dropAllot, launches, hold, en, base, size]
  exact ⟨rfl, rfl, rfl⟩

theorem MemBlk.chan_lose (m : MemBlk) (ch j : Nat) :
    (m.lose ch).chan j = if j = ch then { m.chan j with retired := true } else m.chan j := by
  refine (m.chan_setChan ch j _).trans ?_
  split
  · next here => rw [here]
  · rfl

theorem Dev.retireChannel_of_due {s : Dev} {ch : Nat} (inService : (s.mem.chan ch).retired = false) (left : s.mem.nch ≠ 0)
    (due : (s.mem.chan ch).mustRetire = true) : s.retireChannel ch = s.loseChannel ch := by
  simp only [Dev.retireChannel, inService, beq_eq_false_iff_ne.mpr left, due]
  rfl

theorem Dev.retireChannel_of_not_due {s : Dev} {ch : Nat} (due : (s.mem.chan ch).mustRetire = false) :
    s.retireChannel ch = s := by
  simp [Dev.retireChannel, due]

/-! ## Initialisation (R213, R221, R317) -/

theorem exec_hbmInitDone (failed : List (Fin 256)) (s : State) :
    exec (.hbmInitDone failed) s = .next (s.hbmInit (failed.map Fin.val)) := rfl

/-- The channels that a list names, in ascending order. -/
def lostChannels (failed : List (Fin 256)) : List Nat := (List.range 256).filter (fun c => (failed.map Fin.val).contains c)

theorem mem_lostChannels (failed : List (Fin 256)) (k : Fin 256) : k.val ∈ lostChannels failed ↔ k ∈ failed := by
  simp [lostChannels, Fin.val_inj]

theorem length_lostChannels (failed : List (Fin 256)) (distinct : failed.Nodup) :
    (lostChannels failed).length = failed.length := by
  have same : (lostChannels failed).Perm (failed.map Fin.val) := by
    have distinctVals : (failed.map Fin.val).Nodup := List.pairwise_map.mpr (distinct.imp fun ne same => ne (Fin.ext same))
    refine (List.perm_ext_iff_of_nodup (List.nodup_range.filter _) distinctVals).mpr fun c => ?_
    simp only [List.mem_filter, List.mem_range, List.contains_iff_mem, and_iff_right_iff_imp, List.mem_map]
    rintro ⟨k, -, rfl⟩
    exact k.isLt
  rw [same.length_eq, List.length_map]

/-- A channel out of reset, with the repairs that the log holds for it. -/
def Chan.logged (log : List (Nat × Nat × Nat)) (c : Nat) : Chan :=
  { repaired := (log.filter (fun e => e.1 == c)).map (fun e => (e.2.1, e.2.2)) }

/-- The stacks once every channel has trained. -/
def State.stacksUp (s : State) : MemBlk :=
  { s.dev.mem with
    chans := (List.range 256).map (fun c => (c, Chan.logged s.rst.repairLog c)), nch := 256, pool := [], poison := []
    latent := [], ready := true, short := false }

theorem State.hbmInit_of_released (s : State) (failed : List (Fin 256)) (released : s.dev.up.hbm = true)
    (unready : s.dev.mem.ready = false) : s.hbmInit (failed.map Fin.val) =
      s.withDev ((lostChannels failed).foldl Dev.loseChannel { s.dev with mem := s.stacksUp }) := by
  rw [State.hbmInit, released, unready]
  rfl

theorem Tab.get_map_keys {α : Type} (d : α) (f : Nat → α) (ks : List Nat) (k : Nat) (h : k ∈ ks) :
    Tab.get d (ks.map (fun c => (c, f c))) k = f k := by
  induction ks with
  | nil => cases h
  | cons c ks ih =>
    rw [List.map_cons, Tab.get_cons]
    split
    · next here => rw [here]
    · next other => exact ih ((List.mem_cons.mp h).resolve_left other)

theorem State.chan_stacksUp (s : State) {k : Nat} (h : k < 256) : s.stacksUp.chan k = Chan.logged s.rst.repairLog k :=
  Tab.get_map_keys _ _ _ _ (List.mem_range.mpr h)

theorem Dev.mem_foldl_loseChannel (cs : List Nat) (s : Dev) :
    (cs.foldl Dev.loseChannel s).mem = cs.foldl MemBlk.lose s.mem :=
  (List.foldl_hom Dev.mem (fun d c => (d.mem_loseChannel c).symm)).symm

theorem MemBlk.chan_foldl_lose (cs : List Nat) (m : MemBlk) (j : Nat) :
    (cs.foldl MemBlk.lose m).chan j = if j ∈ cs then { m.chan j with retired := true } else m.chan j :=
  foldl_keyed (fun j (m : MemBlk) => m.chan j) MemBlk.lose (fun h => { h with retired := true }) (fun _ => rfl)
    MemBlk.chan_lose cs m j

/-- The stacks without some channels: as many fewer, none of the contents, and short if there are any. -/
theorem MemBlk.foldl_lose (cs : List Nat) (m : MemBlk) (empty : m.pool = []) (sound : m.poison = [])
    (ready : m.ready = true) :
    (cs.foldl MemBlk.lose m).pool = [] ∧ (cs.foldl MemBlk.lose m).poison = [] ∧ (cs.foldl MemBlk.lose m).ready = true ∧
    (cs.foldl MemBlk.lose m).nch = m.nch - BitVec.ofNat 9 cs.length ∧
    (cs.foldl MemBlk.lose m).short = (m.short || decide (cs ≠ [])) := by
  induction cs generalizing m with
  | nil => exact ⟨empty, sound, ready, (BitVec.sub_zero m.nch).symm, (Bool.or_false _).symm⟩
  | cons c cs ih =>
    obtain ⟨pool, poison, up, nch, short⟩ := ih (m.lose c) rfl rfl rfl
    refine ⟨pool, poison, up, nch.trans ?_, short.trans ?_⟩
    · show m.nch - 1 - BitVec.ofNat 9 cs.length = _
      rw [List.length_cons]
      bv_omega
    · simp [MemBlk.lose]

/-- A channel that fails training is a device fault, which leaves the device short (R317). -/
theorem Dev.farr_foldl_loseChannel (cs : List Nat) (s : Dev) (lost : cs ≠ []) :
    (cs.foldl Dev.loseChannel s).farr.cause = 0x04 ∧ (cs.foldl Dev.loseChannel s).farr.hbmShort = true := by
  obtain none | ⟨init, last, rfl⟩ := List.eq_nil_or_concat cs
  · exact absurd none lost
  · rw [List.concat_eq_append, List.foldl_append, List.foldl_cons, List.foldl_nil, Dev.farr_loseChannel]
    exact ⟨rfl, rfl⟩

/-! ## O24 -/

/-- Settles O24: scrubs by what a line's upset leads to (`Dev.meetLine_upset`), repairs by `State.rowRepair_of_spare` and
`State.rowRepair_of_spent`, a retirement by `Dev.mem_loseChannel`, `Dev.farr_loseChannel` and `Dev.ctx_loseChannel`, and the
initialisation as the loss of the channels that failed (`MemBlk.foldl_lose`). -/
theorem errorsAndInitialisationOfHbm : Obligations.ErrorsAndInitialisationOfHbm := by
  refine ⟨⟨fun l s enabled ready inPool sound => ⟨?_, ?_, ?_⟩, fun k b r s inService ready fails => ⟨?_, ?_⟩,
    fun k s inService left => ⟨fun due => ?_, fun due => ?_⟩⟩, fun failed s released unready distinct => ?_⟩
  · rw [exec_patrolScrub, Dev.patrolScrub_clean enabled ready inPool sound]
  · refine ⟨_, exec_patrolScrub l .corrected s, ?_⟩
    obtain ⟨h, corr, counted⟩ := (s.dev.upsetMet l false).hbmCorrected_eq l
    rw [Dev.patrolScrub_corrected enabled ready inPool sound, counted]
    exact ⟨(congrArg Chan.corr (MemBlk.chan_setChan_self _ _ h)).trans corr, rfl, rfl, rfl⟩
  · refine ⟨_, exec_patrolScrub l .uncorrectable s, ?_⟩
    obtain ⟨h, uncorr, counted⟩ := (s.dev.upsetMet l true).hbmUncorrectable_eq l
    rw [Dev.patrolScrub_uncorrectable enabled ready inPool sound, counted]
    obtain ⟨found, kept⟩ := mem_poisonWith s.dev.mem.poison l
    exact ⟨found, (congrArg Chan.uncorr (MemBlk.chan_setChan_self _ _ h)).trans uncorr, kept, rfl, rfl⟩
  · refine ⟨_, exec_rowRepair k b r true s, ?_⟩
    rw [State.rowRepair_of_spare inService ready fails]
    dsimp only
    rw [MemBlk.chan_setChan_self]
    exact ⟨rfl, rfl, rfl, List.mem_append_right _ List.mem_cons_self, Dev.rowFails_repair _ _ b r _, rfl,
      fun j other => (MemBlk.chan_setChan _ _ _ _).trans (if_neg other)⟩
  · refine ⟨_, exec_rowRepair k b r false s, ?_⟩
    rw [State.rowRepair_of_spent inService ready fails]
    dsimp only
    rw [MemBlk.chan_setChan_self]
    exact ⟨rfl, Chan.mem_spent_spend _ b, fails, rfl⟩
  · refine ⟨_, exec_channelRetirement k s, ?_⟩
    rw [Dev.retireChannel_of_due inService left due]
    have contexts (c : Nat) (h : c < 64) := s.dev.ctx_loseChannel k.val h
    dsimp only
    rw [s.dev.mem_loseChannel] at contexts ⊢
    rw [s.dev.farr_loseChannel]
    refine ⟨?_, fun j other => ?_, rfl, rfl, rfl, rfl, rfl, rfl, rfl, rfl, contexts⟩
    · rw [MemBlk.chan_lose, if_pos rfl]
    · rw [MemBlk.chan_lose, if_neg other]
  · rw [exec_channelRetirement, Dev.retireChannel_of_not_due due]
  · refine ⟨_, exec_hbmInitDone failed s, ?_⟩
    rw [s.hbmInit_of_released failed released unready]
    have none_iff : lostChannels failed = [] ↔ failed = [] := by
      rw [← List.length_eq_zero_iff, length_lostChannels failed distinct, List.length_eq_zero_iff]
    obtain ⟨pool, poison, ready, nch, short⟩ := MemBlk.foldl_lose (lostChannels failed) s.stacksUp rfl rfl rfl
    dsimp only
    rw [Dev.mem_foldl_loseChannel]
    refine ⟨ready, pool, poison, ?_, ?_, fun k => ?_, fun none => ?_, fun lost => ?_, rfl⟩
    · have bound : failed.length ≤ 256 := by
        rw [← length_lostChannels failed distinct]
        exact Nat.le_trans (List.length_filter_le _ _) (Nat.le_of_eq List.length_range)
      rw [nch, length_lostChannels failed distinct]
      show (256 - BitVec.ofNat 9 failed.length : BitVec 9).toNat = _
      bv_omega
    · rw [short]
      simp [State.stacksUp, none_iff]
    · rw [MemBlk.chan_foldl_lose, s.chan_stacksUp k.isLt]
      simp only [mem_lostChannels]
      split
      · next gone => exact ⟨(decide_eq_true gone).symm, rfl⟩
      · next kept => exact ⟨(decide_eq_false kept).symm, rfl⟩
    · rw [none_iff.mpr none]; exact ⟨rfl, rfl⟩
    · exact Dev.farr_foldl_loseChannel _ _ (fun none => lost (none_iff.mp none))

end Sys2Proof.Machine
end

section
/-! What the traffic of the fabric leaves alone (R237 to R241, R247, R248): the sending of flits, the routing of packets, and
links that retrain or go DOWN. -/
namespace Sys2Proof.Machine
open Sys2Proof

/-! ## Links written twice -/

theorem Tab.set_set {α : Type} (t : Tab α) (k : Nat) (v w : α) : Tab.set (Tab.set t k v) k w = Tab.set t k w := by
  induction t with
  | nil => simp [Tab.set]
  | cons e t ih =>
    obtain ⟨k', v'⟩ := e
    simp only [Tab.set]
    split
    · simp [Tab.set]
    · next notBelow =>
      split
      · simp [Tab.set]
      · next notHere => simp only [Tab.set, if_neg notBelow, if_neg notHere, ih]

@[simp] theorem Dev.setLink_setLink (s : Dev) (l : Nat) (k k' : Link) : (s.setLink l k).setLink l k' = s.setLink l k' :=
  congrArg (fun ls => ({ s with fab := { s.fab with links := ls } } : Dev)) (Tab.set_set s.fab.links l k k')

theorem Dev.link_setLink_self (s : Dev) (l : Nat) (k : Link) : (s.setLink l k).link l = k := by simp

/-! ## What traffic leaves alone of a link -/

/-- A link without its sending side and its receive buffers; the retry buffer belongs to the sending side while the link is
ACTIVE. -/
def Link.steady (k : Link) : Link :=
  { k with
    txSeq := 0, buffer := if k.st = .active then [] else k.buffer, credits := [], rxHeld := [], crDue := [], ackDue := false
    txq := [], turns := (7, 3), wire := [] }

@[simp] theorem Link.steady_emit (k : Link) (seq : BitVec 12) (type vc : Nat) (payload : List Byte) :
    (k.emit seq type vc payload).steady = k.steady := rfl

/-- An ACTIVE link sends from its sending side alone. -/
theorem Link.steady_fill (n : Nat) (k : Link) (active : k.st = .active) : (Link.fill n k).steady = k.steady := by
  induction n generalizing k with
  | zero => rfl
  | succ n ih =>
    rw [Link.fill]
    split
    · rfl
    · split
      · rfl
      · dsimp only
        rw [ih _ (by simp [active])]
        simp [Link.steady, Link.push, Link.emit, active]

/-! ## The sending of flits -/

/-- A part of the device that the sending of flits leaves alone: it shows neither the queue for the links nor what a link
sends with. -/
structure Dev.KeptBySending {γ : Type} (p : Dev → γ) : Prop where
  outbox : ∀ s q, p { s with fab := { s.fab with outbox := q } } = p s
  nextLink : ∀ s t, p { s with fab := { s.fab with nextLink := t } } = p s
  setLink : ∀ s l k, k.steady = (s.link l).steady → p (s.setLink l k) = p s

/-- A part of the device that the routing of packets leaves alone as well. -/
structure Dev.KeptByRouting {γ : Type} (p : Dev → γ) : Prop extends Dev.KeptBySending p where
  inbox : ∀ s q, p { s with fab := { s.fab with inbox := q } } = p s
  drop : ∀ s n, p { s with fab := { s.fab with drop := n } } = p s
  nextPkt : ∀ s n, p { s with fab := { s.fab with nextPkt := n } } = p s

section
variable {γ : Type} {p : Dev → γ}

theorem Dev.KeptBySending.release (kept : Dev.KeptBySending p) (s : Dev) (r : Routed) : p (s.release r) = p s := by
  unfold Dev.release
  split
  · rfl
  · exact kept.setLink _ _ _ rfl

theorem Dev.KeptBySending.assignLink (kept : Dev.KeptBySending p) (s : Dev) (e : Nat × Nat × Routed) :
    p (s.assignLink e) = p s := by
  unfold Dev.assignLink
  split
  · exact kept.outbox _ _
  · exact (kept.nextLink _ _).trans (kept.setLink _ _ _ rfl)

theorem Dev.KeptBySending.sendLink (kept : Dev.KeptBySending p) (s : Dev) (l : Nat) : p (s.sendLink l) = p s := by
  unfold Dev.sendLink
  dsimp only
  split
  · rfl
  · next sends =>
    rw [foldl_keeps p _ (fun d (e : Nat × Routed × List Byte) => kept.release d e.2.1)]
    have active : (s.link l).st = .active := Decidable.byContradiction fun other => sends (by simp [other])
    exact kept.setLink _ _ _ (Link.steady_fill 512 _ active)

theorem Dev.KeptBySending.sendReturns (kept : Dev.KeptBySending p) (s : Dev) (l : Nat) : p (s.sendReturns l) = p s := by
  unfold Dev.sendReturns
  dsimp only
  split
  · exact kept.setLink _ _ _ (Link.steady_emit _ _ _ _ _)
  · rfl

theorem Dev.KeptBySending.flush (kept : Dev.KeptBySending p) (s : Dev) : p s.flush = p s := by
  unfold Dev.flush
  rw [foldl_keeps p _ kept.sendReturns, foldl_keeps p _ kept.sendLink, foldl_keeps p _ kept.assignLink]
  exact kept.outbox _ _

variable (kept : Dev.KeptByRouting p)
include kept

theorem Dev.KeptByRouting.routeOn (s : Dev) (r : Routed) : p (s.routeOn r) = p s := by
  unfold Dev.routeOn
  dsimp only
  split
  · split
    · exact (kept.drop _ _).trans (kept.release s r)
    · exact (kept.inbox _ _).trans (kept.release s r)
  · exact kept.outbox _ _
  · exact (kept.drop _ _).trans (kept.release s r)

theorem Dev.KeptByRouting.route (s : Dev) (q : Packet) (link : Option Nat) (vc : Nat) : p (s.route q link vc) = p s :=
  (kept.routeOn _ _).trans (kept.nextPkt _ _)

theorem Dev.KeptByRouting.sendMgmt (s : Dev) (dst : BitVec 24) (c op h1 : Nat) : p (s.sendMgmt dst c op h1) = p s := by
  unfold Dev.sendMgmt Dev.send
  rw [kept.flush, kept.route]

theorem Dev.KeptByRouting.reroute (s : Dev) (g : Nat) : p (s.reroute g) = p s := by
  unfold Dev.reroute
  split
  · exact kept.flush s
  · rw [kept.flush, foldl_keeps p _ (fun d (e : Nat × Nat × Routed) => kept.routeOn d e.2.2)]
    exact kept.outbox _ _

theorem Dev.KeptByRouting.giveUp (s : Dev) (l : Nat) : p (s.giveUp l) = p s := by
  unfold Dev.giveUp
  exact (kept.reroute _ _).trans ((kept.outbox _ _).trans (kept.setLink _ _ _ rfl))

theorem Dev.KeptByRouting.sendRemount (s : Dev) (x : BitVec 24) (e : U16) : p (s.sendRemount x e) = p s :=
  foldl_keeps p _ (fun d dst => kept.sendMgmt d dst 0 0xC4 _) _ _

end

theorem Dev.inbox_keptBySending : Dev.KeptBySending (fun s => s.fab.inbox) where
  outbox _ _ := rfl
  nextLink _ _ := rfl
  setLink _ _ _ _ := rfl

/-! ## What traffic, events and alerts leave alone of the device -/

/-- The device without what traffic, events and alerts change, and what its links keep. -/
structure CalmView where
  dev : Dev
  links : Nat → Link

/-- The device without its contexts, host interface, alerts, links and packets on their way. -/
def Dev.sansTraffic (s : Dev) : Dev :=
  { s.outer with
    side := {}, fab := { s.fab with links := [], inbox := [], outbox := [], drop := 0, nextPkt := 0, nextLink := [] } }

def Dev.calm (s : Dev) : CalmView := ⟨s.sansTraffic, fun j => (s.link j).steady⟩

/-- The view with another link. -/
def CalmView.setLink (v : CalmView) (l : Nat) (k : Link) : CalmView :=
  { v with links := fun j => if j = l then k.steady else v.links j }

theorem CalmView.setLink_setLink (v : CalmView) (l : Nat) (k k' : Link) : (v.setLink l k).setLink l k' = v.setLink l k' :=
  congrArg (CalmView.mk v.dev) (funext fun j => by
    dsimp only [CalmView.setLink]
    split <;> rfl)

theorem Dev.calm_setLink (s : Dev) (l : Nat) (k : Link) : (s.setLink l k).calm = s.calm.setLink l k := by
  refine congrArg (CalmView.mk s.sansTraffic) (funext fun j => ?_)
  rw [Dev.link_setLink, apply_ite Link.steady]
  rfl

theorem Dev.calm_keptByRouting : Dev.KeptByRouting Dev.calm where
  outbox _ _ := rfl
  nextLink _ _ := rfl
  inbox _ _ := rfl
  drop _ _ := rfl
  nextPkt _ _ := rfl
  setLink s l k same := by
    rw [Dev.calm_setLink]
    refine congrArg (CalmView.mk s.sansTraffic) (funext fun j => ?_)
    split
    · next here => rw [here, same]
    · rfl

theorem Dev.calm_of_outer {s t : Dev} (outer : s.outer = t.outer) : s.calm = t.calm :=
  calc s.calm
    _ = s.outer.calm := rfl
    _ = t.outer.calm := congrArg Dev.calm outer
    _ = t.calm := rfl

@[simp] theorem Dev.calm_flush (s : Dev) : s.flush.calm = s.calm := Dev.calm_keptByRouting.flush s

@[simp] theorem Dev.calm_linkEvent (s : Dev) (l : Nat) : (s.linkEvent l).calm = s.calm :=
  Dev.calm_of_outer (s.outer_eventAll _ _ _)

/-- What is read of a device with a view. -/
theorem Dev.fields_of_calm {s t : Dev} (calm : t.calm = s.calm) : t.mem = s.mem ∧ t.tiles = s.tiles ∧ t.farr = s.farr ∧
    t.fab.gangs = s.fab.gangs ∧ ∀ j, (t.link j).steady = (s.link j).steady := by
  obtain ⟨dev, links⟩ := CalmView.mk.inj calm
  exact ⟨(congrArg Dev.mem dev :), (congrArg Dev.tiles dev :), (congrArg Dev.farr dev :),
    (congrArg (fun d => d.fab.gangs) dev :), congrFun links⟩

theorem Dev.gang_of_gangs {s t : Dev} (gangs : t.fab.gangs = s.fab.gangs) (g : Nat) : t.gang g = s.gang g :=
  congrArg (fun gs : Tab Gang => (Tab.get {} gs g : Gang)) gangs

/-- What is read of a link with a steady part. -/
theorem Link.read_of_steady {k j : Link} (same : k.steady = j.steady) {α : Type} (f : Link → α)
    (kept : ∀ x : Link, f x.steady = f x) : f k = f j := by
  rw [← kept k, same, kept j]

/-- What is read of a device with the view of another after one link has changed. -/
theorem Dev.fields_of_calm_setLink {s t : Dev} {l : Nat} {k : Link} (calm : t.calm = s.calm.setLink l k) :
    t.mem = s.mem ∧ t.tiles = s.tiles ∧ t.farr = s.farr ∧ t.fab.gangs = s.fab.gangs ∧ (t.link l).steady = k.steady := by
  obtain ⟨mem, tiles, farr, gangs, links⟩ := Dev.fields_of_calm (calm.trans (s.calm_setLink l k).symm)
  exact ⟨mem, tiles, farr, gangs, (links l).trans (by rw [Dev.link_setLink_self])⟩

/-! ## Links that go DOWN or retrain (R239, R241) -/

/-- The flits of a link that goes DOWN wait for a handover record (R241). -/
def Link.awaitsHandover (k : Link) : Bool := k.st == .active || k.st == .retrain || k.wasUp

/-- A link that has entered DOWN. -/
def Link.downed (k : Link) : Link :=
  { k with
    st := .down, width := 0, rx := [], rxSeq := 0, txSeq := 0, nakPending := false, credits := [], peer := none, rxHeld := []
    crDue := [], ackDue := false, txq := [], wasUp := false
    downHold := k.awaitsHandover && !k.buffer.isEmpty, buffer := if k.awaitsHandover then k.buffer else [] }

theorem Dev.calm_linkDown (s : Dev) (l : Nat) (up : (s.link l).st ≠ .down) :
    (s.linkDown l).calm = s.calm.setLink l (s.link l).downed := by
  have written : (s.setLink l (s.link l).downed).calm = s.calm.setLink l (s.link l).downed := s.calm_setLink l _
  unfold Dev.linkDown
  dsimp only
  rw [if_neg (by simpa using up)]
  generalize rerouted : Dev.reroute _ (l / 4) = d
  have calm : d.calm = s.calm.setLink l (s.link l).downed := by
    rw [← rerouted, Dev.calm_keptByRouting.reroute, Dev.calm_keptByRouting.outbox, Dev.calm_linkEvent]
    split <;> exact written
  split
  · rw [Dev.calm_keptByRouting.sendMgmt, calm]
  · exact calm

/-- A link that begins to train again at a time. -/
def Link.retraining (k : Link) (now : U64) : Link :=
  { k with
    st := .retrain, retrainCnt := satAdd k.retrainCnt 1
    retrainAt := k.retrainAt.filter (fun t => decide (now.toNat < t.toNat + 1000000000)) ++ [now]
    replays := 0, uncAt := [], wasUp := true }

/-- A link that retrains is in RETRAIN, or DOWN after its fourth retrain within a second. -/
theorem Dev.calm_retrain (s : Dev) (l : Nat) :
    (s.retrain l).calm = s.calm.setLink l ((s.link l).retraining s.time.ns) ∨
      (s.retrain l).calm = s.calm.setLink l ((s.link l).retraining s.time.ns).downed := by
  have written := s.calm_setLink l ((s.link l).retraining s.time.ns)
  have retrains : ((s.setLink l ((s.link l).retraining s.time.ns)).link l) = (s.link l).retraining s.time.ns :=
    s.link_setLink_self l _
  unfold Dev.retrain
  dsimp only
  split
  · right
    refine (Dev.calm_linkDown (s.setLink l ((s.link l).retraining s.time.ns)) l ?_).trans ?_
    · rw [retrains]; exact LinkState.noConfusion
    · rw [retrains, written, CalmView.setLink_setLink]
  · left
    exact (Dev.calm_keptByRouting.giveUp _ l).trans written

end Sys2Proof.Machine
end

section
/-! Flits received (R236 to R239, R259 to R261): a corrupt flit, a sound one out of order, and what a sound one of each type
does; O26 and O27. -/
namespace Sys2Proof.Machine
open Sys2Proof

/-! ## The flit commands -/

theorem exec_dataFlit (l : LinkId) (flit : List Byte) (fec : Fec) (s : State) : exec (.dataFlit l flit fec) s =
    s.onFlit flit (fun d => d.recvFlit l.val flit fec 0 (fun d h => d.dataFlit l.val flit h)) := rfl

theorem exec_idleFlit (l : LinkId) (flit : List Byte) (fec : Fec) (s : State) : exec (.idleFlit l flit fec) s =
    s.onFlit flit (fun d => d.recvFlit l.val flit fec 1 (fun d h => d.idleFlit l.val flit h)) := rfl

theorem exec_nakFlit (l : LinkId) (flit : List Byte) (fec : Fec) (s : State) : exec (.nakFlit l flit fec) s =
    s.onFlit flit (fun d => d.recvFlit l.val flit fec 2 (fun d _ => d.nakFlit l.val)) := rfl

theorem exec_timeFlit (l : LinkId) (flit : List Byte) (fec : Fec) (s : State) : exec (.timeFlit l flit fec) s =
    s.onFlit flit (fun d => d.recvFlit l.val flit fec 3 (fun d h => d.timeFlit l.val flit h)) := rfl

/-- The four flit commands receive their flits alike, each with its TYPE and what it does with a flit taken up. -/
theorem exec_receives (l : LinkId) {flit : List Byte} (sized : flit.length = 256) (fec : Fec) (s : State) :
    ∀ i ∈ [(0, Instr.dataFlit l flit fec), (1, .idleFlit l flit fec), (2, .nakFlit l flit fec), (3, .timeFlit l flit fec)],
      ∃ act, exec i.2 s = .next (s.withDev (s.dev.recvFlit l.val flit fec i.1 act)) := by
  have isFlit : flitSized flit = true := beq_iff_eq.mpr sized
  intro i hi
  simp only [List.mem_cons, List.not_mem_nil, or_false] at hi
  obtain rfl | rfl | rfl | rfl := hi
  · exact ⟨_, (exec_dataFlit l flit fec s).trans (s.onFlit_of_sized flit _ isFlit)⟩
  · exact ⟨_, (exec_idleFlit l flit fec s).trans (s.onFlit_of_sized flit _ isFlit)⟩
  · exact ⟨_, (exec_nakFlit l flit fec s).trans (s.onFlit_of_sized flit _ isFlit)⟩
  · exact ⟨_, (exec_timeFlit l flit fec s).trans (s.onFlit_of_sized flit _ isFlit)⟩

/-! ## Discarded flits (R238) -/

/-- The link with the symbols that a decoded flit had corrected counted (R235). -/
def Link.counted (k : Link) (n : Nat) : Link := { k with fecCorr := satAdd k.fecCorr (min n (fecWords * rsLimit)) }

/-- The link with a corrupt flit counted. -/
def Link.crcCounted (k : Link) : Link := { k with crcErr := satAdd k.crcErr 1 }

/-- The link after a discard: the first one sends a NAK. -/
def Link.discard (k : Link) : Link := if k.st ≠ .active ∨ k.nakPending = true then k else k.askAgain

theorem Dev.discardFlit_setLink (s : Dev) (l : Nat) (k : Link) :
    (s.setLink l k).discardFlit l = s.setLink l k.discard := by
  simp only [Dev.discardFlit, Link.discard, Dev.link_setLink_self, Dev.setLink_setLink, apply_ite (s.setLink l),
    Bool.or_eq_true, bne_iff_ne]

/-- What a discard leaves alone of a link. -/
theorem Link.discard_frame (k : Link) : k.discard.crcErr = k.crcErr ∧ k.discard.rxSeq = k.rxSeq ∧
    k.discard.buffer = k.buffer ∧ k.discard.credits = k.credits := by
  unfold Link.discard
  split <;> exact ⟨rfl, rfl, rfl, rfl⟩

/-- An ACTIVE link that discards a flit has asked for it again, once. -/
theorem Link.discard_of_active (k : Link) (active : k.st = .active) :
    k.discard.nakPending = true ∧ k.discard.sendNak = k.sendNak + (if k.nakPending then 0 else 1) := by
  unfold Link.discard
  cases pending : k.nakPending with
  | true => simp [pending]
  | false => simp [active, Link.askAgain]

/-! ## What a link does with a flit -/

/-- The link after a corrupt flit: counted, and discarded as any flit but a TIME flit is. -/
def Link.corrupted (k : Link) (type : Nat) : Link := if type = 3 then k.crcCounted else k.crcCounted.discard

theorem Dev.recvFlit_of_corrupt {s : Dev} {l : Nat} {flit : List Byte} (receives : (s.link l).receives = true)
    (powered : s.linkPowered l = true) (corrupt : flitOk flit = false) (n type : Nat) (act : Dev → FlitHdr → Dev) :
    s.recvFlit l flit (.decoded n) type act = s.setLink l (((s.link l).counted n).corrupted type) := by
  have taken : s.recvFlit l flit (.decoded n) type act = if type = 3 then s.setLink l ((s.link l).counted n).crcCounted
      else (s.setLink l ((s.link l).counted n).crcCounted).discardFlit l := by
    simp [Dev.recvFlit, receives, powered, corrupt, Link.counted, Link.crcCounted]
  rw [taken, Dev.discardFlit_setLink, Link.corrupted, apply_ite (s.setLink l)]

section
variable {s : Dev} {l : Nat} {flit : List Byte} {type : Nat} (sound : s.soundFlit l flit type) (n : Nat)
  (act : Dev → FlitHdr → Dev)
include sound

/-- A flit out of order that is no DATA flit is discarded. -/
theorem Dev.recvFlit_of_outOfOrder (active : (s.link l).st = .active) (notData : type ≠ 0)
    (seq : (parseFlit flit).seq ≠ (s.link l).rxSeq) :
    s.recvFlit l flit (.decoded n) type act = s.setLink l ((s.link l).counted n).discard := by
  obtain ⟨-, receives, powered, ok, isType⟩ := sound
  rw [← Dev.discardFlit_setLink]
  simp [Dev.recvFlit, receives, powered, ok, isType, notData, active, seq, Link.counted]

/-- An ACTIVE link takes up the acknowledgement and the credits of a flit, and acts on it. -/
theorem Dev.recvFlit_of_active (active : (s.link l).st = .active)
    (inOrder : type = 0 ∨ (parseFlit flit).seq = (s.link l).rxSeq) : s.recvFlit l flit (.decoded n) type act =
      (act (s.setLink l (((s.link l).counted n).returns (parseFlit flit))) (parseFlit flit)).flush := by
  obtain ⟨-, receives, powered, ok, isType⟩ := sound
  obtain rfl | seq := inOrder
  · simp [Dev.recvFlit, receives, powered, ok, isType, active, Link.counted]
  · simp [Dev.recvFlit, receives, powered, ok, isType, active, seq, Link.counted]

/-- A link in training acts on a flit alone. -/
theorem Dev.recvFlit_of_training (training : (s.link l).st ≠ .active) : s.recvFlit l flit (.decoded n) type act =
    (act (s.setLink l ((s.link l).counted n)) (parseFlit flit)).flush := by
  obtain ⟨-, receives, powered, ok, isType⟩ := sound
  simp [Dev.recvFlit, receives, powered, ok, isType, training, Link.counted]

end

/-- Settles O27: a corrupt flit is counted and discarded (`Dev.recvFlit_of_corrupt`), which leaves sequence number, buffer
and credits alone (`Link.discard_frame`) and writes no other link. -/
theorem corruptFlitsAreCounted : Obligations.CorruptFlitsAreCounted := by
  intro l flit n s sized receives powered corrupt i hi
  have typed : ∃ type, (type, i) ∈ [(0, Instr.dataFlit l flit (.decoded n)), (1, .idleFlit l flit (.decoded n)),
      (2, .nakFlit l flit (.decoded n)), (3, .timeFlit l flit (.decoded n))] := by
    simpa only [List.mem_cons, List.not_mem_nil, or_false, Prod.mk.injEq, exists_or, exists_eq_left, exists_eq_left'] using hi
  obtain ⟨type, typed⟩ := typed
  obtain ⟨act, hexec⟩ := exec_receives l sized (.decoded n) s _ typed
  rw [Dev.recvFlit_of_corrupt receives powered corrupt] at hexec
  have frame : (((s.dev.link l.val).counted n).corrupted type).crcErr = satAdd (s.dev.link l.val).crcErr 1 ∧
      (((s.dev.link l.val).counted n).corrupted type).rxSeq = (s.dev.link l.val).rxSeq ∧
      (((s.dev.link l.val).counted n).corrupted type).buffer = (s.dev.link l.val).buffer ∧
      (((s.dev.link l.val).counted n).corrupted type).credits = (s.dev.link l.val).credits := by
    unfold Link.corrupted
    split
    · exact ⟨rfl, rfl, rfl, rfl⟩
    · exact Link.discard_frame _
  obtain ⟨crcErr, rxSeq, buffer, credits⟩ := frame
  refine ⟨_, hexec, ?_⟩
  dsimp only
  rw [Dev.link_setLink_self]
  exact ⟨crcErr, rxSeq, buffer, credits, rfl, rfl, rfl, fun k other => (Dev.link_setLink _ _ _ _).trans (if_neg other)⟩

/-! ## A DATA flit in order (R238) -/

/-- The packets that a link has whole with a flit's payload, and the bytes after them. -/
def Link.arrived (k : Link) (flit : List Byte) (h : FlitHdr) : List Packet × List Byte :=
  takePackets (Tab.get [] k.rx h.vc ++ flitPayload flit h).length (Tab.get [] k.rx h.vc ++ flitPayload flit h)

/-- The link after a DATA flit in order. -/
def Link.advanced (k : Link) (flit : List Byte) (h : FlitHdr) : Link :=
  { k with
    rxSeq := k.rxSeq + 1, nakPending := false, rx := Tab.set k.rx h.vc (k.arrived flit h).2, ackDue := true
    rxHeld := Tab.set k.rxHeld h.vc ((Tab.get [] k.rxHeld h.vc) ++ [h.plen]) }

theorem Dev.dataFlit_of_inOrder (s : Dev) (l : Nat) (flit : List Byte) (h : FlitHdr) (active : (s.link l).st = .active)
    (seq : h.seq = (s.link l).rxSeq) : s.dataFlit l flit h =
      ((s.link l).arrived flit h).1.foldl (fun d p => d.route p (some l) h.vc)
        (s.setLink l ((s.link l).advanced flit h)) := by
  simp [Dev.dataFlit, active, seq, Link.arrived, Link.advanced]

theorem Dev.dataFlit_of_outOfOrder (s : Dev) (l : Nat) (flit : List Byte) (h : FlitHdr) (active : (s.link l).st = .active)
    (seq : h.seq ≠ (s.link l).rxSeq) : s.dataFlit l flit h = s.discardFlit l := by
  simp [Dev.dataFlit, active, seq]

/-- The packets of a DATA flit go their ways; of the rest the link alone changes. -/
theorem Dev.calm_dataFlit (s : Dev) (l : Nat) (flit : List Byte) (h : FlitHdr) (active : (s.link l).st = .active)
    (seq : h.seq = (s.link l).rxSeq) : (s.dataFlit l flit h).calm = s.calm.setLink l ((s.link l).advanced flit h) := by
  rw [s.dataFlit_of_inOrder l flit h active seq,
    foldl_keeps Dev.calm _ (fun d p => Dev.calm_keptByRouting.route d p (some l) h.vc), Dev.calm_setLink]

/-! ## An identity record (R261) -/

/-- The link once its peer's identity record has come. -/
def Link.identified (k : Link) (p : Ident) : Link :=
  { k with peer := some p, st := if k.st == .miswired && k.peer != some p then .identify else k.st }

theorem Dev.idleFlit_of_ident (s : Dev) (l : Nat) (flit : List Byte) (h : FlitHdr) (p : Ident)
    (training : (s.link l).st ≠ .active) (plen : h.plen = 4) (ident : parseIdent (flitPayload flit h) = some p) :
    s.idleFlit l flit h = s.setLink l ((s.link l).identified p) := by
  simp [Dev.idleFlit, training, plen, ident, Link.identified]

/-! ## A NAK (R238, R239) -/

theorem Link.replay_resend (k : Link) (fs : List Flight) : (k.resend fs).replay = k.replay :=
  foldl_keeps Link.replay (fun k (f : Flight) => k.emit f.seq 0 f.vc f.data) (fun _ _ => rfl) fs k

theorem Link.replay_replayed (k : Link) (held : k.buffer ≠ []) : k.replayed.replay = satAdd k.replay 1 := by
  unfold Link.replayed
  split
  · next empty => exact absurd empty held
  · exact Link.replay_resend _ _

/-- A NAK replays the buffer, and the link may have to retrain: of the rest the link alone changes. -/
theorem Dev.calm_nakFlit (s : Dev) (l : Nat) (active : (s.link l).st = .active) (held : (s.link l).buffer ≠ []) :
    ∃ k, (s.nakFlit l).calm = s.calm.setLink l k ∧ k.replay = satAdd (s.link l).replay 1 := by
  have replay := Link.replay_replayed _ held
  have replays : s.nakFlit l = if 8 ≤ (s.link l).replayed.replays then (s.setLink l (s.link l).replayed).retrain l
      else s.setLink l (s.link l).replayed := by
    simp [Dev.nakFlit, active, held]
  rw [replays]
  split
  · obtain up | down := (s.setLink l (s.link l).replayed).calm_retrain l
    · rw [Dev.calm_setLink, CalmView.setLink_setLink, Dev.link_setLink_self] at up
      exact ⟨_, up, replay⟩
    · rw [Dev.calm_setLink, CalmView.setLink_setLink, Dev.link_setLink_self] at down
      exact ⟨_, down, replay⟩
  · exact ⟨_, s.calm_setLink l _, replay⟩

/-! ## A TIME flit (R259, R260) -/

theorem Dev.fab_of_outer {s t : Dev} (outer : t.outer = s.outer) : t.fab = s.fab := (congrArg Dev.fab outer :)

theorem Dev.follow_frame (s : Dev) (b : Option Source) : (s.follow b).mem = s.mem ∧ (s.follow b).fab = s.fab := by
  unfold Dev.follow
  dsimp only
  split
  · split <;> exact ⟨rfl, rfl⟩
  · split
    · exact ⟨rfl, rfl⟩
    · split <;> exact ⟨rfl, rfl⟩

/-- An event, or none, leaves the memories and the fabric alone. -/
theorem Dev.frame_of_event (c : Prop) [Decidable c] (d : Dev) (ty : Nat) (p q : U64) :
    (if c then d else d.eventAll ty p q).mem = d.mem ∧ (if c then d else d.eventAll ty p q).fab = d.fab := by
  split
  · exact ⟨rfl, rfl⟩
  · exact ⟨Dev.mem_of_outer (d.outer_eventAll ty p q), Dev.fab_of_outer (d.outer_eventAll ty p q)⟩

theorem Dev.advertise_frame (s : Dev) (before : Servo) (b : Option Source) : (s.advertise before b).mem = s.mem ∧
    (s.advertise before b).fab.gangs = s.fab.gangs ∧ (s.advertise before b).fab.links = s.fab.links := by
  unfold Dev.advertise
  dsimp only
  rw [(Dev.frame_of_event _ _ _ _ _).1, (Dev.frame_of_event _ _ _ _ _).2]
  split <;> split <;> exact ⟨rfl, rfl, rfl⟩

/-- The choice of a time source leaves the memories, the gangs and the links alone. -/
theorem Dev.reselect_frame (s : Dev) :
    s.reselect.mem = s.mem ∧ s.reselect.fab.gangs = s.fab.gangs ∧ s.reselect.fab.links = s.fab.links := by
  obtain ⟨mem, fab⟩ := s.follow_frame s.bestSource
  rw [← mem, ← fab]
  exact Dev.advertise_frame _ _ _

/-- The candidate that a TIME flit's payload makes of its gang. -/
theorem Dev.timeFlit_of_ok (s : Dev) (l : Nat) (flit : List Byte) (h : FlitHdr) (active : (s.link l).st = .active)
    (plen : h.plen = 7) (ok : timePayloadOk (flitPayload flit h) = true) : ∃ g : Gang,
      s.timeFlit l flit h = (s.setGang (l / 4) g).reselect ∧ g.cand.valid = true ∧
      g.cand.hops = min 255 (leAt (flitPayload flit h) 49 1 + 1) ∧
      g.lastRx = some (stampAt (flitPayload flit h) 0, s.now) := by
  simp only [Dev.timeFlit, active, plen, ok]
  exact ⟨_, rfl, rfl, rfl, rfl⟩

/-- One byte of a list. -/
theorem leAt_one (bs : List Byte) (i : Nat) : leAt bs i 1 = (bs.getD i 0).toNat := by
  rw [leAt, List.getD_eq_getElem?_getD]
  cases at_i : bs[i]? with
  | none => simp [List.drop_eq_nil_of_le (List.getElem?_eq_none_iff.mp at_i), leNat]
  | some b =>
    obtain ⟨lt, rfl⟩ := List.getElem?_eq_some_iff.mp at_i
    rw [List.drop_eq_getElem_cons lt, List.take_succ_cons, List.take_zero]
    rfl

/-! ## Sound flits of each type -/

section
variable {s : Dev} {l : Nat} {flit : List Byte} {type : Nat} (sound : s.soundFlit l flit type) (n : Nat)
include sound

/-- A sound flit out of order on an ACTIVE link is discarded, and asked for once. -/
theorem Dev.recvFlit_asksAgain (act : Dev → FlitHdr → Dev) (active : (s.link l).st = .active) (notData : type ≠ 0)
    (seq : (parseFlit flit).seq ≠ (s.link l).rxSeq) :
    let t := s.recvFlit l flit (.decoded n) type act
    (t.link l).rxSeq = (s.link l).rxSeq ∧ (t.link l).nakPending = true ∧
      (t.link l).sendNak = (s.link l).sendNak + (if (s.link l).nakPending then 0 else 1) ∧
      (t.link l).buffer = (s.link l).buffer ∧ t.fab.gangs = s.fab.gangs := by
  obtain ⟨-, rxSeq, buffer, -⟩ := ((s.link l).counted n).discard_frame
  obtain ⟨pending, sent⟩ := ((s.link l).counted n).discard_of_active active
  rw [Dev.recvFlit_of_outOfOrder sound n act active notData seq]
  dsimp only
  rw [Dev.link_setLink_self]
  exact ⟨rxSeq, pending, sent, buffer, rfl⟩

end

section
variable {s : Dev} {l : Nat} {flit : List Byte} (n : Nat)

/-- A DATA flit in order advances the sequence number. -/
theorem Dev.recvFlit_data_inOrder (sound : s.soundFlit l flit 0) (active : (s.link l).st = .active)
    (seq : (parseFlit flit).seq = (s.link l).rxSeq) :
    let t := s.recvFlit l flit (.decoded n) 0 (fun d h => d.dataFlit l flit h)
    (t.link l).rxSeq = (s.link l).rxSeq + 1 ∧ (t.link l).nakPending = false ∧ (t.link l).st = .active ∧ t.mem = s.mem := by
  rw [Dev.recvFlit_of_active sound n _ active (.inl rfl)]
  generalize taken : ((s.link l).counted n).returns (parseFlit flit) = k
  have active' : k.st = .active := by rw [← taken]; exact active
  have rxSeq : k.rxSeq = (s.link l).rxSeq := by rw [← taken]; rfl
  have calm := (s.setLink l k).calm_dataFlit l flit (parseFlit flit) (by rw [Dev.link_setLink_self, active'])
    (by rw [Dev.link_setLink_self, rxSeq, seq])
  rw [← Dev.calm_flush, Dev.link_setLink_self, Dev.calm_setLink, CalmView.setLink_setLink] at calm
  obtain ⟨mem, -, -, -, steady⟩ := Dev.fields_of_calm_setLink calm
  have read {α : Type} := Link.read_of_steady (α := α) steady
  refine ⟨(read Link.rxSeq (fun _ => rfl)).trans ?_, read Link.nakPending (fun _ => rfl),
    (read Link.st (fun _ => rfl)).trans active', mem⟩
  rw [← rxSeq]; rfl

/-- A DATA flit out of order is discarded, and asked for once. -/
theorem Dev.recvFlit_data_outOfOrder (sound : s.soundFlit l flit 0) (active : (s.link l).st = .active)
    (seq : (parseFlit flit).seq ≠ (s.link l).rxSeq) :
    let t := s.recvFlit l flit (.decoded n) 0 (fun d h => d.dataFlit l flit h)
    (t.link l).rxSeq = (s.link l).rxSeq ∧ (t.link l).nakPending = true ∧
      (t.link l).sendNak = (s.link l).sendNak + (if (s.link l).nakPending then 0 else 1) ∧ t.fab.inbox = s.fab.inbox := by
  obtain ⟨-, rxSeq, -, -⟩ := (((s.link l).counted n).returns (parseFlit flit)).discard_frame
  obtain ⟨pending, sent⟩ := (((s.link l).counted n).returns (parseFlit flit)).discard_of_active active
  rw [Dev.recvFlit_of_active sound n _ active (.inl rfl), Dev.dataFlit_of_outOfOrder _ _ _ _
    (by rw [Dev.link_setLink_self]; exact active) (by rw [Dev.link_setLink_self]; exact seq), Dev.discardFlit_setLink]
  generalize (((s.link l).counted n).returns (parseFlit flit)).discard = k at rxSeq pending sent
  obtain ⟨-, -, -, -, steady⟩ := Dev.fields_of_calm_setLink ((Dev.calm_flush (s.setLink l k)).trans (s.calm_setLink l k))
  have read {α : Type} := Link.read_of_steady (α := α) steady
  exact ⟨(read Link.rxSeq (fun _ => rfl)).trans rxSeq, (read Link.nakPending (fun _ => rfl)).trans pending,
    (read Link.sendNak (fun _ => rfl)).trans sent, Dev.inbox_keptBySending.flush (s.setLink l k)⟩

/-- An IDLE flit in training brings the peer's identity record. -/
theorem Dev.recvFlit_ident {p : Ident} (sound : s.soundFlit l flit 1) (training : (s.link l).st ≠ .active)
    (plen : (parseFlit flit).plen = 4) (ident : parseIdent (flitPayload flit (parseFlit flit)) = some p) :
    let t := s.recvFlit l flit (.decoded n) 1 (fun d h => d.idleFlit l flit h)
    (t.link l).peer = some p ∧ (t.link l).crcErr = (s.link l).crcErr ∧ t.mem = s.mem := by
  rw [Dev.recvFlit_of_training sound n _ training, Dev.idleFlit_of_ident _ _ _ _ p
    (by rw [Dev.link_setLink_self]; exact training) plen ident, Dev.link_setLink_self, Dev.setLink_setLink]
  obtain ⟨mem, -, -, -, steady⟩ := Dev.fields_of_calm_setLink ((Dev.calm_flush _).trans
    (s.calm_setLink l (((s.link l).counted n).identified p)))
  have read {α : Type} := Link.read_of_steady (α := α) steady
  exact ⟨read Link.peer (fun _ => rfl), read Link.crcErr (fun _ => rfl), mem⟩

/-- A NAK in order replays the buffer. -/
theorem Dev.recvFlit_nak (sound : s.soundFlit l flit 2) (active : (s.link l).st = .active)
    (seq : (parseFlit flit).seq = (s.link l).rxSeq) (held : ((s.link l).acked (parseFlit flit).ack).buffer ≠ []) :
    let t := s.recvFlit l flit (.decoded n) 2 (fun d _ => d.nakFlit l)
    (t.link l).replay = satAdd (s.link l).replay 1 ∧ t.mem = s.mem := by
  rw [Dev.recvFlit_of_active sound n _ active (.inr seq)]
  obtain ⟨k, calm, replay⟩ := (s.setLink l (((s.link l).counted n).returns (parseFlit flit))).calm_nakFlit l
    (by rw [Dev.link_setLink_self]; exact active) (by rw [Dev.link_setLink_self]; exact held)
  rw [← Dev.calm_flush, Dev.calm_setLink, CalmView.setLink_setLink] at calm
  rw [Dev.link_setLink_self] at replay
  obtain ⟨mem, -, -, -, steady⟩ := Dev.fields_of_calm_setLink calm
  exact ⟨(Link.read_of_steady steady Link.replay (fun _ => rfl)).trans replay, mem⟩

/-- A TIME flit in order makes its gang a candidate. -/
theorem Dev.recvFlit_time (sound : s.soundFlit l flit 3) (active : (s.link l).st = .active)
    (seq : (parseFlit flit).seq = (s.link l).rxSeq) (plen : (parseFlit flit).plen = 7)
    (ok : timePayloadOk (flitPayload flit (parseFlit flit)) = true) :
    let t := s.recvFlit l flit (.decoded n) 3 (fun d h => d.timeFlit l flit h)
    (t.gang (l / 4)).cand.valid = true ∧
      (t.gang (l / 4)).cand.hops = min 255 (((flitPayload flit (parseFlit flit)).getD 49 0).toNat + 1) ∧
      (t.gang (l / 4)).lastRx = some (stampAt (flitPayload flit (parseFlit flit)) 0, s.now) ∧ t.mem = s.mem := by
  obtain ⟨g, relayed, valid, hops, lastRx⟩ := (s.setLink l (((s.link l).counted n).returns (parseFlit flit))).timeFlit_of_ok l
    flit (parseFlit flit) (by rw [Dev.link_setLink_self]; exact active) plen ok
  rw [Dev.recvFlit_of_active sound n _ active (.inr seq), relayed]
  generalize taken : s.setLink l (((s.link l).counted n).returns (parseFlit flit)) = d at lastRx
  obtain ⟨reselected, gangsChosen, -⟩ := (d.setGang (l / 4) g).reselect_frame
  obtain ⟨flushed, -, -, gangs, -⟩ := Dev.fields_of_calm (Dev.calm_flush (d.setGang (l / 4) g).reselect)
  have gang : ((d.setGang (l / 4) g).reselect.flush).gang (l / 4) = g := by
    rw [Dev.gang_of_gangs (gangs.trans gangsChosen), Dev.gang_setGang, if_pos rfl]
  dsimp only
  rw [gang, hops, leAt_one, lastRx, flushed, reselected, ← taken]
  exact ⟨valid, rfl, rfl, rfl⟩

end

/-! ## O26 -/

/-- Settles O26: what each command does with a flit that is taken up (`Dev.recvFlit_of_active`, `Dev.recvFlit_of_training`) or
discarded (`Dev.recvFlit_of_outOfOrder`); the sending that follows leaves what the statement reads alone (`Dev.calm_flush`). -/
theorem soundFlits : Obligations.SoundFlits := by
  intro l flit n s
  have run {type : Nat} (sound : s.dev.soundFlit l.val flit type) (f : Dev → Dev) :
      s.onFlit flit f = .next (s.withDev (f s.dev)) := s.onFlit_of_sized flit f (beq_iff_eq.mpr sound.1)
  refine ⟨fun sound active seq => ⟨_, run sound _, ?_⟩, fun sound active seq => ⟨_, run sound _, ?_⟩,
    fun i hi sound active seq => ?_, fun p sound training plen ident => ⟨_, run sound _, ?_⟩,
    fun sound active seq held => ⟨_, run sound _, ?_⟩, fun sound active seq plen ok => ⟨_, run sound _, ?_⟩⟩
  · obtain ⟨rxSeq, pending, st, mem⟩ := Dev.recvFlit_data_inOrder n sound active seq
    exact ⟨rxSeq, pending, st, rfl, mem⟩
  · exact Dev.recvFlit_data_outOfOrder n sound active seq
  · have notData : i.1 ≠ 0 := by
      simp only [List.mem_cons, List.not_mem_nil, or_false] at hi
      obtain rfl | rfl | rfl := hi <;> exact Nat.succ_ne_zero _
    obtain ⟨act, hexec⟩ := exec_receives l sound.1 (.decoded n) s i (List.mem_cons_of_mem _ hi)
    exact ⟨_, hexec, Dev.recvFlit_asksAgain sound n act active notData seq⟩
  · obtain ⟨peer, crcErr, mem⟩ := Dev.recvFlit_ident n sound training plen ident
    exact ⟨peer, crcErr, rfl, mem⟩
  · obtain ⟨replay, mem⟩ := Dev.recvFlit_nak n sound active seq held
    exact ⟨replay, rfl, mem⟩
  · obtain ⟨valid, hops, lastRx, mem⟩ := Dev.recvFlit_time n sound active seq plen ok
    exact ⟨valid, hops, lastRx, rfl, mem⟩

end Sys2Proof.Machine
end

section
/-! Links that train, fail and go DOWN (R234, R238, R240 to R242); O28 and O29. -/
namespace Sys2Proof.Machine
open Sys2Proof

/-! ## The link commands -/

theorem exec_trainingStateExit (l : LinkId) (s : State) :
    exec (.trainingStateExit l) s = .next (s.withDev (s.dev.trainingExit l.val)) := rfl
theorem exec_trainingTimeout (l : LinkId) (s : State) :
    exec (.trainingTimeout l) s = .next (s.withDev (s.dev.trainingTimeout l.val)) := rfl
theorem exec_detectRetry (l : LinkId) (signal : Bool) (s : State) :
    exec (.detectRetry l signal) s = .next (s.withDev (s.dev.detectRetry l.val signal)) := rfl
theorem exec_lossOfSignal (l : LinkId) (s : State) :
    exec (.lossOfSignal l) s = .next (s.withDev (s.dev.linkDown l.val)) := rfl
theorem exec_handoverTimeout (l : LinkId) (s : State) :
    exec (.handoverTimeout l) s = .next (s.withDev (s.dev.handoverTimeout l.val)) := rfl
theorem exec_laneFail (l : LinkId) (s : State) : exec (.laneFail l) s = .next (s.withDev (s.dev.laneFail l.val)) := rfl
theorem exec_nakResendTimeout (l : LinkId) (s : State) :
    exec (.nakResendTimeout l) s = .next (s.withDev (s.dev.nakResend l.val)) := rfl

/-! ## Training (R242) -/

section
variable {s : Dev} {l : Nat} (powered : s.linkPowered l = true)
include powered

theorem Dev.trainingExit_of_detect (st : (s.link l).st = .detect) :
    s.trainingExit l = s.setLink l { s.link l with st := .equalise } := by
  simp [Dev.trainingExit, powered, st]

theorem Dev.trainingExit_of_equalise (st : (s.link l).st = .equalise) :
    s.trainingExit l = s.setLink l { s.link l with st := .align } := by
  simp [Dev.trainingExit, powered, st]

theorem Dev.trainingExit_of_align (st : (s.link l).st = .align) :
    s.trainingExit l = s.setLink l { s.link l with st := .waitId, width := widthOf (s.link l).lanes } := by
  simp [Dev.trainingExit, powered, st]

theorem Dev.trainingExit_of_waitId (st : (s.link l).st = .waitId) (may : s.mayIdentify (l / 4) = true) :
    s.trainingExit l = s.setLink l { s.link l with st := .identify, credits := [] } := by
  simp [Dev.trainingExit, powered, st, may]

theorem Dev.trainingExit_of_identify (st : (s.link l).st = .identify) (role : (s.gang (l / 4)).role ≠ 3) {p : Ident}
    (peer : (s.link l).peer = some p) : s.trainingExit l =
      if s.identOk l p then s.activate l p else (s.setLink l { s.link l with st := .miswired }).linkEvent l := by
  have member : ((s.gang (l / 4)).role == 3) = false := beq_eq_false_iff_ne.mpr role
  simp only [Dev.trainingExit, Dev.identify, powered, st, peer, member]
  rfl

/-- The link once it has trained again, its buffer replayed. -/
def Link.retrained (k : Link) : Link := { k.replayed with st := .active, width := widthOf k.lanes, replays := 0 }

theorem Dev.trainingExit_of_retrain (st : (s.link l).st = .retrain) :
    s.trainingExit l = (s.setLink l (s.link l).retrained).flush := by
  simp [Dev.trainingExit, powered, st, Link.retrained]

theorem Dev.trainingTimeout_of_limited
    (limited : (s.link l).st ∈ [LinkState.detect, .equalise, .align, .identify, .retrain]) :
    s.trainingTimeout l = s.setLink l { s.link l with st := .detect, width := 0, peer := none } := by
  simp only [List.mem_cons, List.not_mem_nil, or_false] at limited
  obtain st | st | st | st | st := limited <;> simp [Dev.trainingTimeout, powered, st]

theorem Dev.detectRetry_of_signal (st : (s.link l).st = .down) (en : (s.gang (l / 4)).en = true)
    (lanes : 0 < (s.link l).lanes) : s.detectRetry l true = s.setLink l { s.link l with st := .detect } := by
  simp [Dev.detectRetry, powered, st, en, lanes]

end

theorem Dev.st_of_calm {s t : Dev} (calm : t.calm = s.calm) (l : Nat) : (t.link l).st = (s.link l).st :=
  Link.read_of_steady (congrFun (congrArg CalmView.links calm) l) Link.st (fun _ => rfl)

/-- A link that is given up for its peer's epoch is another one than that which becomes ACTIVE (R330). -/
theorem Dev.st_miswire (s : Dev) {l k : Nat} (other : k ≠ l) (miswired : Link) :
    ((((s.setLink k miswired).linkEvent k).giveUp k).link l).st = (s.link l).st := by
  rw [Dev.st_of_calm (Dev.calm_keptByRouting.giveUp _ k), Dev.st_of_calm (Dev.calm_linkEvent _ k), Dev.link_setLink,
    if_neg (Ne.symm other)]

/-- The device once a link is ACTIVE, before it looks at the peer's epoch. -/
def Dev.entered (s : Dev) (l : Nat) : Dev :=
  let k := if (s.link l).downHold then { s.link l with buffer := [], downHold := false } else s.link l
  s.setLink l { ({ k with rxHeld := [], crDue := [] } : Link).replayed with
    st := .active, credits := [], replays := 0, wasUp := true }

/-- The gang's other links that face an earlier epoch are no longer accepted (R330). -/
def Dev.refuseEarlier (s : Dev) (l : Nat) (p : Ident) : Dev :=
  (gangLinks (l / 4)).foldl (fun s k =>
    if k != l && (s.link k).st == .active && (s.link k).peer.any (fun q => laterEpoch p.epoch q.epoch) then
      ((s.setLink k { s.link k with st := .miswired }).linkEvent k).giveUp k
    else s) s

/-- A later epoch of the peer is recorded and announced, as is the device's own (R330, R331). -/
def Dev.announceEpochs (s : Dev) (later : Bool) (p : Ident) : Dev :=
  let s := if later then
      ({ s with farr := { s.farr with epochs := Tab.set s.farr.epochs p.coord.toNat p.epoch } } : Dev).sendRemount
        p.coord p.epoch
    else s
  if s.farr.epoch != 0 then s.sendRemount s.fab.coord s.farr.epoch else s

theorem Dev.activate_eq (s : Dev) (l : Nat) (p : Ident) : s.activate l p =
    (((s.entered l).refuseEarlier l p).announceEpochs (laterEpoch p.epoch (s.epochOf p.coord)) p).flush := rfl

theorem Dev.st_refuseEarlier (s : Dev) (l : Nat) (p : Ident) : ((s.refuseEarlier l p).link l).st = (s.link l).st := by
  refine foldl_keeps (fun d : Dev => (d.link l).st) _ (fun d k => ?_) _ _
  split
  · next gives =>
    have other : k ≠ l := fun same => by simp [same] at gives
    exact d.st_miswire other _
  · rfl

theorem Dev.st_sendRemount (s : Dev) (x : BitVec 24) (e : U16) (l : Nat) : ((s.sendRemount x e).link l).st = (s.link l).st :=
  Dev.st_of_calm (Dev.calm_keptByRouting.sendRemount s x e) l

theorem Dev.st_announceEpochs (s : Dev) (later : Bool) (p : Ident) (l : Nat) :
    ((s.announceEpochs later p).link l).st = (s.link l).st := by
  have own (d : Dev) :
      ((if d.farr.epoch != 0 then d.sendRemount d.fab.coord d.farr.epoch else d).link l).st = (d.link l).st := by
    split
    · exact d.st_sendRemount _ _ l
    · rfl
  refine (own _).trans ?_
  split
  · exact Dev.st_sendRemount _ _ _ l
  · rfl

/-- A link that becomes ACTIVE stays so while links that face an earlier epoch are given up and notices go out. -/
theorem Dev.st_activate (s : Dev) (l : Nat) (p : Ident) : ((s.activate l p).link l).st = .active := by
  rw [Dev.activate_eq, Dev.st_of_calm (Dev.calm_flush _), Dev.st_announceEpochs, Dev.st_refuseEarlier, Dev.entered,
    Dev.link_setLink_self]

/-- Settles O28: the equation of each state that training leaves; what a link sends as it becomes ACTIVE or MISWIRED leaves its
state alone (`Dev.st_activate`, `Dev.st_of_calm`). -/
theorem linkTraining : Obligations.LinkTraining := by
  intro l s powered k toSt
  refine ⟨fun st => ?_, fun st => ?_, fun st => ?_, fun st may => ?_, fun p st role peer foreign => ?_,
    fun p st role peer ok => ?_, fun st => ?_, fun limited => ?_, fun st en lanes => ?_⟩
  · rw [exec_trainingStateExit, Dev.trainingExit_of_detect powered st]
  · rw [exec_trainingStateExit, Dev.trainingExit_of_equalise powered st]
  · rw [exec_trainingStateExit, Dev.trainingExit_of_align powered st]
  · rw [exec_trainingStateExit, Dev.trainingExit_of_waitId powered st may]
  · refine ⟨_, exec_trainingStateExit l s, ?_⟩
    rw [Dev.trainingExit_of_identify powered st role peer, foreign, if_neg Bool.false_ne_true,
      Dev.st_of_calm (Dev.calm_linkEvent _ l.val), Dev.link_setLink_self]
  · refine ⟨_, exec_trainingStateExit l s, ?_⟩
    rw [Dev.trainingExit_of_identify powered st role peer, ok, if_pos rfl, Dev.st_activate]
  · refine ⟨_, exec_trainingStateExit l s, ?_⟩
    rw [Dev.trainingExit_of_retrain powered st, Dev.st_of_calm (Dev.calm_flush _), Dev.link_setLink_self]
    rfl
  · rw [exec_trainingTimeout, Dev.trainingTimeout_of_limited powered limited]
  · rw [exec_detectRetry, Dev.detectRetry_of_signal powered st en lanes]

/-! ## A device fault leaves the links alone -/

theorem Dev.links_of_still {s t : Dev} (still : t.still = s.still) : t.fab.links = s.fab.links :=
  (congrArg (fun d => d.fab.links) still :)

theorem Dev.links_of_outer {s t : Dev} (outer : t.outer = s.outer) : t.fab.links = s.fab.links :=
  Dev.links_of_still (Dev.still_of_outer outer)

theorem Dev.links_event (s : Dev) (c ty : Nat) (p q : U64) : (s.event c ty p q).fab.links = s.fab.links :=
  Dev.links_of_outer (s.outer_event c ty p q)

theorem Dev.links_ewCheck (s : Dev) (c : Nat) : (s.ewCheck c).fab.links = s.fab.links := by
  unfold Dev.ewCheck; dsimp only; split
  · exact Dev.links_event _ c _ _ _
  · rfl

theorem Dev.links_engineOff (s : Dev) (c : Nat) (p : Nat → Bool) : (s.engineOff c p).fab.links = s.fab.links :=
  Dev.links_of_still (s.still_awaken _)

theorem Dev.links_failBucket (s : Dev) (c b : Nat) (st : Status) : (s.failBucket c b st).fab.links = s.fab.links := by
  unfold Dev.failBucket; dsimp only; split
  · rfl
  · rw [Dev.links_ewCheck, Dev.links_event, Dev.links_engineOff]
    rfl

theorem Dev.links_spoilEntry (s : Dev) (c : Nat) (d : UpdDie) : (s.spoilEntry c d).fab.links = s.fab.links := by
  unfold Dev.spoilEntry; split <;> rfl

theorem Dev.links_failList (s : Dev) (c : Nat) (st : Status) : (s.failList c st).fab.links = s.fab.links := by
  unfold Dev.failList; dsimp only; split
  · rfl
  · rw [Dev.links_ewCheck, Dev.links_event, Dev.links_engineOff]
    exact (Dev.links_spoilEntry _ _ _).trans (Dev.links_spoilEntry _ _ _)

theorem Dev.links_discardTiles (s : Dev) (c : Nat) : (s.discardTiles c).fab.links = s.fab.links := by
  refine foldl_keeps (fun d : Dev => d.fab.links) _ (fun d t => ?_) _ _
  split
  · exact Dev.links_of_still (d.still_modTile c t _)
  · rfl

theorem Dev.links_retiredPos (s : Dev) (c : Nat) : (s.retiredPos c).2.fab.links = s.fab.links := by
  unfold Dev.retiredPos; dsimp only; split <;> rfl

theorem Dev.links_discardLaunches (s : Dev) (c : Nat) : (s.discardLaunches c).fab.links = s.fab.links := by
  unfold Dev.discardLaunches; split
  · rfl
  · exact s.links_retiredPos c

theorem Dev.links_faultCtx (st : Status) (cause : Nat) (s : Dev) (c : Nat) :
    (Dev.faultCtx st cause s c).fab.links = s.fab.links := by
  have pos (d : Dev) : (d.faultPos c).2.fab.links = d.fab.links := by
    unfold Dev.faultPos; split
    · exact d.links_retiredPos c
    · rfl
  rw [Dev.faultCtx_eq, Dev.modCtx_fab, Dev.links_event, pos, Dev.faultWork, Dev.links_discardLaunches, Dev.links_failList,
    foldl_keeps (fun d : Dev => d.fab.links) _ (fun d (e : Nat × Bucket) => d.links_failBucket c e.1 st), Dev.modCtx_fab,
    Dev.links_discardTiles]

theorem Dev.links_deviceFault (s : Dev) (cause : Nat) : (s.deviceFault cause).fab.links = s.fab.links := by
  rw [Dev.deviceFault_eq, foldl_keeps (fun d : Dev => d.fab.links) _ (Dev.links_faultCtx _ cause)]
  have woken := Dev.links_of_still (Dev.still_awaken { s with farr := s.farr.faulted cause, side := s.side.raise 1 }
    (fun _ => true))
  unfold Dev.faultNoted; dsimp only
  split <;> exact woken

theorem Dev.link_deviceFault (s : Dev) (cause l : Nat) : (s.deviceFault cause).link l = s.link l :=
  congrArg (fun ls : Tab Link => (Tab.get {} ls l : Link)) (s.links_deviceFault cause)

/-! ## A failed lane (R240) -/

theorem Dev.laneFail_of_spare {s : Dev} {l : Nat} (lanes : (s.link l).lanes ≠ 0) (idle : (s.link l).st ≠ .active)
    (free : (s.gang (l / 4)).spareUsed = false) : s.laneFail l =
      (s.setGang (l / 4) { s.gang (l / 4) with spareUsed := true }).setLink l { s.link l with spare := true } := by
  simp [Dev.laneFail, lanes, idle, free]

/-- An ACTIVE link trains again, for its lanes have changed. -/
def Dev.retrainActive (s : Dev) (l : Nat) : Dev := if (s.link l).st == .active then s.retrain l else s

/-- The link with three of its four lanes. -/
def Link.narrowed (k : Link) : Link := { k with lanes := 3, width := min k.width (widthOf 3) }

theorem Dev.laneFail_of_narrower {s : Dev} {l : Nat} (lanes : (s.link l).lanes = 4)
    (used : (s.gang (l / 4)).spareUsed = true) : s.laneFail l =
      let d := ((s.setLink l (s.link l).narrowed).retrainActive l).linkEvent l
      ({ d with farr := { d.farr with linkShort := true } } : Dev).deviceFault 0x05 := by
  have narrower : widthOf 3 < widthOf 4 := by decide
  simp [Dev.laneFail, lanes, used, narrower, Dev.retrainActive, Link.narrowed]

/-- Training again keeps the lanes of a link, and does not widen it. -/
theorem Dev.calm_retrainActive (s : Dev) (l : Nat) (k : Link) :
    ∃ k', ((s.setLink l k).retrainActive l).calm = s.calm.setLink l k' ∧ k'.lanes = k.lanes ∧ k'.width ≤ k.width := by
  unfold Dev.retrainActive
  split
  · obtain up | down := (s.setLink l k).calm_retrain l
    · rw [Dev.calm_setLink, CalmView.setLink_setLink, Dev.link_setLink_self] at up
      exact ⟨_, up, rfl, Nat.le_refl _⟩
    · rw [Dev.calm_setLink, CalmView.setLink_setLink, Dev.link_setLink_self] at down
      exact ⟨_, down, rfl, Nat.zero_le _⟩
  · exact ⟨k, s.calm_setLink l k, rfl, Nat.le_refl _⟩

/-! ## Handover and unanswered NAKs (R238, R241) -/

theorem Dev.handoverTimeout_of_held {s : Dev} {l : Nat} (held : (s.link l).downHold = true) :
    s.handoverTimeout l = s.setLink l { s.link l with buffer := [], downHold := false } := by
  simp [Dev.handoverTimeout, held]

theorem Dev.nakResend_of_pending {s : Dev} {l : Nat} (active : (s.link l).st = .active)
    (pending : (s.link l).nakPending = true) : s.nakResend l = s.setLink l (s.link l).askAgain := by
  simp [Dev.nakResend, active, pending]

/-- An ACTIVE link that goes down keeps its buffer for a handover record. -/
theorem Link.downed_of_active (k : Link) (active : k.st = .active) :
    k.downed.steady.buffer = k.buffer ∧ k.downed.downHold = !k.buffer.isEmpty := by
  simp [Link.downed, Link.steady, Link.awaitsHandover, active]

/-- Settles O29: a link that goes down is `Link.downed` (`Dev.calm_linkDown`), and one that narrows keeps its lanes through
training (`Dev.calm_retrainActive`), the event and the device fault (`Dev.link_deviceFault`, `Dev.farr_deviceFault`). -/
theorem linksThatFail : Obligations.LinksThatFail := by
  refine ⟨fun l s active => ?_, fun l s held => ?_, fun l s lanes idle free => ?_, fun l s lanes used => ?_,
    fun l s active pending => ⟨?_, rfl⟩⟩
  · refine ⟨_, exec_lossOfSignal l s, ?_⟩
    have calm := s.dev.calm_linkDown l.val (by rw [active]; exact LinkState.noConfusion)
    obtain ⟨mem, tiles, -, -, steady⟩ := Dev.fields_of_calm_setLink calm
    obtain ⟨buffer, downHold⟩ := (s.dev.link l.val).downed_of_active active
    have read {α : Type} := Link.read_of_steady (α := α) steady
    have down : ((s.dev.linkDown l.val).link l.val).st = .down := read Link.st (fun _ => rfl)
    have kept : ((s.dev.linkDown l.val).link l.val).steady.buffer = ((s.dev.linkDown l.val).link l.val).buffer := by
      simp [Link.steady, down]
    refine ⟨down, read Link.width (fun _ => rfl), ?_, (read Link.downHold (fun _ => rfl)).trans downHold, rfl, mem, tiles⟩
    rw [← buffer, ← steady, kept]
  · rw [exec_handoverTimeout, Dev.handoverTimeout_of_held held]
  · rw [exec_laneFail, Dev.laneFail_of_spare lanes idle free]
  · refine ⟨_, exec_laneFail l s, ?_⟩
    rw [Dev.laneFail_of_narrower lanes used]
    obtain ⟨k, calm, lanes', width⟩ := s.dev.calm_retrainActive l.val (s.dev.link l.val).narrowed
    rw [← Dev.calm_linkEvent _ l.val] at calm
    generalize ((s.dev.setLink l.val (s.dev.link l.val).narrowed).retrainActive l.val).linkEvent l.val = d at calm ⊢
    obtain ⟨-, -, farr, -, steady⟩ := Dev.fields_of_calm_setLink calm
    have read {α : Type} := Link.read_of_steady (α := α) steady
    dsimp only
    rw [Dev.link_deviceFault, Dev.farr_deviceFault]
    refine ⟨(read Link.lanes (fun _ => rfl)).trans lanes', ?_, rfl, ?_, rfl⟩
    · have narrow : k.width ≤ 2 := Nat.le_trans width (Nat.min_le_right _ _)
      exact Nat.le_trans (Nat.le_of_eq (read Link.width (fun _ => rfl))) narrow
    · rw [← farr]; rfl
  · rw [exec_nakResendTimeout, Dev.nakResend_of_pending active pending]

end Sys2Proof.Machine
end

section
/-! TIME flits that a gang sends, gangs that fall silent, and the registers of gangs and windows (R259, R260, R262, R332);
O30. -/
namespace Sys2Proof.Machine
open Sys2Proof

theorem exec_timeFlitSend (g : GangId) (s : State) :
    exec (.timeFlitSend g) s = .next (s.withDev (s.dev.timeFlitSend g.val)) := rfl
theorem exec_gangTimeSilence (g : GangId) (s : State) :
    exec (.gangTimeSilence g) s = .next (s.withDev (s.dev.gangSilence g.val)) := rfl
theorem exec_fabGangCfgWrite (g : GangId) (v : U64) (s : State) :
    exec (.fabGangCfgWrite g v) s = s.onBar (fun d => d.gangCfgWrite g.val v) := rfl
theorem exec_fabWinWrite (c : CtxId) (w : Fin 16) (word : Fin 2) (v : U64) (s : State) :
    exec (.fabWinWrite c w word v) s = s.onBar (fun d => d.winWrite c.val w.val word.val v) := rfl

/-! ## TIME flits (R259, R332) -/

/-- The device after a TIME flit of a gang has left on a link. -/
def Dev.timeSent (s : Dev) (g l : Nat) : Dev :=
  (s.setLink l ((s.link l).emit (s.link l).txSeq 3 0 (s.timePayload g))).setGang g
    { s.gang g with timeSent := (s.gang g).timeSent + 1, lastTx := s.timePayload g }

theorem Dev.timeFlitSend_of_link {s : Dev} {g l : Nat} (link : s.timeLink g = some l) : s.timeFlitSend g = s.timeSent g l := by
  rw [Dev.timeFlitSend, link]
  rfl

/-- A gang that has an ACTIVE link sends its TIME flits on one. -/
theorem Dev.timeLink_of_up {s : Dev} {g : Nat} (up : s.gangUp g = true) :
    ∃ l ∈ gangLinks g, (s.link l).st = .active ∧ s.timeLink g = some l := by
  unfold Dev.gangUp at up
  cases links : s.activeLinks g with
  | nil => simp [links] at up
  | cons l ls =>
    have first : l ∈ s.activeLinks g := by rw [links]; exact List.mem_cons_self
    obtain ⟨inGang, active⟩ := List.mem_filter.mp first
    exact ⟨l, inGang, beq_iff_eq.mp active, by rw [Dev.timeLink, links]; rfl⟩

/-- A REMOUNT gang without an ACTIVE link sends its TIME flits on its lowest link in IDENTIFY. -/
theorem Dev.timeLink_of_remount {s : Dev} {g l : Nat} (up : s.gangUp g = false) (role : (s.gang g).role = 3)
    (lowest : (gangLinks g).find? (fun l => (s.link l).st == .identify) = some l) : s.timeLink g = some l := by
  have links : s.activeLinks g = [] := by simpa [Dev.gangUp] using up
  simp [Dev.timeLink, links, role, lowest]

/-- A silent gang is no candidate, and the choice of a source that follows leaves the gangs and the links alone. -/
theorem Dev.gangSilence_frame (s : Dev) (g : Nat) : ((s.gangSilence g).gang g).cand.valid = false ∧
    (∀ k, k ≠ g → (s.gangSilence g).gang k = s.gang k) ∧ (s.gangSilence g).fab.links = s.fab.links := by
  obtain ⟨-, gangs, links⟩ := (s.setGang g { s.gang g with cand := { (s.gang g).cand with valid := false } }).reselect_frame
  have gang (k : Nat) := (Dev.gang_of_gangs gangs k).trans (Dev.gang_setGang _ _ _ _)
  unfold Dev.gangSilence
  exact ⟨by rw [gang, if_pos rfl], fun k other => by rw [gang, if_neg other], links⟩

/-! ## FAB_GANG_CFG (R262) -/

/-- The gang with the fields of a value of FAB_GANG_CFG, enabled. -/
def Gang.configured (k : Gang) (v : U64) : Gang :=
  { k with asym := v.extractLsb' 48 16, dim := v.extractLsb' 5 2, role := v.extractLsb' 2 3, en := true }

section
variable {s : Dev} {g : Nat} {v : U64} (free : s.fab.pend = false) (role : (v.extractLsb' 2 3).toNat ≤ 3)
include free role

theorem Dev.gangCfgWrite_of_up (up : s.gangUp g = true) : s.gangCfgWrite g v = s.fabStatus .notIdle := by
  rw [toNat_extractLsb'_eq_fld v 4 2] at role
  have refused : firstRefusal [(decide (3 < fld v.toNat 4 2), .invalidWord), (s.gangUp g, .notIdle)] = .notIdle := by
    simp [firstRefusal, up, Nat.not_lt.mpr role]
  simp only [Dev.gangCfgWrite, free, refused]
  rfl

theorem Dev.gangCfgWrite_of_idle (idle : s.gangUp g = false) (en : v.getLsbD 0 = true) :
    s.gangCfgWrite g v = (s.setGang g ((s.gang g).configured v)).fabStatus .done := by
  rw [toNat_extractLsb'_eq_fld v 4 2] at role
  have accepted : firstRefusal [(decide (3 < fld v.toNat 4 2), .invalidWord), (s.gangUp g, .notIdle)] = .done := by
    simp [firstRefusal, idle, Nat.not_lt.mpr role]
  have enabled : bit v.toNat 0 = true := (bit_toNat v 0).trans en
  simp only [Dev.gangCfgWrite, free, accepted, enabled, ofNat_fld_toNat v 63 48, ofNat_fld_toNat v 6 5, ofNat_fld_toNat v 4 2]
  rfl

end

/-! ## FAB_WIN (R262) -/

/-- A window once one of its words has been written. -/
def Win.written (old : Win) (word : Nat) (v : U64) : Win :=
  if word = 0 then parseWin v.toNat old.word1 else parseWin old.word0 v.toNat

/-- A value of a word of FAB_WIN sets a reserved bit. -/
def winReserved (word : Nat) (v : U64) : Bool :=
  if word = 0 then fld v.toNat 63 39 != 0 || fld v.toNat 11 8 != 0 || bit v.toNat 1 else fld v.toNat 63 22 != 0

theorem fld_of_lt {x lo : Nat} (below : x < 2 ^ lo) (hi : Nat) : fld x hi lo = 0 := by
  rw [fld, Nat.div_eq_of_lt below, Nat.zero_mod]

theorem winReserved_word0 {v : U64} (low : v.toNat < 2 ^ 39) (mid : v.extractLsb' 8 4 = 0) (bit1 : v.getLsbD 1 = false) :
    winReserved 0 v = false := by
  have high : fld v.toNat 63 39 = 0 := fld_of_lt low 63
  have mid' : fld v.toNat 11 8 = 0 := by rw [← toNat_extractLsb'_eq_fld v 11 8, mid]; rfl
  rw [winReserved, if_pos rfl, high, mid', bit_toNat, bit1]
  rfl

theorem winReserved_word1 {v : U64} (low : v.toNat < 2 ^ 22) : winReserved 1 v = false := by
  have high : fld v.toNat 63 22 = 0 := fld_of_lt low 63
  rw [winReserved, if_neg Nat.one_ne_zero, high]
  rfl

/-- A write that sets no reserved bit takes the window where it fits, and is refused with RANGE elsewhere. -/
theorem Dev.winWrite_of_clear {s : Dev} (c w word : Nat) {v : U64} {new : Win} (free : s.fab.pend = false)
    (clear : winReserved word v = false) (written : (Tab.get {} (s.ctx c).wins w : Win).written word v = new)
    (space : new.space ≠ 3) : s.winWrite c w word v =
      if (s.ctx c).winFits new then (s.modCtx c (fun k => { k with wins := Tab.set k.wins w new })).fabStatus .done
      else s.fabStatus .range := by
  have known : (new.space == 3) = false := beq_eq_false_iff_ne.mpr space
  unfold Win.written at written
  unfold winReserved at clear
  simp only [Dev.winWrite, free, written, clear, known]
  cases (s.ctx c).winFits new <;> rfl

/-! ## O30 -/

/-- Settles O30: the link that sends a gang's TIME flits (`Dev.timeLink_of_up`, `Dev.timeLink_of_remount`), what a silent
gang leaves alone (`Dev.gangSilence_frame`), and the registers' writes in their cases. -/
theorem gangsAndWindows : Obligations.GangsAndWindows := by
  refine ⟨fun g s => ⟨fun up => ?_, fun l up role lowest => ?_⟩, fun g s => ⟨_, exec_gangTimeSilence g s, ?_⟩,
    fun g v s hbar free idle role en => ?_, fun g v s hbar free role up => ?_,
    fun c w v s hbar free low mid bit1 => ?_, fun c w v s hbar free low => ?_⟩
  · obtain ⟨l, inGang, active, link⟩ := Dev.timeLink_of_up up
    exact ⟨l, inGang, active, by rw [exec_timeFlitSend, Dev.timeFlitSend_of_link link]; rfl⟩
  · rw [exec_timeFlitSend, Dev.timeFlitSend_of_link (Dev.timeLink_of_remount up role lowest)]
    rfl
  · obtain ⟨valid, others, links⟩ := s.dev.gangSilence_frame g.val
    exact ⟨valid, others, links, rfl⟩
  · rw [exec_fabGangCfgWrite, s.onBar_of_open _ hbar, Dev.gangCfgWrite_of_idle free role idle en]
    rfl
  · rw [exec_fabGangCfgWrite, s.onBar_of_open _ hbar, Dev.gangCfgWrite_of_up free role up]
  · intro new space
    rw [exec_fabWinWrite, s.onBar_of_open _ hbar,
      Dev.winWrite_of_clear c.val w.val (0 : Fin 2).val (new := new) free (winReserved_word0 low mid bit1) rfl space]
    exact ⟨fun fits => by rw [if_pos fits], fun outside => by rw [outside]; rfl⟩
  · intro new space
    rw [exec_fabWinWrite, s.onBar_of_open _ hbar,
      Dev.winWrite_of_clear c.val w.val (1 : Fin 2).val (new := new) free (winReserved_word1 low) rfl space]
    exact ⟨fun fits => by rw [if_pos fits], fun outside => by rw [outside]; rfl⟩

end Sys2Proof.Machine
end

section
/-! Responses, operations that end unanswered, and the order of completion (R250, R251, R253, R255, R257); O32. -/
namespace Sys2Proof.Machine
open Sys2Proof

theorem exec_ack (s : State) : exec .ack s = .next (s.withDev (s.dev.onResponse 0x81 (fun _ => none))) := rfl
theorem exec_getData (s : State) : exec .getData s = .next (s.withDev (s.dev.onResponse 0x82 (fun _ => none))) := rfl
theorem exec_atomRes (s : State) : exec .atomRes s =
    .next (s.withDev (s.dev.onResponse 0x84 (fun p => some (BitVec.ofNat 64 (leNat p.data))))) := rfl
theorem exec_opTimeout (k : Nat) (s : State) : exec (.opTimeout k) s = .next (s.withDev (s.dev.opTimeout k)) := rfl

/-! ## Packets taken up -/

theorem takeOp_op {op : Nat} {q rest : List Packet} {p : Packet} (taken : takeOp op q = some (p, rest)) : p.op = op := by
  induction q generalizing rest with
  | nil => cases taken
  | cons x q ih =>
    rw [takeOp] at taken
    split at taken
    · next isOp =>
      obtain ⟨rfl, -⟩ := Prod.mk.inj (Option.some.inj taken)
      exact isOp
    · split at taken
      · cases taken
      · next found =>
        obtain ⟨rfl, -⟩ := Prod.mk.inj (Option.some.inj taken)
        exact ih found

/-- A response answers an operation of the kind that its OP is for. -/
theorem Fab.responseOf_answers {f : Fab} {p : Packet} {o : ROp} {i : Nat} (answers : f.answers p = some (o, i)) :
    responseOf o.kind = p.op := by
  obtain ⟨e, -, found⟩ := List.exists_of_findSome?_eq_some answers
  split at found
  · cases found
  · next fits =>
    obtain ⟨j, -, pair⟩ := Option.map_eq_some_iff.mp found
    obtain ⟨rfl, -⟩ := Prod.mk.inj pair
    exact Decidable.byContradiction fun other => fits (by simp [other])

/-- An acknowledgement brings no data. -/
theorem ROp.answerLen_of_ack {o : ROp} (ack : responseOf o.kind = 0x81) (i : Nat) : o.answerLen i = 0 := by
  unfold responseOf at ack
  unfold ROp.answerLen
  split at ack
  · cases ack
  · split at ack
    · cases ack
    · next notGet notAtomic => rw [if_neg notGet, if_neg notAtomic]

/-- The response to an atomic brings its old value. -/
theorem ROp.answerLen_of_atomic {o : ROp} (res : responseOf o.kind = 0x84) (i : Nat) : o.answerLen i = 8 := by
  unfold responseOf at res
  unfold ROp.answerLen
  split at res
  · cases res
  · next notGet =>
    split at res
    · next atomic => rw [if_neg notGet, if_pos atomic]
    · cases res

/-! ## A response taken up -/

section
variable {s : Dev} {op : Nat} {p : Packet} {rest : List Packet} (taken : takeOp op s.fab.inbox = some (p, rest))
  (old : Packet → Option U64)
include taken

theorem Dev.onResponse_of_late (late : s.fab.answers p = none) :
    s.onResponse op old = (s.withInbox rest).lateResponse p.ctx := by
  simp only [Dev.onResponse, taken, late]
  rfl

variable {o : ROp} {i : Nat} (answers : s.fab.answers p = some (o, i)) (whole : p.data.length = o.answerLen i)
  (uncached : s.mem.cached (s.remLines o.c o.loc) = [])
include answers whole uncached

/-- A response that brings what its packet asks for answers the packet with its status and its data, if any. -/
theorem Dev.onResponse_of_whole : s.onResponse op old =
    ((if p.data = [] then s.withInbox rest else (s.withInbox rest).storeGet o i p.data).modOp o.id (fun o =>
      o.answer i (statusOf p.status) (p.h1.getLsbD 39) (!p.data.isEmpty) (if p.data = [] then none else old p))).settle := by
  have free {lines : List Nat} (same : lines = s.remLines o.c o.loc) : s.mem.cached lines = [] := same ▸ uncached
  simp only [Dev.onResponse, taken, answers, whole, ← bit_toNat]
  rw [free]
  · cases p.data with
    | nil => simp [Dev.withInbox]
    | cons b bs => simp [Dev.withInbox]
  · cases o.loc <;> rfl

theorem Dev.onResponse_of_empty (empty : p.data = []) : s.onResponse op old = ((s.withInbox rest).modOp o.id (fun o =>
    o.answer i (statusOf p.status) (p.h1.getLsbD 39) false none)).settle := by
  rw [Dev.onResponse_of_whole taken old answers whole uncached, empty]
  rfl

theorem Dev.onResponse_of_data (data : p.data ≠ []) : s.onResponse op old =
    (((s.withInbox rest).storeGet o i p.data).modOp o.id (fun o =>
      o.answer i (statusOf p.status) (p.h1.getLsbD 39) true (old p))).settle := by
  have full : p.data.isEmpty = false := by simp [data]
  rw [Dev.onResponse_of_whole taken old answers whole uncached, if_neg data, if_neg data, full]
  rfl

end

/-! ## Operations that end unanswered (R257) -/

theorem Dev.opTimeout_of_unanswered {s : Dev} {k : Nat} {o : ROp} (found : s.fab.ops.find? (fun o => o.id = k) = some o)
    (unanswered : o.pkts.any (fun q => q.sent && !q.acked) = true) :
    s.opTimeout k = ((s.modOp k (fun o => o.cut .linkLost)).lateResponse o.c).settle := by
  simp only [Dev.opTimeout, found, unanswered, if_true]

theorem ROp.allAcked_cut (o : ROp) (st : Status) : (o.cut st).allAcked = true := by
  simp [ROp.allAcked, ROp.cut]

/-! ## The order of completion (R255) -/

/-- The operation that completes next, where those of `before` have been passed over: it is answered, and none of its queue
stands before it. -/
theorem nextDone_eq_some (held : ROp → Bool) {before ops : List ROp} {o : ROp} (chosen : nextDone held before ops = some o) :
    o.allAcked = true ∧ held o = false ∧ (∀ e ∈ before, e.owner.queue ≠ o.owner.queue) ∧
      ∃ front after, ops = front ++ o :: after ∧ ∀ e ∈ front, held e = false → e.owner.queue ≠ o.owner.queue := by
  induction ops generalizing before with
  | nil => cases chosen
  | cons x ops ih =>
    rw [nextDone] at chosen
    split at chosen
    · next suspended =>
      obtain ⟨acked, free, behind, front, after, rfl, order⟩ := ih chosen
      refine ⟨acked, free, behind, x :: front, after, rfl, fun e he run => ?_⟩
      obtain rfl | he := List.mem_cons.mp he
      · rw [run] at suspended; exact absurd suspended Bool.false_ne_true
      · exact order e he run
    · next running =>
      split at chosen
      · next first =>
        obtain rfl := Option.some.inj chosen
        obtain ⟨acked, alone⟩ := Bool.and_eq_true_iff.mp first
        exact ⟨acked, Bool.eq_false_iff.mpr running, by simpa using alone, [], ops, rfl,
          fun e he => absurd he List.not_mem_nil⟩
      · obtain ⟨acked, free, behind, front, after, rfl, order⟩ := ih chosen
        refine ⟨acked, free, fun e he => behind e (List.mem_append_left _ he), x :: front, after, rfl, fun e he run => ?_⟩
        obtain rfl | he := List.mem_cons.mp he
        · exact behind e (List.mem_append_right _ List.mem_cons_self)
        · exact order e he run

/-! ## O32 -/

/-- Settles O32: a response by what it brings (`Dev.onResponse_of_empty`, `Dev.onResponse_of_data`), which the kind of its
operation decides (`ROp.answerLen_of_ack`, `ROp.answerLen_of_atomic`), and the order of completion by `nextDone_eq_some`. -/
theorem responsesAnswerOperations : Obligations.ResponsesAnswerOperations := by
  refine ⟨fun s p rest o i answers whole uncached => ⟨fun taken => ?_, fun taken data => ?_, fun taken => ?_⟩,
    fun s p rest late i hi taken => ?_, fun s k o found unanswered => ?_, fun o st => ⟨o.allAcked_cut st, rfl⟩,
    fun held ops o chosen => ?_⟩
  · have ack := (Fab.responseOf_answers answers).trans (takeOp_op taken)
    have empty : p.data = [] := List.length_eq_zero_iff.mp (whole.trans (ROp.answerLen_of_ack ack i))
    rw [exec_ack, Dev.onResponse_of_empty taken _ answers whole uncached empty]
  · rw [exec_getData, Dev.onResponse_of_data taken _ answers whole uncached data]
  · have res := (Fab.responseOf_answers answers).trans (takeOp_op taken)
    have data : p.data ≠ [] := fun empty => by
      rw [empty, ROp.answerLen_of_atomic res i] at whole
      cases whole
    rw [exec_atomRes, Dev.onResponse_of_data taken _ answers whole uncached data]
  · simp only [List.mem_cons, List.not_mem_nil, or_false] at hi
    obtain rfl | rfl | rfl := hi
    · rw [exec_ack, Dev.onResponse_of_late taken _ late]
    · rw [exec_getData, Dev.onResponse_of_late taken _ late]
    · rw [exec_atomRes, Dev.onResponse_of_late taken _ late]
  · rw [exec_opTimeout, Dev.opTimeout_of_unanswered found unanswered]
  · obtain ⟨acked, free, -, order⟩ := nextDone_eq_some held chosen
    exact ⟨acked, free, order⟩

end Sys2Proof.Machine
end

section
/-! Management packets (R241, R261, R326, R327, R331) and PTP messages (R260, R355, R356); O42 and O47. -/
namespace Sys2Proof.Machine
open Sys2Proof

/-! ## Management packets -/

theorem exec_handover (s : State) :
    exec .handover s = .next (s.withDev (s.dev.onMgmt 0xC0 0x1F0FFF Dev.handover)) := rfl
theorem exec_ewNotice (s : State) :
    exec .ewNotice s = .next (s.withDev (s.dev.onMgmt 0xC1 0x3 (fun d _ => d.latchWarning ewNoticeSource))) := rfl
theorem exec_hold (s : State) : exec .hold s = .next (s.withDev (s.dev.onMgmt 0xC2 0xFFFFFFFF Dev.takeHold)) := rfl
theorem exec_holdAck (s : State) : exec .holdAck s = .next (s.withDev (s.dev.onMgmt 0xC3 0xFFFFFFFF Dev.takeHoldAck)) := rfl
theorem exec_remount (s : State) : exec .remount s = .next (s.withDev (s.dev.onMgmt 0xC4 0xFFFFFF000000FFFF (fun d p =>
    d.remounted (BitVec.ofNat 24 (fld p.h1.toNat 63 40)) (p.h1.truncate 16)))) := rfl

/-- A management packet whose reserved fields are zero is taken up and acted on. -/
theorem Dev.onMgmt_of_ready {s : Dev} {op mask : Nat} {p : Packet} {rest : List Packet} (ready : s.mgmtReady op mask p rest)
    (act : Dev → Packet → Dev) : s.onMgmt op mask act = act (s.withInbox rest) p := by
  obtain ⟨taken, ok⟩ := ready
  simp only [Dev.onMgmt, taken, ok, if_true]
  rfl

/-- A management packet with a reserved field set is dropped and counted. -/
theorem Dev.onMgmt_of_reserved {s : Dev} {op mask : Nat} {p : Packet} {rest : List Packet}
    (taken : takeOp op s.fab.inbox = some (p, rest)) (reserved : mgmtOk p mask = false) (act : Dev → Packet → Dev) :
    s.onMgmt op mask act = (s.withInbox rest).dropPacket := by
  simp only [Dev.onMgmt, taken, reserved]
  rfl

/-- The five management commands take up the packets of their OP, and differ in what they do with a valid one. -/
theorem exec_takesMgmt (s : State) :
    ∀ i ∈ [(0xC0, 0x1F0FFF, Instr.handover), (0xC1, 0x3, .ewNotice), (0xC2, 0xFFFFFFFF, .hold), (0xC3, 0xFFFFFFFF, .holdAck),
        (0xC4, 0xFFFFFF000000FFFF, .remount)],
      ∃ act, exec i.2.2 s = .next (s.withDev (s.dev.onMgmt i.1 i.2.1 act)) := by
  intro i hi
  simp only [List.mem_cons, List.not_mem_nil, or_false] at hi
  obtain rfl | rfl | rfl | rfl | rfl := hi
  · exact ⟨_, exec_handover s⟩
  · exact ⟨_, exec_ewNotice s⟩
  · exact ⟨_, exec_hold s⟩
  · exact ⟨_, exec_holdAck s⟩
  · exact ⟨_, exec_remount s⟩

/-- Settles O42: a packet is taken up by `Dev.onMgmt_of_ready`, and dropped by `Dev.onMgmt_of_reserved` whatever its kind. -/
theorem managementPackets : Obligations.ManagementPackets := by
  refine fun s p rest => ⟨fun ready => ?_, fun ready => ?_, fun ready => ?_, fun ready => ?_, fun ready => ?_,
    fun i hi taken reserved => ?_⟩
  · rw [exec_handover, Dev.onMgmt_of_ready ready]
  · rw [exec_ewNotice, Dev.onMgmt_of_ready ready]
  · rw [exec_hold, Dev.onMgmt_of_ready ready]
  · rw [exec_holdAck, Dev.onMgmt_of_ready ready]
  · rw [exec_remount, Dev.onMgmt_of_ready ready, ofNat_fld_toNat p.h1 63 40]
  · obtain ⟨act, hexec⟩ := exec_takesMgmt s i hi
    rw [hexec, Dev.onMgmt_of_reserved taken reserved]
    rfl

/-! ## PTP messages -/

section
variable {s : Dev} {f : Frame} (act : TimeBlk → TimeBlk)

theorem Dev.onPtp_of_on (accepts : s.time.accepts f = true) (on : s.time.ptpEn = true) :
    s.onPtp f act = (s.setTime (act s.time)).reselect := by
  simp only [Dev.onPtp, accepts, on]
  rfl

theorem Dev.onPtp_of_off (accepts : s.time.accepts f = true) (off : s.time.ptpEn = false) : s.onPtp f act = s := by
  simp only [Dev.onPtp, accepts, off]
  rfl

theorem Dev.onPtp_of_foreign (foreign : s.time.accepts f = false) : s.onPtp f act = s.setTime s.time.dropFrame := by
  simp only [Dev.onPtp, foreign]
  rfl

end

theorem exec_bridleFrameDrop (s : State) :
    exec .bridleFrameDrop s = .next (s.withDev (s.dev.setTime s.dev.time.dropFrame)) := rfl

/-- The six PTP messages are accepted or dropped alike, and differ in what they do to the time block. -/
theorem exec_ptpMessage (f : Frame) (s : State) (a : Announce) (p : PortId) (q : U16) (b : Bool) (x y : Stamp) (k m : Int) :
    let t := s.dev.time
    ∀ i ∈ [(Instr.announceMessage f a, t.announce a), (.syncMessage f p q b x k, t.sync p q b x k f.logInterval),
        (.followUpMessage f p q x k, t.followUp p q x k), (.delayRespMessage f p q x k m, t.delayResp p q x k m),
        (.pdelayReqMessage f p q, t.answerPdelay p q), (.pdelayRespMessage f p q x y, t.pdelayResp q x y)],
      ∃ act : TimeBlk → TimeBlk, act t = i.2 ∧ exec i.1 s = .next (s.withDev (s.dev.onPtp f act)) := by
  intro t i hi
  simp only [List.mem_cons, List.not_mem_nil, or_false] at hi
  obtain rfl | rfl | rfl | rfl | rfl | rfl := hi
  · exact ⟨fun t => t.announce a, rfl, rfl⟩
  · exact ⟨fun t => t.sync p q b x k f.logInterval, rfl, rfl⟩
  · exact ⟨fun t => t.followUp p q x k, rfl, rfl⟩
  · exact ⟨fun t => t.delayResp p q x k m, rfl, rfl⟩
  · exact ⟨fun t => t.answerPdelay p q, rfl, rfl⟩
  · exact ⟨fun t => t.pdelayResp q x y, rfl, rfl⟩

/-- Settles O47: each of the six messages is a frame for the port (`exec_ptpMessage`), which acts on it, ignores it while PTP is
off, or drops it. -/
theorem bridleMessages : Obligations.BridleMessages := by
  intro f s a p q b x y k m t i hi
  obtain ⟨act, does, hexec⟩ := exec_ptpMessage f s a p q b x y k m i hi
  rw [hexec, ← does]
  refine ⟨fun accepts on => ?_, fun accepts off => ?_, fun foreign => ?_, exec_bridleFrameDrop s⟩
  · rw [Dev.onPtp_of_on act accepts on]
  · rw [Dev.onPtp_of_off act accepts off]
  · rw [Dev.onPtp_of_foreign act foreign]
    rfl

end Sys2Proof.Machine
end

section
/-! Operations of GRX_BKT_CTL (R266, R271, R295, R409): ENABLE behind its checks, DISABLE and RESCALE_RESET of a bucket that
rests; O33. -/
namespace Sys2Proof.Machine
open Sys2Proof

theorem exec_enable (c : CtxId) (b : Fin 1024) (keep : Bool) (s : State) : exec (.enable c b keep) s =
    s.onBar (fun d => (d.selectBucket c.val b.val keep).enable c.val b.val keep) := rfl
theorem exec_disable (c : CtxId) (b : Fin 1024) (s : State) : exec (.disable c b) s =
    s.onBar (fun d => (d.selectBucket c.val b.val d.sel.grxEfKeep).bucketOp c.val b.val (fun _ => {})) := rfl
theorem exec_rescaleReset (c : CtxId) (b : Fin 1024) (s : State) : exec (.rescaleReset c b) s =
    s.onBar (fun d => (d.selectBucket c.val b.val d.sel.grxEfKeep).bucketOp c.val b.val
      (fun k => { k with scales := [], scalesQ := [] })) := rfl

/-! ## The selector fields (R409) -/

section
variable (s : Dev) (c b : Nat) (keep : Bool)

@[simp] theorem Dev.grxPend_selectBucket : (s.selectBucket c b keep).grxPend = s.grxPend := rfl
@[simp] theorem Dev.bucket_selectBucket (a i : Nat) : (s.selectBucket c b keep).bucket a i = s.bucket a i := rfl
@[simp] theorem Dev.restful_selectBucket (a : Nat) (k : Bucket) :
    (s.selectBucket c b keep).restful a k = s.restful a k := rfl

/-- The selector fields hold back no access to the pool. -/
theorem Dev.rangesFree_selectBucket {touch reads : List (Nat × Nat)} (free : s.rangesFree touch reads) :
    (s.selectBucket c b keep).rangesFree touch reads := free

end

/-! ## ENABLE (R266, R271) -/

/-- The pool ranges that an ENABLE reads: the bucket's entry and its two descriptors. -/
def Dev.enableRanges (s : Dev) (c b : Nat) : List (Nat × Nat) :=
  [((s.ctx c).pool ((s.ctx c).btabBase.toNat * 4096 + 64 * b), 64)] ++ (s.bucketWords c b).elim []
    (fun w => (s.ctx c).descRange (fld (listGet w 1) 63 52) ++ (s.ctx c).descRange (fld (listGet w 1) 51 40))

/-- What an ENABLE does with the outcome of its checks. -/
def Dev.enableDo (s : Dev) (c b : Nat) (keep : Bool) : Status × Option BktDesc → Dev
  | (.done, some d) => (s.enableBucket c b d keep).grxStatusSet .done
  | (st, _) => s.grxStatusSet st

theorem Dev.enableDo_of_refused (s : Dev) (c b : Nat) (keep : Bool) (r : Status × Option BktDesc) (refused : r.1 ≠ .done) :
    s.enableDo c b keep r = s.grxStatusSet r.1 := by
  unfold Dev.enableDo
  split
  · contradiction
  · rfl

/-- An ENABLE whose entry and descriptors nothing holds back acts on the outcome of its checks. -/
theorem Dev.enable_of_free {s : Dev} {c b : Nat} (keep : Bool) (idle : s.grxPend = false)
    (free : s.rangesFree (s.enableRanges c b) (s.enableRanges c b)) :
    s.enable c b keep = s.enableDo c b keep (s.enableCheck c b) := by
  have performed := s.withRanges_of_free _ _ (fun s => s.enableDo c b keep (s.enableCheck c b)) free
  rw [← performed, Dev.enable, idle, if_neg Bool.false_ne_true]
  unfold Dev.enableRanges
  cases s.bucketWords c b <;> rfl

/-! ## DISABLE and RESCALE_RESET (R295) -/

section
variable {s : Dev} {c b : Nat} (act : Bucket → Bucket) (idle : s.grxPend = false)
include idle

theorem Dev.bucketOp_of_busy (busy : s.restful c (s.bucket c b) = false) : s.bucketOp c b act = s.grxStatusSet .notIdle := by
  simp [Dev.bucketOp, idle, busy]

theorem Dev.bucketOp_of_rest (rest : s.restful c (s.bucket c b) = true) (live : (act (s.bucket c b)).live = true) :
    s.bucketOp c b act = (s.setBucket c b (act (s.bucket c b))).grxStatusSet .done := by
  simp [Dev.bucketOp, idle, rest, live]

/-- A bucket that an operation disables takes its engine's operations with it. -/
theorem Dev.bucketOp_of_disabled (rest : s.restful c (s.bucket c b) = true) (off : (act (s.bucket c b)).live = false) :
    s.bucketOp c b act =
      (((s.setBucket c b (act (s.bucket c b))).engineOff c (fun i => i == b)).ewCheck c).grxStatusSet .done := by
  simp [Dev.bucketOp, idle, rest, off]

end

theorem Dev.live_of_restful {s : Dev} {c : Nat} {k : Bucket} (rest : s.restful c k = true) : k.live = true := by
  obtain ⟨waits, -⟩ := Bool.and_eq_true_iff.mp rest
  simp [Bucket.live, eq_of_beq waits]

/-- Settles O33: an ENABLE acts on its checks (`Dev.enable_of_free`), and the other two on whether the bucket rests. -/
theorem bucketOperations : Obligations.BucketOperations := by
  constructor
  · intro c b keep s hbar idle x e tab free
    have acts := Dev.enable_of_free (s := e) keep idle (Dev.rangesFree_selectBucket s.dev c.val b.val keep free)
    rw [exec_enable, State.onBar_of_open s _ hbar, acts]
    refine ⟨fun d passed => ?_, fun st failed refused => ?_⟩
    · rw [passed]
      rfl
    · subst failed
      rw [Dev.enableDo_of_refused e c.val b.val keep _ refused]
  · intro c b s hbar idle e
    rw [exec_disable, exec_rescaleReset, State.onBar_of_open s _ hbar, State.onBar_of_open s _ hbar]
    refine ⟨fun rest => ⟨?_, ?_⟩, fun busy => ⟨?_, ?_⟩⟩
    · rw [Dev.bucketOp_of_disabled (s := e) _ idle rest rfl]
    · rw [Dev.bucketOp_of_rest (s := e) _ idle rest (Dev.live_of_restful rest :)]
      rfl
    · rw [Dev.bucketOp_of_busy (s := e) _ idle busy]
    · rw [Dev.bucketOp_of_busy (s := e) _ idle busy]

end Sys2Proof.Machine
end

section
/-! The part of a contributor in the gradient exchange (R267, R274, R283, R285, R288, R292), of an owner (R278 to R280) and
of the ring (R281, R282): commands of a bucket that its engine may work on; O34 and O35. -/
namespace Sys2Proof.Machine
open Sys2Proof

/-- Work on a bucket that its engine may work on is performed, and its packets go out. -/
theorem Dev.withBucket_of_ready {s : Dev} {c b : Nat} {d : BktDesc} (ready : s.bucketReady c b d)
    (act : Dev → Bucket → BktDesc → Dev) : s.withBucket c b act = (act s (s.bucket c b) d).pump := by
  obtain ⟨desc, live, resident, free⟩ := ready
  simp [Dev.withBucket, desc, live, resident, s.withRanges_of_free _ _ _ free]

/-! ## The contributor (R267, R277, R292) -/

theorem exec_bucketStart (c : CtxId) (b : Fin 1024) (s : State) :
    exec (.bucketStart c b) s = .next (s.withDev (s.dev.bucketStart c.val b.val)) := rfl

/-- The five owner records are looked for alike, and differ in what is done with one. -/
theorem exec_onRec (c : CtxId) (b : Fin 1024) (s : State) :
    ∀ i ∈ [(rNotice, Instr.notice c b, Dev.takeNotice c.val b.val), (rResend, .resend c b, Dev.takeResend c.val b.val),
        (rPrepass, .prepass c b, Dev.takePrepass c.val b.val), (rScale, .scale c b, Dev.takeScale c.val b.val),
        (rPhat, .phat c b, Dev.takePhat c.val b.val)],
      exec i.2.1 s = .next (s.withDev (s.dev.onRec c.val b.val i.1 i.2.2)) := by
  intro i hi
  simp only [List.mem_cons, List.not_mem_nil, or_false] at hi
  obtain rfl | rfl | rfl | rfl | rfl := hi <;> rfl

section
variable {s : Dev} {c b type : Nat} {d : BktDesc} (act : Dev → BktDesc → CChunk → ORec → Dev) (ready : s.bucketReady c b d)
include ready

/-- A step that may start takes its credits and begins (R267). -/
theorem Dev.bucketStart_of_met {e : HEntry} (may : s.mayStart c (s.bucket c b) = true)
    (free : s.linesFree (s.descLines c d.g) (s.descLines c d.g)) (met : s.creditsAt c b d.starth.toNat e) :
    s.bucketStart c b = ((s.paid e).beginStep c b d).pump := by
  simp [Dev.bucketStart, Dev.withBucket_of_ready ready, may, s.withPool_of_free _ _ _ free, s.takeCredits_of_met c b _ e met]

/-- A record of a type with a foreign TAG fails the bucket, once its credit is there (R292). -/
theorem Dev.onRec_of_foreign {e : HEntry} (foreign : s.foreignRec c d (s.bucket c b) type = true)
    (met : s.creditsAt c b (d.xhitch.toNat + 1) e) :
    s.onRec c b type act = ((s.paid e).failBucket c b .invalidWord).pump := by
  simp only [Dev.onRec, Dev.withBucket_of_ready ready, foreign, if_true, s.takeCredits_of_met c b _ e met]

/-- A record that has not been handled is marked and acted on, once its credit is there (R277). -/
theorem Dev.onRec_of_found {e : HEntry} {r : ORec} (own : s.foreignRec c d (s.bucket c b) type = false)
    (found : s.findRec c d (s.bucket c b) type = some r) (met : s.creditsAt c b (d.xhitch.toNat + 1) e) :
    s.onRec c b type act = (act ((s.paid e).modCChunk c b r.ch (fun x => { x with
      seen := r.key ((s.bucket c b).cchunk r.ch) :: x.seen })) d ((s.bucket c b).cchunk r.ch) r).pump := by
  simp only [Dev.onRec, Dev.withBucket_of_ready ready, own, found, s.takeCredits_of_met c b _ e met]
  rfl

theorem Dev.onRec_of_none (own : s.foreignRec c d (s.bucket c b) type = false)
    (none : s.findRec c d (s.bucket c b) type = none) : s.onRec c b type act = s.pump := by
  simp [Dev.onRec, Dev.withBucket_of_ready ready, own, none]

end

/-- Settles O34: the start is `Dev.bucketStart_of_met`; an owner record of any type is found, foreign or absent, and the
three lemmas on `Dev.onRec` say what each case does. -/
theorem contributorCommands : Obligations.ContributorCommands := by
  intro c b s d ready k
  constructor
  · intro e may free met
    rw [exec_bucketStart, Dev.bucketStart_of_met ready may free met]
  · intro i hi
    rw [exec_onRec c b s i hi]
    refine ⟨fun e r met own found => ?_, fun e met foreign => ?_, fun own none => ?_⟩
    · rw [Dev.onRec_of_found i.2.2 ready own found met]
    · rw [Dev.onRec_of_foreign i.2.2 ready foreign met]
    · rw [Dev.onRec_of_none i.2.2 ready own none]

/-! ## The owner and the ring (R278 to R282) -/

theorem exec_ownerArrival (c : CtxId) (b : Fin 1024) (s : State) :
    exec (.ownerArrival c b) s = .next (s.withDev (s.dev.ownerArrival c.val b.val)) := rfl
theorem exec_shareDeadline (c : CtxId) (b : Fin 1024) (s : State) :
    exec (.shareDeadline c b) s = .next (s.withDev (s.dev.shareDeadline c.val b.val)) := rfl
theorem exec_admissionRetry (c : CtxId) (b : Fin 1024) (x : BitVec 24) (s : State) :
    exec (.admissionRetry c b x) s = .next (s.withDev (s.dev.admissionRetry c.val b.val x)) := rfl
theorem exec_ringSlotArrival (c : CtxId) (b : Fin 1024) (s : State) :
    exec (.ringSlotArrival c b) s = .next (s.withDev (s.dev.slotArrival c.val b.val)) := rfl
theorem exec_ringDeadline (c : CtxId) (b : Fin 1024) (s : State) : exec (.ringDeadline c b) s =
    .next (s.withDev (s.dev.withBucket c.val b.val (fun s _ d => s.rerun c.val b.val d))) := rfl
theorem exec_slotCredit (c : CtxId) (b : Fin 1024) (s : State) : exec (.slotCredit c b) s =
    .next (s.withDev (s.dev.withBucket c.val b.val (fun s _ d => s.drainAll c.val b.val d))) := rfl

section
variable {s : Dev} {c b : Nat} {d : BktDesc} (ready : s.bucketReady c b d)
include ready

theorem Dev.ownerArrival_of_met {e : HEntry} (direct : d.ring = false) (met : s.creditsAt c b d.xhitch.toNat e) :
    s.ownerArrival c b = ((s.paid e).serveShare c b d).pump := by
  simp [Dev.ownerArrival, Dev.withBucket_of_ready ready, direct, s.takeCredits_of_met c b _ e met]

theorem Dev.shareDeadline_of_overdue {t : U64} (admitted : (s.bucket c b).t0 = some t)
    (unclosed : (s.bucket c b).shareClosed = none) (overdue : s.overdue c d t = true) :
    s.shareDeadline c b = ((s.shutShare c b d).serveShare c b d).pump := by
  simp [Dev.shareDeadline, Dev.withBucket_of_ready ready, admitted, unclosed, overdue]

/-- A share that is not admitted and does not wait for an answer asks again, or is closed by its deadline (R278). -/
theorem Dev.admissionRetry_of_refused {x : BitVec 24} {e : Share} (share : (s.bucket c b).share? x = some e)
    (unclosed : e.isOver = false) (answered : e.asking = false) (refused : e.ticket = none) :
    s.admissionRetry c b x =
      (if s.overdue c d e.firstAt then s.closeShare c b d x .stepMismatch else s.askAdmission c b d x).pump := by
  simp [Dev.admissionRetry, Dev.withBucket_of_ready ready, share, unclosed, answered, refused]

/-- A slot of the ring that has arrived is taken with its credit and handled (R281, R282). -/
theorem Dev.slotArrival_of_taken {e : HEntry} {z : Slot'} (ring : d.ring = true)
    (met : s.creditsAt c b (d.xhitch.toNat + 2) e) (taken : ((s.paid e).takeSlot c b d).1 = some z) :
    s.slotArrival c b = (Dev.handleSlot c b d ((s.paid e).takeSlot c b d).2 z).pump := by
  have both : (s.paid e).takeSlot c b d = (some z, ((s.paid e).takeSlot c b d).2) := Prod.ext taken rfl
  rw [Dev.slotArrival, Dev.withBucket_of_ready ready, ring, s.takeCredits_of_met c b _ e met]
  simp only [Bool.not_true, Bool.false_eq_true, if_false]
  rw [both]

end

/-- Settles O35: each command works on a ready bucket (`Dev.withBucket_of_ready`), and the lemma on it says what it does. -/
theorem ownerAndRingCommands : Obligations.OwnerAndRingCommands := by
  intro c b s d ready k
  refine ⟨fun e direct met => ?_, fun t admitted unclosed overdue => ?_, fun x e share unclosed answered refused => ?_,
    fun e z ring met taken => ?_, ?_, ?_⟩
  · rw [exec_ownerArrival, Dev.ownerArrival_of_met ready direct met]
  · rw [exec_shareDeadline, Dev.shareDeadline_of_overdue ready admitted unclosed overdue]
  · rw [exec_admissionRetry, Dev.admissionRetry_of_refused ready share unclosed answered refused]
    refine ⟨fun early => ?_, fun overdue => ?_⟩
    · rw [early, if_neg Bool.false_ne_true]
    · rw [overdue, if_pos rfl]
  · rw [exec_ringSlotArrival, Dev.slotArrival_of_taken ready ring met taken]
  · rw [exec_ringDeadline, Dev.withBucket_of_ready ready]
  · rw [exec_slotCredit, Dev.withBucket_of_ready ready]

end Sys2Proof.Machine
end

section
/-! The numbers of the gradient exchange: quantised integers and their sums (R270), the scales of resends, pre-passes and
closes (R284 to R286); O36. -/
namespace Sys2Proof.Machine
open Sys2Proof

/-! ## Quantised integers (R270) -/

/-- A quantised vector of `n` integers, each within the limit of `l`. -/
structure Quant.Within (l n : Nat) (z : Quant) : Prop where
  length : z.q.length = n
  bound : ∀ v ∈ z.q, v.natAbs ≤ 2 ^ (31 - l) - 1

/-- Each value adds one integer: 0 for a value that is not finite, a magnitude cut off at the limit for another. -/
theorem Quant.q_add (l : Nat) (f : Int) (z : Quant) (e : F32 × Rnd) :
    ∃ v : Int, (z.add l f e).q = z.q ++ [v] ∧ v.natAbs ≤ 2 ^ (31 - l) - 1 := by
  unfold Quant.add
  split
  · exact ⟨0, rfl, Nat.zero_le _⟩
  · refine ⟨_, rfl, ?_⟩
    split
    · rw [Int.natAbs_neg]
      exact Nat.min_le_right _ _
    · exact Nat.min_le_right _ _

theorem Quant.Within.add {l n : Nat} {z : Quant} (within : z.Within l n) (f : Int) (e : F32 × Rnd) :
    (z.add l f e).Within l (n + 1) := by
  obtain ⟨v, appended, small⟩ := z.q_add l f e
  refine ⟨by simp [appended, within.length], fun w hw => ?_⟩
  rw [appended] at hw
  rcases List.mem_append.mp hw with old | new
  · exact within.bound w old
  · rwa [List.mem_singleton.mp new]

theorem Quant.Within.foldl {l n : Nat} {z : Quant} (within : z.Within l n) (f : Int) (xs : List (F32 × Rnd)) :
    (xs.foldl (Quant.add l f) z).Within l (n + xs.length) := by
  induction xs generalizing z n with
  | nil => exact within
  | cons x xs ih =>
    have rest := ih (within.add f x)
    rwa [Nat.add_assoc, Nat.add_comm 1] at rest

theorem within_quantise (l : Nat) (f : Int) (xs : List (F32 × Rnd)) : (quantise l f xs).Within l xs.length := by
  have empty : Quant.Within l 0 {} := ⟨rfl, fun _ h => absurd h List.not_mem_nil⟩
  simpa [quantise] using empty.foldl f xs

/-- Every element of a quantised vector is within the limit, and so is the 0 that stands for one it does not have. -/
theorem Quant.Within.natAbs_getD_le {l n : Nat} {z : Quant} (within : z.Within l n) (i : Nat) :
    (z.q.getD i 0).natAbs ≤ 2 ^ (31 - l) - 1 := by
  rw [List.getD_eq_getElem?_getD]
  cases element : z.q[i]? with
  | none => exact Nat.zero_le _
  | some v => exact within.bound v (List.mem_of_getElem? element)

/-! ## Sums of contributions (R270) -/

theorem natAbs_sum_le_of_forall {m : Nat} (vs : List Int) (bound : ∀ v ∈ vs, v.natAbs ≤ m) :
    vs.sum.natAbs ≤ vs.length * m := by
  induction vs with
  | nil => simp
  | cons v vs ih =>
    obtain ⟨first, rest⟩ := List.forall_mem_cons.mp bound
    calc (v :: vs).sum.natAbs ≤ v.natAbs + vs.sum.natAbs := by rw [List.sum_cons]; exact Int.natAbs_add_le _ _
      _ ≤ m + vs.length * m := Nat.add_le_add first (ih rest)
      _ = (v :: vs).length * m := by rw [List.length_cons, Nat.succ_mul, Nat.add_comm]

/-- As many values as `l` allows, each within its limit, add up within 32 bits. -/
theorem two_pow_mul_limit_lt {l : Nat} (small : l ≤ 30) : 2 ^ l * (2 ^ (31 - l) - 1) < 2 ^ 31 := by
  have whole : 2 ^ l * 2 ^ (31 - l) = 2 ^ 31 := by rw [← Nat.pow_add]; congr 1; omega
  have positive : 0 < 2 ^ l := Nat.two_pow_pos l
  rw [Nat.mul_sub_one, whole]
  omega

theorem natAbs_sum_quantise_lt {l : Nat} (f : Int) {zs : List (List (F32 × Rnd))} (small : l ≤ 30)
    (parties : zs.length ≤ 2 ^ l) (i : Nat) : ((zs.map (fun z => (quantise l f z).q.getD i 0)).sum).natAbs < 2 ^ 31 := by
  have bound : ∀ v ∈ zs.map (fun z => (quantise l f z).q.getD i 0), v.natAbs ≤ 2 ^ (31 - l) - 1 := by
    intro v hv
    obtain ⟨z, -, rfl⟩ := List.mem_map.mp hv
    exact (within_quantise l f z).natAbs_getD_le i
  calc ((zs.map (fun z => (quantise l f z).q.getD i 0)).sum).natAbs
      ≤ zs.length * (2 ^ (31 - l) - 1) := by simpa using natAbs_sum_le_of_forall _ bound
    _ ≤ 2 ^ l * (2 ^ (31 - l) - 1) := Nat.mul_le_mul_right _ parties
    _ < 2 ^ 31 := two_pow_mul_limit_lt small

/-! ## Scales (R284 to R286) -/

theorem fnext_mem_range (l head maxb : Nat) (f : Int) : -160 ≤ fnext l head f maxb ∧ fnext l head f maxb ≤ 127 := by
  unfold fnext
  omega

theorem prepassScale_mem_range (l head : Nat) (e : Option Int) : -160 ≤ prepassScale l head e ∧ prepassScale l head e ≤ 127 := by
  cases e with
  | none => simp [prepassScale]
  | some e =>
    simp only [prepassScale]
    omega

/-- The scale a resend would take: raised by the bits of overflow, and by at least 8 when it is repeated. -/
def raisedScale (a o : Nat) (f : Int) : Int := f + (if a = 0 then o else max o 8 : Nat)

theorem resendScale_eq (a o : Nat) (f : Int) :
    resendScale a f o = if 2 ≤ a ∨ 127 < raisedScale a o f then none else some (raisedScale a o f) := by
  have gives_up : (decide (2 ≤ a) || decide (127 < raisedScale a o f)) = true ↔ 2 ≤ a ∨ 127 < raisedScale a o f := by
    rw [Bool.or_eq_true, decide_eq_true_iff, decide_eq_true_iff]
  exact ite_congr (propext gives_up) (fun _ => rfl) (fun _ => rfl)

theorem resendScale_eq_some {a o : Nat} {f g : Int} (resent : resendScale a f o = some g) :
    a ≤ 1 ∧ g ≤ 127 ∧ g = raisedScale a o f := by
  rw [resendScale_eq] at resent
  split at resent
  · contradiction
  · next within =>
    have raised := Option.some.inj resent
    omega

theorem resendScale_eq_none {a o : Nat} {f : Int} (exhausted : resendScale a f o = none) :
    2 ≤ a ∨ 127 < raisedScale a o f := by
  rw [resendScale_eq] at exhausted
  split at exhausted
  · assumption
  · contradiction

/-- Settles O36: a quantised vector keeps `Quant.Within` as it grows, and each scale is clamped or given up. -/
theorem exchangeNumbersStayInRange : Obligations.ExchangeNumbersStayInRange := by
  refine ⟨fun l f zs small parties => ⟨fun z _ => ?_, natAbs_sum_quantise_lt f small parties⟩,
    fun l head maxb f => fnext_mem_range l head maxb f, prepassScale_mem_range, fun a o f g resent => ?_,
    fun a o f exhausted => ?_⟩
  · obtain ⟨length, bound⟩ := within_quantise l f z
    exact ⟨length, bound⟩
  · obtain ⟨tries, below, raised⟩ := resendScale_eq_some resent
    rw [raisedScale] at raised
    refine ⟨?_, below, tries, fun repeated => ?_⟩ <;> split at raised <;> omega
  · have why := resendScale_eq_none exhausted
    rw [raisedScale] at why
    split at why <;> omega

end Sys2Proof.Machine
end

section
/-! Registers of the update engine (R299, R309, R316): a write that its checks accept or refuse, and FREEZE and THAW of an
entry while nothing is under way; O37. -/
namespace Sys2Proof.Machine
open Sys2Proof

theorem exec_updListWrite (c : CtxId) (w : Fin 2) (v : U64) (s : State) :
    exec (.updListWrite c w v) s = s.onBar (fun d => d.updListWrite c.val w.val v) := rfl
theorem exec_updCfgWrite (r : UpdCfg) (c : CtxId) (w : Fin 2) (v : U64) (s : State) :
    exec (.updCfgWrite r c w v) s = s.onBar (fun d => d.updCfgWrite r c.val w.val v) := rfl
theorem exec_freeze (c : CtxId) (j : Fin 65536) (s : State) :
    exec (.freeze c j) s = s.onBar (fun d => (d.selectEntry c.val j.val).setFrozen c.val j.val true) := rfl
theorem exec_thaw (c : CtxId) (j : Fin 65536) (s : State) :
    exec (.thaw c j) s = s.onBar (fun d => (d.selectEntry c.val j.val).setFrozen c.val j.val false) := rfl

/-- Work that touches no pool range is held back by nothing. -/
theorem Dev.rangesFree_nil (s : Dev) : s.rangesFree [] [] := by
  simp [Dev.rangesFree, inRanges]

/-! ## UPD_LIST (R299) -/

/-- The device with word 0 of UPD_LIST as a write would leave it. -/
def Dev.withListWord (s : Dev) (c : Nat) (v : U64) : Dev := s.modUpd c (fun u => u.setWord 0 v)

/-- The pool ranges that a write of EN = 1 reads to judge the list: those of its entries that lie in the pool. -/
def Dev.judgedRanges (s : Dev) (c : Nat) (v : U64) : List (Nat × Nat) :=
  ((s.withListWord c v).listRanges c).filter (fun r => decide (r.1 + r.2 ≤ s.mem.capacity))

/-- The list after an accepted write that does not set EN: word 0 disables it. -/
def Upd.written (u : Upd) (word : Nat) (v : U64) : Upd :=
  if word = 0 then { u.setWord word v with st := .disabled } else u.setWord word v

section
variable {s : Dev} {c word : Nat} {v : U64} (idle : s.updPend = false)
include idle

/-- A write that sets EN enables a list that its checks accept. -/
theorem Dev.updListWrite_of_accepted (en : v.getLsbD 0 = true)
    (free : s.rangesFree (s.judgedRanges c v) (s.judgedRanges c v))
    (accepted : (s.withListWord c v).listStatus c (s.ctx c).upd.live = .done) :
    s.updListWrite c 0 v = (s.modUpd c (fun u => (u.setWord 0 v).enabled)).updStatusSet .done := by
  have sets : (0 == 0 && bit v.toNat 0) = true := by rw [bit_toNat, en]; rfl
  unfold Dev.withListWord at accepted
  simp only [Dev.updListWrite, idle, sets, accepted, if_true, Bool.false_eq_true, if_false]
  exact s.withRanges_of_free _ _ _ free

/-- A write that does not set EN waits for no line, and is refused while the list is enabled. -/
theorem Dev.updListWrite_of_clear (clear : (word == 0 && bit v.toNat 0) = false) :
    s.updListWrite c word v = if (s.ctx c).upd.live then s.updStatusSet .notIdle
      else (s.modUpd c (fun u => u.written word v)).updStatusSet .done := by
  simp only [Dev.updListWrite, idle, clear, Bool.false_eq_true, if_false]
  rw [s.withRanges_of_free _ _ _ s.rangesFree_nil]
  cases (s.ctx c).upd.live <;> rfl

/-! ## UPD_NORM_CFG, UPD_ROOT_CFG and UPD_TABS (R316) -/

theorem Dev.updCfgWrite_of_accepted {r : UpdCfg} (accepted : cfgStatus r word v (s.ctx c).upd.live = .done) :
    s.updCfgWrite r c word v = (s.modUpd c (fun u => u.setCfg r word v)).updStatusSet .done := by
  simp [Dev.updCfgWrite, idle, accepted]

theorem Dev.updCfgWrite_of_refused {r : UpdCfg} (refused : cfgStatus r word v (s.ctx c).upd.live ≠ .done) :
    s.updCfgWrite r c word v = s.updStatusSet (cfgStatus r word v (s.ctx c).upd.live) := by
  simp [Dev.updCfgWrite, idle, refused]

/-! ## FREEZE and THAW (R309) -/

/-- The device with the frozen bit of an entry of the list as named. -/
def Dev.withFrozen (s : Dev) (c j : Nat) (b : Bool) : Dev :=
  s.writeBytes c ⟨.hbm, (s.uent c j).at0⟩ { s.uent c j with frozen := b }.words

/-- An entry of the list is frozen or thawed while the list waits and every enabled bucket rests. -/
theorem Dev.setFrozen_of_rest {j : Nat} (b : Bool) (within : j < (s.ctx c).upd.entries)
    (waits : (s.ctx c).upd.st = .waiting)
    (rest : ∀ k ∈ (s.ctx c).bkts, k.2.live = true → s.restful c k.2 = true)
    (free : s.rangesFree ((s.ctx c).range ⟨.hbm, (s.uent c j).at0⟩ 64) ((s.ctx c).range ⟨.hbm, (s.uent c j).at0⟩ 64)) :
    s.setFrozen c j b = (s.withFrozen c j b).updStatusSet .done := by
  have restful : (s.ctx c).bkts.any (fun k => k.2.live && !s.restful c k.2) = false := by
    simpa using rest
  have allowed : firstRefusal [(decide ((s.ctx c).upd.entries ≤ j), .range),
      ((s.ctx c).upd.st != .waiting || (s.ctx c).bkts.any (fun k => k.2.live && !s.restful c k.2), .notIdle)] = .done := by
    rw [decide_eq_false (Nat.not_le.mpr within), waits, restful]
    rfl
  simp only [Dev.setFrozen, idle, allowed, Bool.false_eq_true, if_false, if_true]
  exact s.withRanges_of_free _ _ _ free

end

/-- Settles O37: a write of UPD_LIST by `Dev.updListWrite_of_accepted` and `Dev.updListWrite_of_clear`, the configuration
registers on their status, and FREEZE and THAW by `Dev.setFrozen_of_rest`. -/
theorem updateRegisters : Obligations.UpdateRegisters := by
  refine ⟨fun c v s hbar idle en free accepted => ?_, fun c v s hbar idle => ?_, fun r c w v s hbar idle => ?_,
    fun c j s hbar idle within waits rest free => ?_⟩
  · rw [exec_updListWrite, s.onBar_of_open _ hbar]
    exact congrArg (fun d => Host.Outcome.next (s.withDev d)) (Dev.updListWrite_of_accepted idle en free accepted)
  · have low (en : v.getLsbD 0 = false) : (0 == 0 && bit v.toNat 0) = false := by rw [bit_toNat, en]; rfl
    rw [exec_updListWrite, exec_updListWrite, s.onBar_of_open _ hbar, s.onBar_of_open _ hbar]
    refine ⟨fun off => ?_, fun live en => ?_, fun off en => ?_⟩
    · rw [Dev.updListWrite_of_clear (word := (1 : Fin 2).val) idle rfl, off]
      rfl
    · rw [Dev.updListWrite_of_clear (word := (0 : Fin 2).val) idle (low en), live]
      rfl
    · rw [Dev.updListWrite_of_clear (word := (0 : Fin 2).val) idle (low en), off]
      rfl
  · rw [exec_updCfgWrite, s.onBar_of_open _ hbar]
    refine ⟨fun accepted => ?_, fun refused => ?_⟩
    · rw [Dev.updCfgWrite_of_accepted idle accepted]
    · rw [Dev.updCfgWrite_of_refused idle refused]
  · have sets (b : Bool) := Dev.setFrozen_of_rest (s := s.dev.selectEntry c.val j.val) idle b within waits rest free
    rw [exec_freeze, exec_thaw, s.onBar_of_open _ hbar, s.onBar_of_open _ hbar]
    exact ⟨by rw [sets true]; rfl, by rw [sets false]; rfl⟩

end Sys2Proof.Machine
end

section
/-! The steps of the update (R300 to R313) of a list whose engines may work: the start of a step, the κ record, distribution
and telemetry, root jobs, and the entries that pass 2 passes over (R308, R310); O38. -/
namespace Sys2Proof.Machine
open Sys2Proof

theorem exec_updateStepStart (c : CtxId) (s : State) :
    exec (.updateStepStart c) s = .next (s.withDev (s.dev.updateStart c.val)) := rfl
theorem exec_kappaRecord (c : CtxId) (d : DieId) (s : State) :
    exec (.kappaRecord c d) s = .next (s.withDev (s.dev.kappa c.val d.val)) := rfl
theorem exec_distributionPut (c : CtxId) (d : DieId) (s : State) :
    exec (.distributionPut c d) s = .next (s.withDev (s.dev.distribute c.val d.val)) := rfl
theorem exec_telemetryRecordWrite (c : CtxId) (d : DieId) (s : State) :
    exec (.telemetryRecordWrite c d) s = .next (s.withDev (s.dev.telemetry c.val d.val)) := rfl
theorem exec_rootJob (c : CtxId) (s : State) : exec (.rootJob c) s = .next (s.withDev (s.dev.rootJob c.val)) := rfl
theorem exec_rootJobEnd (c : CtxId) (k : Fin 8) (s : State) :
    exec (.rootJobEnd c k) s = .next (s.withDev (s.dev.rootJobEnd c.val k.val)) := rfl

/-! ## Work on a list -/

theorem Dev.withList_of_live {s : Dev} {c : Nat} (live : (s.ctx c).upd.live = true) (resident : (s.ctx c).resid = .resident)
    (unheld : (s.ctx c).faultHold = false) (act : Dev → Upd → Dev) : s.withList c act = act s (s.ctx c).upd := by
  simp [Dev.withList, live, resident, unheld]

/-- Work on a list that its engines may work on is performed, and its packets go out. -/
theorem Dev.onList_of_ready {s : Dev} {c : Nat} (ready : s.listReady c) (act : Dev → Upd → Dev) :
    s.onList c act = (act s (s.ctx c).upd).pump := by
  obtain ⟨live, resident, unheld, free⟩ := ready
  rw [Dev.onList, Dev.withList_of_live live resident unheld, s.withRanges_of_free _ _ _ free]

/-- Root jobs of an enabled list are worked on also while a save waits for them (R313). -/
theorem Dev.withRoots_of_live {s : Dev} {c : Nat} (live : (s.ctx c).upd.live = true) (unheld : (s.ctx c).faultHold = false)
    (resid : (s.ctx c).resid = .resident ∨ (s.ctx c).resid = .saving) (act : Dev → Upd → Dev) :
    s.withRoots c act = act s (s.ctx c).upd := by
  rcases resid with resid | resid <;> simp [Dev.withRoots, live, resid, unheld]

/-! ## The steps of a list (R300, R304, R311 to R313) -/

/-- The list of a context whose step begins, its hyperparameters copied (R300). -/
def Dev.stepBegun (s : Dev) (c : Nat) : Dev :=
  s.modUpd c (fun u => { u with started := 0, hyper := s.readHypers c, st := .waitKappa, puts := 0 })

/-- The start credit of a step is taken where one is missing. -/
theorem Dev.takeStarts_one_of_met {s : Dev} {c vid : Nat} {z : HEntry} (met : s.creditsAt c 1024 vid z) :
    s.takeStarts c vid 1 = (1, s.paid z) := by
  simp [Dev.takeStarts, s.takeCredits_of_met c 1024 vid z met]

section
variable {s : Dev} {c d : Nat} (ready : s.listReady c)
include ready

/-- The last start credit begins pass 1 on both dies. -/
theorem Dev.updateStart_of_last {z : HEntry} (may : s.mayUpdate c (s.ctx c).upd = true)
    (last : (s.ctx c).upd.starts = (s.ctx c).upd.started + 1) (met : s.creditsAt c 1024 (s.ctx c).upd.starth z) :
    s.updateStart c = ((((s.paid z).stepBegun c).pass1 c 0).pass1 c 1).pump := by
  have missing : (s.ctx c).upd.starts - (s.ctx c).upd.started = 1 := by omega
  have enough : ¬(s.ctx c).upd.started + 1 < (s.ctx c).upd.starts := by omega
  rw [Dev.updateStart, Dev.onList_of_ready ready]
  simp only [may, missing, Dev.takeStarts_one_of_met met, if_neg enough]
  rfl

/-- The first engine to take up the κ record takes its credit. -/
theorem Dev.kappa_of_first {z : HEntry} {bs : List Byte} (waits : ((s.ctx c).upd.die d).phase = .waitKappa)
    (first : (s.ctx c).upd.st ≠ .pass2) (record : s.kappaRead c (s.ctx c).upd = some bs)
    (met : s.creditsAt c 1024 (s.ctx c).upd.khitch z) : s.kappa c d = ((s.paid z).startPass2 c d bs).pump := by
  rw [Dev.kappa, Dev.onList_of_ready ready]
  simp [waits, Dev.takeKappa, record, first, s.takeCredits_of_met c 1024 _ z met]

/-- The other engine takes up the κ record without one. -/
theorem Dev.kappa_of_second {bs : List Byte} (waits : ((s.ctx c).upd.die d).phase = .waitKappa)
    (second : (s.ctx c).upd.st = .pass2) (record : s.kappaRead c (s.ctx c).upd = some bs) :
    s.kappa c d = (s.startPass2 c d bs).pump := by
  rw [Dev.kappa, Dev.onList_of_ready ready]
  simp [waits, Dev.takeKappa, record, second]

theorem Dev.kappa_of_stopped {j : Nat} (stopped : ((s.ctx c).upd.die d).phase = .stopped j) :
    s.kappa c d = (s.pass2From c d j).pump := by
  rw [Dev.kappa, Dev.onList_of_ready ready, stopped]

section
variable {j k : Nat} {step : U32} {rest : List (Nat × Nat × U32)}
  (queued : ((s.ctx c).upd.die d).dist = (j, k, step) :: rest)
include queued

theorem Dev.distribute_of_unpaced (unpaced : (s.distEnt c k).fwe = false) :
    s.distribute c d = (s.putBlock c d j k step).pump := by
  rw [Dev.distribute, Dev.onList_of_ready ready, queued]
  simp [unpaced]

/-- A put with a flow-control wait takes its credits first. -/
theorem Dev.distribute_of_met {z : HEntry} (paced : (s.distEnt c k).fwe = true)
    (met : s.creditsAt c (1024 + d) (s.distEnt c k).freeh z) :
    s.distribute c d = ((s.paid z).putBlock c d j k step).pump := by
  rw [Dev.distribute, Dev.onList_of_ready ready, queued]
  simp [paced, s.takeCredits_of_met c (1024 + d) _ z met]

end

theorem Dev.telemetry_of_ready : s.telemetry c d = (Dev.telAll c d 4098 s).tryUdone c := by
  obtain ⟨live, resident, unheld, -⟩ := ready
  rw [Dev.telemetry, Dev.withList_of_live live resident unheld]

end

/-! ## Root jobs (R305, R306, R313) -/

section
variable {s : Dev} {c : Nat} (live : (s.ctx c).upd.live = true) (unheld : (s.ctx c).faultHold = false)
  (resid : (s.ctx c).resid = .resident ∨ (s.ctx c).resid = .saving)
include live unheld resid

/-- The first queued job starts on the lowest idle root tile. -/
theorem Dev.rootJob_of_idle {k : Nat} {before after : List RootJob} {j : RootJob} (may : s.mayRoot c (s.ctx c).upd = true)
    (tile : (s.ctx c).upd.idleRoot = some k)
    (queue : (s.ctx c).upd.jobs.span (fun j => j.tile.isSome) = (before, j :: after))
    (free : s.rangesFree (s.scratchRanges c) []) :
    s.rootJob c = (s.spoilRoot c k).modUpd c (fun u => { u with jobs := before ++ { j with tile := some k } :: after }) := by
  rw [Dev.rootJob, Dev.withRoots_of_live live unheld resid, may, if_pos rfl, tile]
  simp only [queue]
  exact s.withRanges_of_free _ _ _ free

/-- A job that ends lets pass 2 of its engine go on. -/
theorem Dev.rootJobEnd_of_running {k : Nat} {j : RootJob}
    (running : (s.ctx c).upd.jobs.find? (fun j => j.tile == some k && j.ended.isNone) = some j)
    (free : s.rangesFree (s.listRanges c ++ s.scratchRanges c) (s.listRanges c)) :
    s.rootJobEnd c k = ((s.endJob c j).resumePass2 c (j.entry % 2)).pump := by
  rw [Dev.rootJobEnd, Dev.withRoots_of_live live unheld resid]
  simp only [s.withRanges_of_free _ _ _ free, running]

end

/-! ## Entries that are passed over (R308, R310) -/

theorem Dev.ctx_modUpd_ne (s : Dev) {c k : Nat} (f : Upd → Upd) (other : k ≠ c) : (s.modUpd c f).ctx k = s.ctx k := by
  rw [Dev.modUpd, Dev.ctx_modCtx, if_neg other]

theorem Dev.ctx_modLayer_ne (s : Dev) {c k : Nat} (d layer : Nat) (f : LayerSum → LayerSum) (other : k ≠ c) :
    (s.modLayer c d layer f).ctx k = s.ctx k := Dev.ctx_modUpd_ne s _ other

/-- An entry passed over takes the status alone, and a skipped step when it is frozen. -/
theorem Dev.passOver_entry (s : Dev) (c d : Nat) (e : UEnt) (st : Status) : (s.passOver c d e st).1 =
    { e with status := st.code, skip := if st = .frozen then e.skip + 1 else e.skip } := by
  unfold Dev.passOver
  split <;> rfl

/-- Passing an entry over changes a layer's sums and the list's counters alone. -/
theorem Dev.passOver_frame (s : Dev) (c d : Nat) (e : UEnt) (st : Status) :
    ∃ f g, (s.passOver c d e st).2 = (s.modLayer c d e.layer f).modUpd c g := by
  unfold Dev.passOver
  split <;> dsimp only <;> exact ⟨_, _, rfl⟩

/-- Settles O38: each step of a ready list (`Dev.onList_of_ready`) by the lemma on its command, root jobs by
`Dev.withRoots_of_live`, and an entry passed over by `Dev.passOver_entry` and `Dev.passOver_frame`. -/
theorem updateSteps : Obligations.UpdateSteps := by
  refine ⟨fun c s ready => ⟨fun z may last met => ?_, fun d z bs waits first record met => ?_,
      fun d bs waits second record => ?_, fun d j stopped => ?_, fun d j k st r queued => ⟨fun unpaced => ?_,
      fun z paced met => ?_⟩, fun d => ?_⟩,
    fun c s live unheld resid => ⟨fun k before j after may tile queue free => ?_, fun k j running free => ?_⟩,
    fun s c d e st _ => ?_⟩
  · rw [exec_updateStepStart, Dev.updateStart_of_last ready may last met]
    rfl
  · rw [exec_kappaRecord, Dev.kappa_of_first ready waits first record met]
  · rw [exec_kappaRecord, Dev.kappa_of_second ready waits second record]
  · rw [exec_kappaRecord, Dev.kappa_of_stopped ready stopped]
  · rw [exec_distributionPut, Dev.distribute_of_unpaced ready queued unpaced]
  · rw [exec_distributionPut, Dev.distribute_of_met ready queued paced met]
  · rw [exec_telemetryRecordWrite, Dev.telemetry_of_ready ready]
  · rw [exec_rootJob, Dev.rootJob_of_idle live unheld resid may tile queue free]
  · rw [exec_rootJobEnd, Dev.rootJobEnd_of_running live unheld resid running free]
  · obtain ⟨f, g, changed⟩ := s.passOver_frame c d e st
    dsimp only
    rw [Dev.passOver_entry, changed]
    exact ⟨rfl, rfl, rfl, rfl, rfl, rfl, rfl, rfl,
      fun k other => by rw [Dev.ctx_modUpd_ne _ _ other, Dev.ctx_modLayer_ne _ _ _ _ other]⟩

end Sys2Proof.Machine
end

section
/-! The norm of a step (R302, R303): a share that arrives at the coordinator, the digits of a share, and sums that saturate;
O39. -/
namespace Sys2Proof.Machine
open Sys2Proof

/-! ## The digits of a share (R303) -/

/-- Digit `k` of a sum in base 2^16. -/
def shareDigit (q k : Nat) : Nat := q / 2 ^ (16 * k) % 65536

/-- A number below half of the range reads back as itself. -/
theorem sext_of_lt {w x : Nat} (positive : x < 2 ^ (w - 1)) : sext w x = x := by
  have within : x % 2 ^ w = x := Nat.mod_eq_of_lt (Nat.lt_of_lt_of_le positive (Nat.pow_le_pow_right (by omega) (by omega)))
  simp only [sext, within, if_pos positive]

/-- Words of four bytes are read where they stand. -/
theorem leAt_flatMap_leBytes (xs : List Nat) (rest : List Byte) {k : Nat} (hk : k < xs.length) :
    leAt (xs.flatMap (leBytes 4) ++ rest) (4 * k) 4 = xs[k] % 256 ^ 4 := by
  induction xs generalizing k with
  | nil => contradiction
  | cons x xs ih =>
    rw [List.flatMap_cons, List.append_assoc]
    cases k with
    | zero => rw [leAt, Nat.mul_zero, List.drop_zero, List.take_left' (leBytes_length 4 x), leNat_leBytes]; rfl
    | succ k =>
      have behind : (leBytes 4 x ++ (xs.flatMap (leBytes 4) ++ rest)).drop (4 * (k + 1)) =
          (xs.flatMap (leBytes 4) ++ rest).drop (4 * k) := by
        rw [Nat.mul_succ, Nat.add_comm, ← List.drop_drop, List.drop_left' (leBytes_length 4 x)]
      rw [leAt, behind]
      exact ih (Nat.lt_of_succ_lt_succ hk)

theorem leAt_shareBytes (q : Nat) (sat : Bool) {k : Nat} (hk : k < 8) :
    leAt (shareBytes q sat) (4 * k) 4 = shareDigit q k := by
  have digits : shareBytes q sat = ((List.range 8).map (shareDigit q)).flatMap (leBytes 4)
      ++ (leBytes 4 1 ++ leBytes 4 (b2n sat) ++ zeros 24) := by
    simp [shareBytes, List.flatMap_map, shareDigit]
  have word : shareDigit q k < 256 ^ 4 := Nat.lt_trans (Nat.mod_lt _ (by decide)) (by decide)
  rw [digits, leAt_flatMap_leBytes _ _ (by simpa using hk), List.getElem_map, List.getElem_range, Nat.mod_eq_of_lt word]

/-- The lowest digits of a number add up to its remainder. -/
theorem foldl_shareDigit (q n : Nat) :
    (List.range n).foldl (fun a k => a + (shareDigit q k : Int) * (2 ^ (16 * k) : Nat)) 0 = (q % 2 ^ (16 * n) : Nat) := by
  induction n with
  | zero => simp [Nat.mod_one]
  | succ n ih =>
    have split : q % 2 ^ (16 * (n + 1)) = q % 2 ^ (16 * n) + shareDigit q n * 2 ^ (16 * n) := by
      rw [Nat.mul_succ, Nat.pow_add, Nat.mod_mul, Nat.mul_comm (2 ^ (16 * n))]
      rfl
    rw [List.range_succ, List.foldl_append, ih, split]
    simp

theorem digitSum_shareBytes (q : Nat) (sat : Bool) : digitSum (shareBytes q sat) = (q % 2 ^ 128 : Nat) := by
  have digit (k : Nat) (hk : k ∈ List.range 8) : sext 32 (leAt (shareBytes q sat) (4 * k) 4) = shareDigit q k := by
    have positive : shareDigit q k < 2 ^ (32 - 1) := Nat.lt_trans (Nat.mod_lt _ (by decide)) (by decide)
    rw [leAt_shareBytes q sat (List.mem_range.mp hk), sext_of_lt positive]
  rw [← foldl_shareDigit q 8, digitSum]
  refine List.foldl_rel (r := Eq) rfl (fun k hk x y same => ?_)
  rw [same, digit k hk]

theorem length_shareBytes (q : Nat) (sat : Bool) : (shareBytes q sat).length = 64 := by
  have digits : ((List.range 8).map (fun _ => 4)).sum = 32 := by decide
  simp only [shareBytes, zeros, List.length_append, List.length_flatMap, leBytes_length, List.length_replicate, digits]

/-! ## Sums that saturate (R302) -/

theorem satSum_le_sumLimit (q a : Nat) : (satSum q a).1 ≤ sumLimit := Nat.min_le_left _ _

/-- A sum that does not say it saturates is exact. -/
theorem satSum_of_unsaturated {q a : Nat} (unsaturated : (satSum q a).2 = false) : (satSum q a).1 = q + a :=
  Nat.min_eq_right (Nat.not_lt.mp (of_decide_eq_false unsaturated))

/-! ## A share at the coordinator (R303) -/

theorem exec_normShareArrival (c : CtxId) (s : State) :
    exec (.normShareArrival c) s = .next (s.withDev (s.dev.normArrival c.val)) := rfl

/-- Where the shares of the list's step are added up, in the pool. -/
def Dev.normSlot (s : Dev) (c : Nat) (u : Upd) : List (Nat × Nat) :=
  (s.ctx c).range (s.ownWin c u.nwin (u.noff + 64 * (u.step.toNat % 2))) 64

/-- The number of shares that have arrived at the coordinator for the list's step. -/
def Dev.sharesIn (s : Dev) (c : Nat) (u : Upd) : Nat := leAt (s.normRead c u (64 * (u.step.toNat % 2)) 64) 32 4

/-- A share that arrives takes its credit, and forms the norm when it is the last of two from every device. -/
theorem Dev.normArrival_of_met {s : Dev} {c : Nat} {z : HEntry} (live : (s.ctx c).upd.live = true)
    (resident : (s.ctx c).resid = .resident) (unheld : (s.ctx c).faultHold = false) (here : s.fab.coord = coordinator)
    (waits : (s.ctx c).upd.st = .waitKappa) (unsent : (s.ctx c).upd.heldKappa = none)
    (free : s.rangesFree (s.normSlot c (s.ctx c).upd) (s.normSlot c (s.ctx c).upd))
    (met : s.creditsAt c 1024 (s.ctx c).upd.nhitch z) :
    s.normArrival c = (if s.sharesIn c (s.ctx c).upd = 2 * s.fab.devices then (s.paid z).formNorm c (s.ctx c).upd
      else s.paid z).pump := by
  have expected :
      (s.fab.coord != coordinator || (s.ctx c).upd.st != .waitKappa || (s.ctx c).upd.heldKappa.isSome) = false := by
    rw [here, waits, unsent]
    rfl
  unfold Dev.normSlot at free
  rw [Dev.normArrival, Dev.withList_of_live live resident unheld, expected, if_neg Bool.false_ne_true]
  simp only [s.withRanges_of_free _ _ _ free, s.takeCredits_of_met c 1024 _ z met]
  rfl

/-- Settles O39: an arrival by `Dev.normArrival_of_met`, a share's sum by its digits, and saturation by its definition. -/
theorem normIsFormedExactly : Obligations.NormIsFormedExactly := by
  refine ⟨fun c s z live resident unheld here waits unsent free met => ?_, fun q sat small => ⟨?_,
    length_shareBytes q sat⟩, fun q a => ⟨satSum_le_sumLimit q a, satSum_of_unsaturated⟩⟩
  · rw [exec_normShareArrival, Dev.normArrival_of_met live resident unheld here waits unsent free met, Dev.sharesIn]
    exact ⟨fun last => by rw [if_pos last], fun early => by rw [if_neg early]⟩
  · rw [digitSum_shareBytes, Nat.mod_eq_of_lt small]

end Sys2Proof.Machine
end

section
/-! The boot and security invariant (R390, R393, R396, R399): what the parts of a command leave of it, and that every command
keeps it and the queue of waiting commands; O1, O2, O5, O7. -/
namespace Sys2Proof.Machine
open Sys2Proof

/-! ## The invariant -/

/-- The invariant of the boot and security state, of the block that it speaks of. -/
structure Rst.Safe (r : Rst) : Prop where
  optA : r.optA.wf = true
  optB : r.optB.wf = true
  fwStore : r.fwStore.wf = true
  booted : r.fwRunning = true → 4 ≤ r.boot ∧ 5 ≤ r.nextStep
  current : r.fwRunning = true → r.rollback.toNat ≤ r.runSvn.toNat

theorem bootSafe_iff (s : State) : Safety.bootSafe s = true ↔ s.rst.Safe := by
  have form : s.rst.Safe ↔ ((s.rst.optA.wf = true ∧ s.rst.optB.wf = true) ∧ s.rst.fwStore.wf = true) ∧
      (s.rst.fwRunning = true → 4 ≤ s.rst.boot ∧ 5 ≤ s.rst.nextStep) ∧
      (s.rst.fwRunning = true → s.rst.rollback.toNat ≤ s.rst.runSvn.toNat) :=
    ⟨fun ⟨a, b, f, booted, current⟩ => ⟨⟨⟨a, b⟩, f⟩, booted, current⟩,
      fun ⟨⟨⟨a, b⟩, f⟩, booted, current⟩ => ⟨a, b, f, booted, current⟩⟩
  rw [form]
  cases running : s.rst.fwRunning <;>
    simp [Safety.bootSafe, Safety.mramCanonical, Safety.bootAgrees, Safety.notRolledBack, running, and_assoc]

/-- What every command does: the queue stays, and the invariant is kept. -/
structure State.Keeps (s t : State) : Prop where
  pending : t.pending = s.pending
  safe : s.rst.Safe → t.rst.Safe

theorem State.Keeps.refl (s : State) : s.Keeps s := ⟨rfl, id⟩

theorem State.Keeps.trans {s t u : State} (first : s.Keeps t) (second : t.Keeps u) : s.Keeps u :=
  ⟨second.pending.trans first.pending, second.safe ∘ first.safe⟩

/-- The fields of the RST and SEC blocks that the invariant speaks of. -/
def Rst.vital (r : Rst) : (Mem × Mem × Mem) × Bool × Nat × Nat × U32 × U32 :=
  ((r.optA, r.optB, r.fwStore), r.fwRunning, r.boot, r.nextStep, r.rollback, r.runSvn)

theorem Rst.Safe.of_vital {r q : Rst} (safe : r.Safe) (vital : q.vital = r.vital) : q.Safe := by
  simp only [Rst.vital, Prod.mk.injEq] at vital
  obtain ⟨⟨optA, optB, fwStore⟩, running, boot, next, rollback, svn⟩ := vital
  exact ⟨optA ▸ safe.optA, optB ▸ safe.optB, fwStore ▸ safe.fwStore, by rw [running, boot, next]; exact safe.booted,
    by rw [running, rollback, svn]; exact safe.current⟩

/-- A change of the device, or of registers that the invariant does not speak of. -/
theorem State.keeps_of_vital {s t : State} (pending : t.pending = s.pending) (vital : t.rst.vital = s.rst.vital) :
    s.Keeps t :=
  ⟨pending, fun safe => safe.of_vital vital⟩

theorem State.keeps_withDev (s : State) (d : Dev) : s.Keeps (s.withDev d) := State.keeps_of_vital rfl rfl

theorem State.keeps_of_next {s t u : State}
    (runs : (Host.Outcome.next u : Host.Outcome State Fault Refusal) = .next t) (keeps : s.Keeps u) : s.Keeps t :=
  Host.Outcome.next.inj runs ▸ keeps

/-! ## The release (R390, R396) -/

theorem Rst.Safe.begin' {r : Rst} (safe : r.Safe) : r.begin'.Safe := by
  unfold Rst.begin'
  split
  · exact safe
  · exact ⟨safe.optA, safe.optB, safe.fwStore, safe.booted, safe.current⟩

@[simp] theorem Rst.nextStep_begin' (r : Rst) : r.begin'.nextStep = r.nextStep := by
  unfold Rst.begin'; split <;> rfl

/-- A step that comes next is complete, and one after it comes next: firmware runs only when that is step 5 or later. -/
theorem Rst.Safe.done {r : Rst} {n m : Nat} (safe : r.Safe) (now : r.nextStep = n) (later : n ≤ m) : (r.done n m).Safe where
  optA := safe.optA
  optB := safe.optB
  fwStore := safe.fwStore
  booted running := by
    have behind := (safe.booted running).2
    exact ⟨show 4 ≤ n by omega, show 5 ≤ m by omega⟩
  current := safe.current

theorem State.keeps_release (s : State) (n : Nat) (act : State → State)
    (acts : ∀ u : State, u.rst.nextStep = n → u.Keeps (act u)) : s.Keeps (s.release n act) := by
  unfold State.release
  split
  · next now => exact .trans (t := s.withRst s.rst.begin') ⟨rfl, Rst.Safe.begin'⟩ (acts _ ((Rst.nextStep_begin' _).trans now))
  · exact .refl s

theorem State.keeps_alwaysOn (s : State) : s.Keeps s.alwaysOn := by
  unfold State.alwaysOn
  split
  · exact .refl s
  · exact s.keeps_release 1 _ (fun u now => ⟨rfl, fun safe => safe.done now (by omega)⟩)

theorem State.keeps_optionLoading (s : State) : s.Keeps s.optionLoading :=
  s.keeps_release 2 _ (fun u now => ⟨rfl, fun safe =>
    let ⟨a, b, f, booted, current⟩ := safe.done now (show 2 ≤ 3 by omega)
    ⟨a, b, f, booted, current⟩⟩)

theorem State.keeps_groomCores (s : State) : s.Keeps s.groomCores :=
  s.keeps_release 3 _ (fun u now => ⟨rfl, fun safe => safe.done now (by omega)⟩)

/-- At step 4 no firmware runs yet; what then runs is not older than the counter. -/
theorem State.keeps_verify (s : State) : s.Keeps s.verify := by
  refine s.keeps_release 4 _ (fun u now => ?_)
  dsimp only
  split
  · next accepted =>
    have current := of_decide_eq_true (Bool.and_eq_true_iff.mp accepted).2
    exact ⟨rfl, fun safe => ⟨safe.optA, safe.optB, safe.fwStore, fun _ => ⟨Nat.le_refl 4, Nat.le_refl 5⟩, fun _ => current⟩⟩
  · exact ⟨rfl, fun safe => ⟨safe.optA, safe.optB, safe.fwStore,
      fun running => ⟨(safe.booted running).1, show 5 ≤ 7 by omega⟩, safe.current⟩⟩

theorem State.keeps_hbmRelease (s : State) : s.Keeps s.hbmRelease := by
  unfold State.hbmRelease
  split
  · exact .refl s
  · exact s.keeps_release 5 _ (fun u now => ⟨rfl, fun safe => safe.done now (by omega)⟩)

theorem State.keeps_hbmInit (s : State) (failed : List Nat) : s.Keeps (s.hbmInit failed) := by
  unfold State.hbmInit
  split
  · exact .refl s
  · exact s.keeps_withDev _

theorem State.keeps_dunindRelease (s : State) : s.Keeps s.dunindRelease :=
  s.keeps_release 6 _ (fun u now => ⟨rfl, fun safe => safe.done now (by split <;> omega)⟩)

theorem State.keeps_cxlRelease (s : State) : s.Keeps s.cxlRelease := by
  refine s.keeps_release 7 _ (fun u now => ⟨rfl, fun safe => ?_⟩)
  dsimp only
  split
  · exact ⟨safe.optA, safe.optB, safe.fwStore, fun running => ⟨(safe.booted running).1, show 5 ≤ 9 by omega⟩, safe.current⟩
  · exact safe.done now (by omega)

theorem State.keeps_tilesRelease (s : State) (pass : Byte) : s.Keeps (s.tilesRelease pass) :=
  s.keeps_release 8 _ (fun u now => ⟨rfl, fun safe =>
    let ⟨a, b, f, booted, current⟩ := safe.done now (show 8 ≤ 9 by omega)
    ⟨a, b, f, booted, current⟩⟩)

/-! ## Resets (R386 to R391, R393) -/

/-- A release that restarts at step 4 or before stops the firmware; one that restarts later leaves step 4 complete. -/
theorem Rst.Safe.afterReset {r : Rst} (safe : r.Safe) (why : Byte) (core : BitVec 4) (first : Nat) (warm : Bool) :
    (r.afterReset why core first warm).Safe := by
  obtain ⟨optA, optB, fwStore, booted, current⟩ := safe
  unfold Rst.afterReset
  by_cases stops : first ≤ 4
  · refine ⟨?_, ?_, ?_, ?_, ?_⟩ <;> (simp only [stops, if_true]; split_ifs <;> simp [optA, optB, fwStore])
  · have later : ¬ first ≤ 2 ∧ ¬ first ≤ 1 := by omega
    simp only [stops, later, if_false]
    exact ⟨optA, optB, fwStore, fun _ => ⟨show 4 ≤ first - 1 by omega, show 5 ≤ first by omega⟩, current⟩

theorem State.keeps_deviceReset (s : State) (why : Byte) (core : BitVec 4) (named : Nat) (warm : Bool) :
    s.Keeps (s.deviceReset why core named warm) :=
  ⟨rfl, fun safe => safe.afterReset _ _ _ _⟩

theorem State.keeps_powerOn (s : State) (c : PowerCause) : s.Keeps (s.powerOn c) := by
  have resets (why : Byte) := s.keeps_deviceReset why 0 1 false
  cases c with
  | porst n =>
    simp only [State.powerOn]
    split
    · exact .refl s
    · exact .trans (resets _) (State.keeps_withDev _ _)
  | pwrgdLow => exact .trans (resets _) (State.keeps_withDev _ _)
  | vaonLost => exact .trans (resets _) (State.keeps_withDev _ _)

theorem State.keeps_sensorRead (s : State) (xs : List U16) : s.Keeps (s.sensorRead xs) := by
  simp only [State.sensorRead]
  split
  · exact .refl s
  · split
    · exact .trans (s.keeps_deviceReset 2 0 1 false) (State.keeps_withDev _ _)
    · exact s.keeps_withDev _

theorem State.keeps_groomWatchdog (s : State) (core : Nat) : s.Keeps (s.groomWatchdog core) := by
  unfold State.groomWatchdog
  split
  · exact s.keeps_deviceReset _ _ _ _
  · exact .refl s

theorem State.keeps_heartbeat (s : State) (beats : BitVec 4) : s.Keeps (s.heartbeat beats) := by
  unfold State.heartbeat
  split
  · exact .refl s
  · dsimp only
    split
    · exact s.keeps_groomWatchdog _
    · exact State.keeps_of_vital rfl rfl

theorem State.keeps_conventionalReset (s : State) : s.Keeps s.conventionalReset := by
  unfold State.conventionalReset
  split
  · exact s.keeps_deviceReset _ _ _ _
  · exact .refl s

theorem State.keeps_warm (s : State) : s.Keeps s.warm := by
  unfold State.warm
  split
  · exact s.keeps_deviceReset _ _ _ _
  · exact .refl s

theorem State.keeps_reboot (s : State) : s.Keeps s.reboot := by
  unfold State.reboot
  split
  · exact s.keeps_deviceReset _ _ _ _
  · exact .refl s

theorem State.keeps_blkOp (s : State) (t : BlkTarget) (st : Status) (act : Dev → Dev) : s.Keeps (s.blkOp t st act) := by
  unfold State.blkOp
  split
  · exact .refl s
  · exact State.keeps_of_vital rfl rfl

theorem State.keeps_quiesceOp (s : State) (t : BlkTarget) : s.Keeps (s.quiesceOp t) := s.keeps_blkOp _ _ _
theorem State.keeps_resetOp (s : State) (t : BlkTarget) : s.Keeps (s.resetOp t) := by
  simp only [State.resetOp]
  exact s.keeps_blkOp _ _ _

/-! ## The SEC block (R395, R397, R399 to R401) -/

theorem State.keeps_secOp (s : State) (inRecovery : Bool) (len : Option (BitVec 25)) (f : State → Status × State)
    (keeps : ∀ u : State, u.Keeps (f u).2) : s.Keeps (s.secOp inRecovery len f) := by
  unfold State.secOp
  split
  · exact .refl s
  · have begun : s.Keeps (s.withRst { s.rst with len := len.getD s.rst.len }) := State.keeps_of_vital rfl rfl
    exact .trans (.trans begun (keeps _)) (State.keeps_of_vital rfl rfl)

theorem writeCopy_wf (m : Mem) (img : List Byte) (wf : m.wf = true) : (writeCopy m img).wf = true :=
  Mem.writeN_wf _ _ _ (Mem.writeN_wf _ _ _ wf)

theorem State.keeps_optPush (s : State) : s.Keeps s.optPush.2 := by
  simp only [State.optPush]
  split
  · refine ⟨rfl, fun safe => ?_⟩
    dsimp only
    split
    · exact ⟨writeCopy_wf _ _ safe.optA, safe.optB, safe.fwStore, safe.booted, safe.current⟩
    · exact ⟨safe.optA, writeCopy_wf _ _ safe.optB, safe.fwStore, safe.booted, safe.current⟩
  · exact .refl s

/-- A firmware store in canonical form in place of the present one. -/
theorem Rst.Safe.store {r : Rst} (safe : r.Safe) {m : Mem} (wf : m.wf = true) : ({ r with fwStore := m } : Rst).Safe :=
  ⟨safe.optA, safe.optB, wf, safe.booted, safe.current⟩

theorem Rst.Safe.storing {r : Rst} (safe : r.Safe) (bs : List Byte) : (r.storing bs).Safe :=
  safe.store (Mem.writeN_wf _ _ _ (Mem.writeN_wf _ _ _ safe.fwStore))

theorem State.keeps_fwPush (s : State) (between : List Host.Cell) : s.Keeps (s.fwPush between).2 := by
  simp only [State.fwPush]
  split
  · split
    · exact ⟨rfl, fun safe => (safe.storing _).store (Mem.writeN_wf _ _ _ (safe.storing _).fwStore)⟩
    · exact ⟨rfl, fun safe => safe.storing _⟩
  · exact s.keeps_withDev _

theorem State.keeps_fwPushPart (s : State) (n : Nat) : s.Keeps (s.fwPushPart n) := by
  simp only [State.fwPushPart]
  split
  · exact ⟨rfl, fun safe => (safe.storing ((s.secImage.drop 64).take (64 * n))).of_vital rfl⟩
  · exact State.keeps_of_vital rfl rfl

/-- The counter rises to the running image's SVN at most. -/
theorem State.keeps_rollFwd (s : State) : s.Keeps s.rollFwd.2 := by
  unfold State.rollFwd
  split
  · exact ⟨rfl, fun safe => ⟨safe.optA, safe.optB, safe.fwStore, safe.booted, fun _ => Nat.le_refl _⟩⟩
  · exact .refl s

theorem State.keeps_assignOp (s : State) : s.Keeps s.assignOp.2 := by
  simp only [State.assignOp]
  split
  · exact s.keeps_withDev _
  · exact .refl s

theorem State.keeps_fwpush (s : State) (push : FwPush) : ∃ t, exec (.fwpush push) s = .next t ∧ s.Keeps t := by
  refine ⟨_, rfl, ?_⟩
  split
  · exact s.keeps_secOp _ _ _ (fun u => u.keeps_fwPush _)
  · split
    · exact .refl s
    · have begun : s.Keeps (s.withRst { s.rst with len := push.len }) := State.keeps_of_vital rfl rfl
      exact begun.trans (State.keeps_fwPushPart _ _)

/-! ## SPDM (R402) -/

theorem State.keeps_spdmTo (s : State) (x : Spdm) (a : DoeAnswer) : s.Keeps ((s.spdmTo x).reply a) :=
  State.keeps_of_vital rfl rfl

theorem State.keeps_onSpdm (s : State) (f : State → State) (keeps : s.Keeps (f s)) : s.Keeps (s.onSpdm f) := by
  unfold State.onSpdm
  split
  · exact keeps
  · exact .refl s

theorem State.keeps_spdmIn (s : State) (ok : Bool) (f : State → State) (keeps : s.Keeps (f s)) : s.Keeps (s.spdmIn ok f) := by
  refine s.keeps_onSpdm _ ?_
  split
  · exact keeps
  · exact s.keeps_withDev _

theorem State.keeps_keyExchange (s : State) (data : List Byte) : s.Keeps (s.keyExchange data) :=
  s.keeps_spdmIn _ _ (.trans (s.keeps_withDev _) (State.keeps_spdmTo _ _ _))

theorem State.keeps_finishSession (s : State) (valid : Bool) : s.Keeps (s.finishSession valid) := by
  refine s.keeps_spdmIn _ _ ?_
  split
  · exact s.keeps_spdmTo _ _
  · exact s.keeps_spdmTo _ _

/-! ## The host's accesses (R341, R404 to R409) -/

theorem State.keeps_rstCtlWrite (s : State) (x : RegW) : s.Keeps (s.rstCtlWrite x) := by
  unfold State.rstCtlWrite
  split
  · exact s.keeps_warm
  · exact s.keeps_reboot
  · exact .refl s

theorem State.keeps_rstBlkWrite (s : State) (x : RegW) : s.Keeps (s.rstBlkWrite x) := by
  unfold State.rstBlkWrite
  split
  · exact .refl s
  · have begun : s.Keeps (s.withRst { s.rst with blkCtx := selCtxOf x, blkTarget := BitVec.ofNat 4 (x.fld 3 0) }) :=
      State.keeps_of_vital rfl rfl
    refine begun.trans ?_
    dsimp only
    split
    · exact State.keeps_quiesceOp _ _
    · exact State.keeps_resetOp _ _
    · exact .refl _

theorem State.keeps_secOpWrite (s : State) (x : RegW) : s.Keeps (s.secOpWrite x) := by
  simp only [State.secOpWrite]
  split
  · split
    · exact .refl s
    · exact State.keeps_of_vital rfl rfl
  · split
    · exact s.keeps_secOp _ _ _ State.keeps_optPush
    · exact s.keeps_secOp _ _ _ (fun u => u.keeps_fwPush [])
    · exact s.keeps_secOp _ _ _ State.keeps_rollFwd
    · exact s.keeps_secOp _ _ _ State.keeps_assignOp
    · exact s.keeps_secOp _ _ _ .refl

theorem State.keeps_regWrite (s : State) (r : Reg) (x : RegW) : s.Keeps (s.regWrite r x) := by
  unfold State.regWrite
  split
  · exact s.keeps_rstCtlWrite x
  · exact s.keeps_rstBlkWrite x
  · split
    · split
      · exact .refl s
      · exact State.keeps_of_vital rfl rfl
    · exact s.keeps_secOpWrite x
  · exact s.keeps_withDev _

theorem State.keeps_registerWrite (s : State) (addr : Nat) (size : Access) (v : Nat) :
    s.Keeps (s.registerWrite addr size v) := by
  have writes (aligned : Prop) [Decidable aligned] (r : Reg) (x : RegW) (other : State) (keeps : s.Keeps other) :
      s.Keeps (if aligned then s.regWrite r x else other) := by
    split
    · exact s.keeps_regWrite r x
    · exact keeps
  unfold State.registerWrite
  split
  · exact .refl s
  · split
    · exact .refl s
    · exact writes _ _ _ _ (.refl s)
    · exact writes _ _ _ _ (writes _ _ _ _ (.refl s))
    · exact .refl s

theorem State.keeps_hostWrite (s : State) (p : HostPage) (addr : Nat) (size : Access) (v : U64) :
    s.Keeps (s.hostWrite p addr size v) := by
  cases p with
  | bar0 => exact s.keeps_registerWrite _ _ _
  | doorbells => exact s.keeps_withDev _
  | bar4 =>
    simp only [State.hostWrite]
    split
    · exact s.keeps_withDev _
    · exact .refl s
  | config =>
    simp only [State.hostWrite]
    split
    · exact s.keeps_withDev _
    · exact .refl s

/-- A read changes the device alone. -/
theorem State.registerRead_withDev (s : State) (addr : Nat) (size : Access) :
    ∃ d, s.registerRead addr size = s.withDev d := by
  have low (a : Nat) (r : Reg) : ∃ d, s.read32Low a r = s.withDev d := ⟨_, rfl⟩
  have high (a : Nat) (r : Reg) : ∃ d, s.read32High a r = s.withDev d := by
    unfold State.read32High; dsimp only; split <;> exact ⟨_, rfl⟩
  simp only [State.registerRead]
  split
  · exact ⟨s.dev, rfl⟩
  · split
    · exact ⟨_, rfl⟩
    · split
      · exact ⟨_, rfl⟩
      · split <;> exact ⟨_, rfl⟩
      · split
        · exact low _ _
        · split
          · exact high _ _
          · exact ⟨_, rfl⟩
      · exact ⟨_, rfl⟩

theorem State.keeps_hostRead (s : State) (p : HostPage) (addr : Nat) (size : Access) : s.Keeps (s.hostRead p addr size) := by
  unfold State.hostRead
  split
  · obtain ⟨d, read⟩ := s.registerRead_withDev addr size
    exact read ▸ s.keeps_withDev d
  · split
    · exact s.keeps_withDev _
    · exact .refl s

/-! ## Every command -/

theorem State.keeps_rowRepair (s : State) (ch bank row : Nat) (spare : Bool) : s.Keeps (s.rowRepair ch bank row spare) := by
  simp only [State.rowRepair]
  split
  · exact .refl s
  · split
    · exact s.keeps_withDev _
    · exact State.keeps_of_vital rfl rfl

theorem State.keeps_onFlit {s t : State} {flit : List Byte} {f : Dev → Dev} (runs : s.onFlit flit f = .next t) : s.Keeps t := by
  by_cases sized : flit.length = 256
  · exact State.keeps_of_next ((if_pos sized).symm.trans runs) (s.keeps_withDev _)
  · rw [s.onFlit_of_other flit f sized] at runs
    cases runs

theorem State.keeps_hostWindowWrite {s t : State} {a : Nat} {data : List Byte}
    (runs : execHostWindowWrite a data s = .next t) : s.Keeps t := by
  unfold execHostWindowWrite at runs
  split at runs
  · cases runs
  · split at runs
    · cases runs
    · exact State.keeps_of_next runs (s.keeps_withDev _)

theorem State.keeps_hostWindowRead {s t : State} {a : Nat} {cached : Bool}
    (runs : execHostWindowRead a cached s = .next t) : s.Keeps t := by
  unfold execHostWindowRead at runs
  split at runs
  · cases runs
  · exact State.keeps_of_next runs (s.keeps_withDev _)

/-- Every command leaves the queue as it is and keeps the boot and security invariant. -/
theorem exec_keeps {c : Instr} {s t : State} (runs : exec c s = .next t) : s.Keeps t := by
  have next {u : State} (runs' : (Host.Outcome.next u : Host.Outcome State Fault Refusal) = .next t) :=
    State.keeps_of_next (s := s) runs'
  cases c with
  | dataFlit | idleFlit | nakFlit | timeFlit => exact State.keeps_onFlit runs
  | hostWindowRead => exact State.keeps_hostWindowRead runs
  | hostWindowWrite => exact State.keeps_hostWindowWrite runs
  | rowRepair => exact next runs (s.keeps_rowRepair _ _ _ _)
  | alwaysOnRelease => exact next runs s.keeps_alwaysOn
  | optionLoading => exact next runs s.keeps_optionLoading
  | groomCoresRelease => exact next runs s.keeps_groomCores
  | firmwareVerification => exact next runs s.keeps_verify
  | hbmRelease => exact next runs s.keeps_hbmRelease
  | hbmInitDone => exact next runs (s.keeps_hbmInit _)
  | dunindRelease => exact next runs s.keeps_dunindRelease
  | cxlRelease => exact next runs s.keeps_cxlRelease
  | tilesRelease => exact next runs (s.keeps_tilesRelease _)
  | powerOn => exact next runs (s.keeps_powerOn _)
  | sensorRead => exact next runs (s.keeps_sensorRead _)
  | groomWatchdog => exact next runs (s.keeps_groomWatchdog _)
  | heartbeatCheck => exact next runs (s.keeps_heartbeat _)
  | cxlConventionalReset => exact next runs s.keeps_conventionalReset
  | warm => exact next runs s.keeps_warm
  | reboot => exact next runs s.keeps_reboot
  | quiesce => exact next runs (s.keeps_quiesceOp _)
  | reset => exact next runs (s.keeps_resetOp _)
  | optpush => exact next runs (s.keeps_secOp _ _ _ State.keeps_optPush)
  | rollfwd => exact next runs (s.keeps_secOp _ _ _ State.keeps_rollFwd)
  | assign => exact next runs (s.keeps_secOp _ _ _ State.keeps_assignOp)
  | fwpush push =>
    obtain ⟨u, pushed, keeps⟩ := s.keeps_fwpush push
    exact next (pushed.symm.trans runs) keeps
  | getVersion => exact next runs (s.keeps_onSpdm _ (s.keeps_spdmTo _ _))
  | getCapabilities | negotiateAlgorithms | endSession => exact next runs (s.keeps_spdmIn _ _ (s.keeps_spdmTo _ _))
  | getMeasurements => exact next runs (s.keeps_spdmIn _ _ (s.keeps_withDev _))
  | keyExchange => exact next runs (s.keeps_keyExchange _)
  | finish => exact next runs (s.keeps_finishSession _)
  | sidebandAccess index write => cases write <;> exact next runs (s.keeps_withDev _)
  | registerWrite => exact next runs (s.keeps_hostWrite _ _ _ _)
  | registerRead => exact next runs (s.keeps_hostRead _ _ _)
  | _ => exact next runs (s.keeps_withDev _)

/-- Settles O2. -/
theorem commandsLeaveQueue : Obligations.CommandsLeaveQueue := fun _ _ _ runs => (exec_keeps runs).pending

/-- Settles O5: a step is a tick, which leaves the block of the invariant alone, or the front command. -/
theorem stepsKeepBootSafe : Obligations.StepsKeepBootSafe := by
  intro s t safe stepped
  rw [bootSafe_iff] at safe ⊢
  unfold step at stepped
  split at stepped
  · exact (State.keeps_of_next stepped (s.keeps_withDev _)).safe safe
  · exact (exec_keeps stepped).safe safe

/-- Settles O1. -/
theorem stepRunsFrontCommand : Obligations.StepRunsFrontCommand := fun _ _ _ => rfl

/-- Settles O7: every register has its reset value by definition, and no firmware runs. -/
theorem resetState : Obligations.ResetState := by
  refine ⟨⟨rfl, rfl, rfl, rfl, rfl, rfl, rfl, rfl, rfl, rfl, rfl, rfl, rfl, rfl, rfl, fun c r => rfl, fun c v => rfl,
    fun l => rfl, fun d => rfl⟩, (bootSafe_iff _).mpr ⟨rfl, rfl, rfl, ?_, ?_⟩⟩
  · exact fun running => absurd running Bool.false_ne_true
  · exact fun running => absurd running Bool.false_ne_true

end Sys2Proof.Machine
end

section
/-! What events and the discarding of work leave of a device (R318, R352): tiles at rest stay at rest, no remote operation
begins, and a host interface that is up sends messages; O25. -/
namespace Sys2Proof.Machine
open Sys2Proof

/-! ## Tiles at rest -/

/-- No program runs on the tile, none waits, and no word is issued. -/
structure Tile.AtRest (x : Tile) : Prop where
  words : x.words = []
  prog : x.prog = none
  startq : x.startq = []

theorem Tile.atRest_default : ({} : Tile).AtRest := ⟨rfl, rfl, rfl⟩

theorem Tile.atRest_discardWork (x : Tile) : x.discardWork.AtRest := ⟨rfl, rfl, rfl⟩

theorem Tile.AtRest.modSlot {x : Tile} (rest : x.AtRest) (seq num : Nat) (f : ISlot → ISlot) : (x.modSlot seq num f).AtRest :=
  ⟨by simp [Tile.modSlot, Tile.modWord, rest.words], rest.prog, rest.startq⟩

theorem Tile.AtRest.mapProg {x : Tile} (rest : x.AtRest) (f : Prog → Prog) :
    ({ x with prog := x.prog.map f } : Tile).AtRest :=
  ⟨rest.words, by simp [rest.prog], rest.startq⟩

/-- What decides where a context's tiles are held. -/
def Ctx.seat (x : Ctx) : Residence × Byte × Tab Tile × Tab Nat := (x.resid, x.ntile, x.saved, x.backs)

theorem Dev.tile_of_seat {s t : Dev} {c : Nat} (tiles : t.tiles = s.tiles) (seat : (t.ctx c).seat = (s.ctx c).seat) (u : Nat) :
    t.tile c u = s.tile c u := by
  simp only [Ctx.seat, Prod.mk.injEq] at seat
  obtain ⟨resid, ntile, saved, backs⟩ := seat
  have away : (t.ctx c).away = (s.ctx c).away := by rw [Ctx.away, resid]; rfl
  simp only [Dev.tile, Dev.tile?, Dev.ptile, tiles, away, ntile, saved, backs]

/-- A tile that another is changed with, or that stays. -/
theorem Dev.tile_modTile_cases (s : Dev) (c t k u : Nat) (f : Tile → Tile) :
    (s.modTile c t f).tile k u = s.tile k u ∨ (s.modTile c t f).tile k u = f (s.tile k u) := by
  by_cases away : (s.ctx c).away = true
  · by_cases inside : t < (s.ctx c).ntile.toNat
    · have moved : s.modTile c t f = s.setCtx c { s.ctx c with saved := Tab.set (s.ctx c).saved t (f (s.tile c t)) } := by
        simp [Dev.modTile, Dev.setTile, away, inside]
      by_cases here : k = c ∧ u = t
      · obtain ⟨rfl, rfl⟩ := here
        exact .inr (s.tile_modTile k u f (by simp [Dev.tile?, away, inside]))
      · left
        rw [moved]
        by_cases ctx : k = c
        · subst ctx
          have other : u ≠ t := fun same => here ⟨rfl, same⟩
          have still (m : Tab Tile) : ({ s.ctx k with saved := m } : Ctx).away = true := away
          simp [Dev.tile, Dev.tile?, away, still, Tab.get_set_ne _ _ _ other]
        · refine Dev.tile_of_seat (s.setCtx_tiles c _) ?_ u
          rw [Dev.ctx_setCtx, if_neg ctx]
    · left
      simp [Dev.modTile, Dev.setTile, away, inside]
  · cases backed : Tab.find (s.ctx c).backs t with
    | none => left; simp [Dev.modTile, Dev.setTile, away, backed]
    | some p =>
      have own : s.tile c t = (s.ptile p).tile := by simp [Dev.tile, Dev.tile?, away, backed]
      have moved : s.modTile c t f = s.setPtile p { s.ptile p with tile := f (s.ptile p).tile } := by
        simp [Dev.modTile, Dev.setTile, away, backed, own]
      have same (k : Nat) : (s.setPtile p { s.ptile p with tile := f (s.ptile p).tile }).ctx k = s.ctx k := rfl
      rw [moved]
      by_cases gone : (s.ctx k).away = true
      · left; simp [Dev.tile, Dev.tile?, same, gone]
      · cases seat : Tab.find (s.ctx k).backs u with
        | none => left; simp [Dev.tile, Dev.tile?, same, gone, seat]
        | some q =>
          by_cases shared : q = p
          · right; simp [Dev.tile, Dev.tile?, same, gone, seat, shared]
          · left; simp [Dev.tile, Dev.tile?, same, gone, seat, shared]

/-! ## Devices that go on with less work -/

/-- What events, and the discarding of work, leave of a device. -/
structure Dev.Subsides (s t : Dev) : Prop where
  tiles : ∀ c u, (s.tile c u).AtRest → (t.tile c u).AtRest
  ops : s.fab.ops = [] → t.fab.ops = []
  hif : s.hif.up = true → ∃ mem msgs, t.hif = { s.hif with hostMem := mem, msgs := s.hif.msgs ++ msgs }
  pwr : t.pwr = s.pwr

section
variable {s t u : Dev}

theorem Dev.Subsides.refl (s : Dev) : s.Subsides s :=
  ⟨fun _ _ => id, id, fun _ => ⟨s.hif.hostMem, [], by rw [List.append_nil]⟩, rfl⟩

theorem Dev.Subsides.trans (first : s.Subsides t) (second : t.Subsides u) : s.Subsides u where
  tiles c i := second.tiles c i ∘ first.tiles c i
  ops := second.ops ∘ first.ops
  hif up := by
    obtain ⟨mem, msgs, sent⟩ := first.hif up
    obtain ⟨mem', msgs', sent'⟩ := second.hif (by rw [sent]; exact up)
    exact ⟨mem', msgs ++ msgs', by rw [sent', sent, List.append_assoc]⟩
  pwr := second.pwr.trans first.pwr

theorem Dev.Subsides.foldl {α : Type} (f : Dev → α → Dev) (each : ∀ d a, Dev.Subsides d (f d a)) (as : List α) (s : Dev) :
    s.Subsides (as.foldl f s) := by
  induction as generalizing s with
  | nil => exact .refl s
  | cons a as ih => exact (each s a).trans (ih _)

/-- A change beside the contexts' tiles, the operations, the host interface and the power block. -/
theorem Dev.subsides_of_frame (tiles : t.tiles = s.tiles) (seat : ∀ c, (t.ctx c).seat = (s.ctx c).seat)
    (ops : t.fab.ops = s.fab.ops) (hif : t.hif = s.hif) (pwr : t.pwr = s.pwr) : s.Subsides t where
  tiles c i rest := by rw [Dev.tile_of_seat tiles (seat c)]; exact rest
  ops none := ops.trans none
  hif _ := ⟨s.hif.hostMem, [], by rw [List.append_nil, hif]⟩
  pwr := pwr

theorem Dev.subsides_setCtx (s : Dev) (c : Nat) (x : Ctx) (seat : x.seat = (s.ctx c).seat) : s.Subsides (s.setCtx c x) := by
  refine Dev.subsides_of_frame rfl (fun k => ?_) rfl rfl rfl
  rw [Dev.ctx_setCtx]
  split
  · next here => rw [here, seat]
  · rfl

theorem Dev.subsides_modCtx (s : Dev) (c : Nat) (f : Ctx → Ctx) (seat : ∀ x, (f x).seat = x.seat) : s.Subsides (s.modCtx c f) :=
  s.subsides_setCtx c _ (seat _)

theorem Dev.subsides_setRing (s : Dev) (c r : Nat) (g : Ring) : s.Subsides (s.setRing c r g) :=
  s.subsides_modCtx c _ (fun _ => rfl)

/-- A change of a tile that leaves one at rest so. -/
theorem Dev.subsides_modTile (s : Dev) (c i : Nat) (f : Tile → Tile) (rests : ∀ x, x.AtRest → (f x).AtRest) :
    s.Subsides (s.modTile c i f) where
  tiles k u rest := by
    obtain same | changed := s.tile_modTile_cases c i k u f
    · rw [same]; exact rest
    · rw [changed]; exact rests _ rest
  ops none := (congrArg (fun d : Dev => d.fab.ops) (s.still_modTile c i f) :).trans none
  hif _ := ⟨s.hif.hostMem, [], by rw [List.append_nil]; exact (s.setTile_outside c i _).2.1⟩
  pwr := (congrArg Dev.pwr (s.still_modTile c i f) :)

theorem Dev.subsides_filterOps (s : Dev) (p : ROp → Bool) :
    s.Subsides { s with fab := { s.fab with ops := s.fab.ops.filter p } } where
  tiles _ _ := id
  ops none := List.filter_eq_nil_iff.mpr (by simp [none])
  hif _ := ⟨s.hif.hostMem, [], by rw [List.append_nil]⟩
  pwr := rfl

end

/-! ### Events (R352) -/

theorem Dev.subsides_message (s : Dev) (c vec : Nat) : s.Subsides (s.message c vec) := by
  unfold Dev.message
  dsimp only
  split
  · exact .refl s
  · split
    · exact s.subsides_setCtx c _ rfl
    · split
      · exact ⟨fun _ _ => id, id, fun _ => ⟨s.hif.hostMem, _, rfl⟩, rfl⟩
      · next down => exact ⟨fun _ _ => id, id, fun up => absurd up down, rfl⟩

theorem Dev.subsides_countRecord (s : Dev) (c r : Nat) (now : Bool) : s.Subsides (s.countRecord c r now) := by
  obtain same | ⟨n, counted | sent⟩ := s.countRecord_cases c r now
  · rw [same]; exact .refl s
  · rw [counted]; exact s.subsides_setRing c r _
  · rw [sent]; exact (s.subsides_setRing c r _).trans (Dev.subsides_message _ c _)

theorem Dev.subsides_ringWrite (s : Dev) (c r : Nat) (bs : List Byte) (now : Bool) : s.Subsides (s.ringWrite c r bs now) := by
  have stored (m : Mem) : s.Subsides { s with hif := { s.hif with hostMem := m } } :=
    ⟨fun _ _ => id, id, fun _ => ⟨m, [], by rw [List.append_nil]⟩, rfl⟩
  exact ((stored _).trans (Dev.subsides_setRing _ c r _)).trans (Dev.subsides_countRecord _ c r now)

theorem Dev.subsides_writeEvent (s : Dev) (c : Nat) (e : Ev) : s.Subsides (s.writeEvent c e) := by
  unfold Dev.writeEvent
  dsimp only
  split
  · exact .refl s
  · split
    · refine .trans ?_ (Dev.subsides_ringWrite _ c 2 _ _)
      exact s.subsides_setCtx c _ rfl
    · exact s.subsides_setCtx c _ rfl

theorem Dev.subsides_flushEvents (s : Dev) (c : Nat) : s.Subsides (s.flushEvents c) := by
  refine .trans ?_ (.foldl _ (fun d e => d.subsides_writeEvent c e) _ _)
  exact s.subsides_modCtx c _ (fun _ => rfl)

theorem Dev.subsides_event (s : Dev) (c ty : Nat) (p q : U64) : s.Subsides (s.event c ty p q) := by
  unfold Dev.event
  split
  · exact .refl s
  · have noted := s.subsides_modCtx c (fun x =>
      { x with evq := x.evq ++ [⟨ty, x.evtSeq, s.time.ns, p, q⟩], evtSeq := x.evtSeq + 1 }) (fun _ => rfl)
    dsimp only
    split
    · exact noted.trans (Dev.subsides_flushEvents _ c)
    · exact noted

theorem Dev.subsides_ewCheck (s : Dev) (c : Nat) : s.Subsides (s.ewCheck c) := by
  unfold Dev.ewCheck
  dsimp only
  split
  · refine .trans ?_ (Dev.subsides_event _ c _ _ _)
    exact s.subsides_setCtx c _ rfl
  · exact .refl s

/-! ### Waiters that wake (R199) -/

theorem Dev.subsides_grant (key : Nat) (s : Dev) (w : Waiter) : s.Subsides (Dev.grant key s w) := by
  unfold Dev.grant
  split
  · exact s.subsides_modTile _ _ _ (fun x rest => rest.mapProg _)
  · exact s.subsides_modTile _ _ _ (fun x rest => rest.modSlot _ _ _)
  · exact Dev.subsides_of_frame rfl (fun _ => rfl) rfl rfl rfl

theorem Dev.subsides_serve (s : Dev) (key : Nat) : s.Subsides (s.serve key) := by
  unfold Dev.serve
  dsimp only
  split
  · exact .refl s
  · have paid (h : Hitch) : s.Subsides (s.setHitch key h) := Dev.subsides_of_frame rfl (fun _ => rfl) rfl rfl rfl
    exact (paid _).trans (.foldl _ (Dev.subsides_grant key) _ _)

theorem Dev.subsides_awaken (s : Dev) (p : Sleeper → Bool) : s.Subsides (s.awaken p) := by
  have awake (b : Sync) : s.Subsides { s with sync := b } := Dev.subsides_of_frame rfl (fun _ => rfl) rfl rfl rfl
  exact (awake _).trans (.foldl _ Dev.subsides_serve _ _)

theorem Dev.subsides_dropWaiters (s : Dev) (p : Nat → Bool) : s.Subsides (s.dropWaiters p) := s.subsides_awaken _

/-! ### Buckets, lists and launches that end (R292, R314, R318) -/

theorem Dev.subsides_failBucket (s : Dev) (c b : Nat) (st : Status) : s.Subsides (s.failBucket c b st) := by
  unfold Dev.failBucket
  dsimp only
  split
  · exact .refl s
  · refine .trans ?_ (Dev.subsides_ewCheck _ c)
    refine .trans ?_ (Dev.subsides_event _ c _ _ _)
    refine .trans ?_ (Dev.subsides_awaken _ _)
    refine .trans ?_ (Dev.subsides_filterOps _ _)
    exact s.subsides_modCtx c _ (fun _ => rfl)

theorem Dev.subsides_spoil (s : Dev) (c off n : Nat) : s.Subsides (s.spoil c off n) :=
  Dev.subsides_of_frame rfl (fun _ => rfl) rfl rfl rfl

theorem Dev.subsides_spoilEntry (s : Dev) (c : Nat) (d : UpdDie) : s.Subsides (s.spoilEntry c d) := by
  unfold Dev.spoilEntry
  split
  · refine .trans ?_ (Dev.subsides_spoil _ _ _ _)
    refine .trans ?_ (Dev.subsides_spoil _ _ _ _)
    exact Dev.subsides_of_frame rfl (fun _ => rfl) rfl rfl rfl
  · exact .refl s

theorem Dev.subsides_failList (s : Dev) (c : Nat) (st : Status) : s.Subsides (s.failList c st) := by
  unfold Dev.failList
  dsimp only
  split
  · exact .refl s
  · refine .trans ?_ (Dev.subsides_ewCheck _ c)
    refine .trans ?_ (Dev.subsides_event _ c _ _ _)
    refine .trans ?_ (Dev.subsides_awaken _ _)
    refine .trans ?_ (Dev.subsides_filterOps _ _)
    refine .trans ?_ (Dev.subsides_modCtx _ c _ (fun _ => rfl))
    exact (s.subsides_spoilEntry c _).trans (Dev.subsides_spoilEntry _ c _)

theorem Dev.subsides_discardTiles (s : Dev) (c : Nat) : s.Subsides (s.discardTiles c) := by
  refine .foldl _ (fun d i => ?_) _ _
  split
  · exact d.subsides_modTile c i _ (fun x _ => x.atRest_discardWork)
  · exact .refl d

theorem Dev.subsides_retiredPos (s : Dev) (c : Nat) : s.Subsides (s.retiredPos c).2 := by
  unfold Dev.retiredPos
  dsimp only
  split <;> exact Dev.subsides_of_frame rfl (fun _ => rfl) rfl rfl rfl

theorem Dev.subsides_discardLaunches (s : Dev) (c : Nat) : s.Subsides (s.discardLaunches c) := by
  unfold Dev.discardLaunches
  split
  · exact .refl s
  · refine .trans ?_ (Dev.subsides_modCtx _ c _ (fun _ => rfl))
    exact s.subsides_retiredPos c

/-! ### A device fault (R318) -/

/-- What a device fault does to one context once its tiles are discarded. -/
theorem Dev.discardTiles_subsides_faultCtx (st : Status) (cause : Nat) (s : Dev) (c : Nat) :
    (s.discardTiles c).Subsides (Dev.faultCtx st cause s c) := by
  have pos (d : Dev) : d.Subsides (d.faultPos c).2 := by
    unfold Dev.faultPos
    split
    · exact d.subsides_retiredPos c
    · exact .refl d
  rw [Dev.faultCtx_eq]
  refine .trans ?_ (Dev.subsides_modCtx _ c _ (fun _ => rfl))
  refine .trans ?_ (Dev.subsides_event _ c _ _ _)
  refine .trans ?_ (pos _)
  unfold Dev.faultWork
  refine .trans ?_ (Dev.subsides_discardLaunches _ c)
  refine .trans ?_ (Dev.subsides_failList _ c st)
  refine .trans ?_ (.foldl _ (fun d (e : Nat × Bucket) => d.subsides_failBucket c e.1 st) _ _)
  exact Dev.subsides_modCtx _ c _ (fun _ => rfl)

theorem Dev.subsides_faultCtx (st : Status) (cause : Nat) (s : Dev) (c : Nat) : s.Subsides (Dev.faultCtx st cause s c) :=
  (s.subsides_discardTiles c).trans (Dev.discardTiles_subsides_faultCtx st cause s c)

theorem Dev.subsides_faultNoted (s : Dev) (cause : Nat) : s.Subsides (s.faultNoted cause) := by
  have noted : s.Subsides { s with farr := s.farr.faulted cause, side := s.side.raise 1 } :=
    Dev.subsides_of_frame rfl (fun _ => rfl) rfl rfl rfl
  have ended (d : Dev) : d.Subsides { d with fab := { d.fab with ops := [] } } :=
    ⟨fun _ _ => id, fun _ => rfl, fun _ => ⟨d.hif.hostMem, [], by rw [List.append_nil]⟩, rfl⟩
  unfold Dev.faultNoted
  dsimp only
  have discarded := (noted.trans (Dev.subsides_dropWaiters _ (fun _ => true))).trans (ended _)
  split
  · exact discarded.trans (Dev.subsides_of_frame rfl (fun _ => rfl) rfl rfl rfl)
  · exact discarded

theorem Dev.subsides_deviceFault (s : Dev) (cause : Nat) : s.Subsides (s.deviceFault cause) := by
  rw [Dev.deviceFault_eq]
  exact (s.subsides_faultNoted cause).trans (.foldl _ (Dev.subsides_faultCtx _ cause) _ _)

/-! ## What a device fault has discarded -/

/-- A context's tile set is at rest. -/
def Dev.CtxAtRest (s : Dev) (c : Nat) : Prop := ∀ u, u < (s.ctx c).ntile.toNat → (s.tile c u).AtRest

/-- Steps that each bring their own key into a condition, and take none out of it, bring in every key met. -/
theorem foldl_brings {α : Type} (P : Nat → α → Prop) (f : α → Nat → α) (brings : ∀ a c, P c (f a c))
    (keeps : ∀ a c j, P j a → P j (f a c)) (cs : List Nat) (a : α) : ∀ j, j ∈ cs → P j (cs.foldl f a) := by
  have stays (cs : List Nat) (a : α) (j : Nat) (holds : P j a) : P j (cs.foldl f a) := by
    induction cs generalizing a with
    | nil => exact holds
    | cons c cs ih => exact ih _ (keeps a c j holds)
  induction cs generalizing a with
  | nil => exact fun j none => absurd none List.not_mem_nil
  | cons c cs ih =>
    intro j met
    obtain rfl | later := List.mem_cons.mp met
    · exact stays cs _ _ (brings a j)
    · exact ih _ j later

theorem Dev.atRest_of_unbacked {s : Dev} {c u : Nat} (unbacked : ¬ (s.tile? c u).isSome = true) : (s.tile c u).AtRest := by
  rw [Dev.tile, Option.not_isSome_iff_eq_none.mp unbacked]
  exact Tile.atRest_default

/-- The tiles of a context are at rest once their work is discarded. -/
theorem Dev.atRest_discardTiles (s : Dev) (c u : Nat) (inside : u ∈ s.tilesOf c) : ((s.discardTiles c).tile c u).AtRest := by
  refine foldl_brings (fun u (d : Dev) => (d.tile c u).AtRest) _ (fun d i => ?_) (fun d i j => ?_) _ s u inside
  · split
    · next backed => rw [d.tile_modTile c i _ backed]; exact Tile.atRest_discardWork _
    · next unbacked => exact Dev.atRest_of_unbacked unbacked
  · split
    · exact (d.subsides_modTile c i _ (fun x _ => x.atRest_discardWork)).tiles c j
    · exact id

theorem Dev.ntile_faultView (s : Dev) (j : Nat) : (s.faultView j).ctx.ntile = (s.ctx j).ntile := rfl

/-- The size of a tile set is no work. -/
theorem Dev.ntile_faultCtx (st : Status) (cause : Nat) (s : Dev) (c j : Nat) :
    ((Dev.faultCtx st cause s c).ctx j).ntile = (s.ctx j).ntile := by
  rw [← Dev.ntile_faultView, ← s.ntile_faultView, Dev.faultView_faultCtx]
  split <;> rfl

theorem Dev.ctxAtRest_faultCtx (st : Status) (cause : Nat) (s : Dev) (c : Nat) : (Dev.faultCtx st cause s c).CtxAtRest c := by
  intro u inside
  rw [s.ntile_faultCtx] at inside
  exact (Dev.discardTiles_subsides_faultCtx st cause s c).tiles c u (s.atRest_discardTiles c u (List.mem_range.mpr inside))

theorem Dev.CtxAtRest.faultCtx {s : Dev} {j : Nat} (rest : s.CtxAtRest j) (st : Status) (cause c : Nat) :
    (Dev.faultCtx st cause s c).CtxAtRest j := by
  intro u inside
  rw [s.ntile_faultCtx] at inside
  exact (s.subsides_faultCtx st cause c).tiles j u (rest u inside)

/-- After a device fault every context's tiles are at rest. -/
theorem Dev.ctxAtRest_deviceFault (s : Dev) (cause : Nat) {c : Nat} (h : c < 64) : (s.deviceFault cause).CtxAtRest c := by
  rw [Dev.deviceFault_eq]
  exact foldl_brings (fun c (d : Dev) => d.CtxAtRest c) _ (Dev.ctxAtRest_faultCtx _ cause)
    (fun d c _ rest => rest.faultCtx _ cause c) allCtx _ c (List.mem_range.mpr h)

theorem Dev.ops_deviceFault (s : Dev) (cause : Nat) : (s.deviceFault cause).fab.ops = [] := by
  have none : (s.faultNoted cause).fab.ops = [] := by
    unfold Dev.faultNoted
    dsimp only
    split <;> rfl
  rw [Dev.deviceFault_eq]
  exact (Dev.Subsides.foldl _ (Dev.subsides_faultCtx _ cause) _ _).ops none

/-- Settles O25: the Farrier's registers by `Dev.farr_deviceFault`, the contexts by `Dev.lasting_deviceFault`, and the tiles,
which a later context's discarding leaves at rest, by `Dev.ctxAtRest_deviceFault`. -/
theorem deviceFaultDiscards : Obligations.DeviceFaultDiscards := by
  intro d cause small
  dsimp only
  refine ⟨d.ops_deviceFault cause, ?_, ?_, ?_, fun c h => ?_, fun c u h inside => ?_⟩
  · rw [d.farr_deviceFault]; rfl
  · rw [d.farr_deviceFault]; exact Nat.mod_eq_of_lt small
  · rw [d.farr_deviceFault]; rfl
  · obtain ⟨launches, hold, -, -, -⟩ := Ctx.fields_of_faulted (d.lasting_deviceFault cause h)
    exact ⟨launches, hold⟩
  · obtain ⟨words, prog, startq⟩ := d.ctxAtRest_deviceFault cause h u inside
    exact ⟨words, prog, startq⟩

end Sys2Proof.Machine
end

section
/-! The CXL link (R336 to R342): what is sent once it comes up, the 68-byte fallback, configuration space, CDAT and IDE keys;
O45 and O46. -/
namespace Sys2Proof.Machine
open Sys2Proof

theorem exec_cxlLinkDown (s : State) : exec .cxlLinkDown s = .next (s.withDev s.dev.cxlDown) := rfl
theorem exec_cxlLinkUp (w r : Nat) (f : Bool) (s : State) :
    exec (.cxlLinkUp w r f) s = .next (s.withDev (s.dev.cxlUp w r f)) := rfl
theorem exec_d3hotTransition (b : Bool) (s : State) : exec (.d3hotTransition b) s = .next (s.withDev
    (if s.dev.cfgOpen then { s.dev with hif := { s.dev.hif with d3hot := b } } else s.dev)) := rfl
theorem exec_cdatTableAccess (i : U16) (s : State) :
    exec (.cdatTableAccess i) s = .next (s.withDev (s.dev.cdatRead i.toNat)) := rfl
theorem exec_ideKeyManagement (m : IdeMsg) (s : State) :
    exec (.ideKeyManagement m) s = .next (s.withDev (if s.ideOpen then s.dev.ideKey m else s.dev)) := rfl

/-! ## What waits for the link (R339) -/

theorem Dev.subsides_meetLine (s : Dev) (line : Nat) : s.Subsides (s.meetLine line) := by
  unfold Dev.meetLine
  split
  · exact .refl s
  · dsimp only
    split <;> exact Dev.subsides_of_frame rfl (fun _ => rfl) rfl rfl rfl

theorem Dev.subsides_meetLines (s : Dev) (lines : List Nat) : s.Subsides (s.meetLines lines) := by
  unfold Dev.meetLines
  split
  · exact .refl s
  · exact .foldl _ (fun d (e : Nat × Bool) => d.subsides_meetLine e.1) _ _

theorem Dev.subsides_withPool (s : Dev) (lines reads : List Nat) (act : Dev → Dev) (acts : ∀ d : Dev, d.Subsides (act d)) :
    s.Subsides (s.withPool lines reads act) := by
  unfold Dev.withPool
  dsimp only
  split
  · exact Dev.subsides_of_frame rfl (fun _ => rfl) rfl rfl rfl
  · split
    · exact (s.subsides_meetLines reads).trans (Dev.subsides_deviceFault _ 0x03)
    · exact (s.subsides_meetLines reads).trans (acts _)

theorem Tile.AtRest.shadow {x : Tile} (rest : x.AtRest) (l : SfuReq) (bs : List Byte) : (x.shadow l bs).AtRest := by
  obtain ⟨words, prog, startq⟩ := rest
  unfold Tile.shadow
  dsimp only
  split <;> split <;> exact ⟨words, prog, startq⟩

theorem Dev.subsides_sfuEnd (s : Dev) (st : Status) : s.Subsides (s.sfuEnd st) :=
  Dev.subsides_of_frame rfl (fun _ => rfl) rfl rfl rfl

theorem Dev.subsides_sfuFinish (s : Dev) (a : Option Addr) : s.Subsides (s.sfuFinish a) := by
  unfold Dev.sfuFinish
  dsimp only
  split
  · exact s.subsides_sfuEnd _
  · split
    · refine .trans ?_ (Dev.subsides_sfuEnd _ _)
      exact .foldl _ (fun d i => d.subsides_modTile _ i _ (fun x rest => rest.shadow _ _)) _ _
    · exact s.subsides_sfuEnd _

theorem Dev.subsides_sfuRun (s : Dev) : s.Subsides s.sfuRun := by
  have finish (a : Option Addr) := s.subsides_sfuFinish a
  unfold Dev.sfuRun
  split
  · exact .refl s
  · split
    · exact finish _
    · split
      · split
        · exact s.subsides_withPool _ _ _ (fun d => d.subsides_sfuFinish _)
        · exact finish _
      · split
        · exact finish _
        · exact .refl s
      · exact finish _

theorem Dev.subsides_flushHost (s : Dev) : s.Subsides s.flushHost := by
  unfold Dev.flushHost
  split
  · refine .trans ?_ (Dev.subsides_sfuRun _)
    refine .foldl _ (fun d c => ?_) _ _
    split
    · exact .refl d
    · exact d.subsides_flushEvents c
  · exact .refl s

/-! ## The link comes up (R337, R338) -/

/-- A link that has trained: its width and rate, its protocols, and the messages that were held on their way. -/
def Hif.trained (h : Hif) (width rate : Nat) (flit256 recovery : Bool) : Hif :=
  { h with
    up := true, width := BitVec.ofNat 4 width, rate := BitVec.ofNat 4 rate, flit68 := !flit256, io := true
    cache := flit256 && !recovery, mem := flit256 && !recovery && h.hdmCommitted
    msgs := h.msgs ++ h.heldMsgs, heldMsgs := [] }

theorem Dev.cxlUp_of_trained {s : Dev} {w r : Nat} {f : Bool} (released : s.up.cxl = true) (down : s.hif.up = false)
    (width : w ∈ [1, 2, 4, 8]) (pos : 0 < r) (rate : r ≤ 6) (full : f = true ∨ (w = 8 ∧ r = 6)) :
    s.cxlUp w r f = ({ s with hif := s.hif.trained w r f s.up.recovery } : Dev).flushHost := by
  refine if_neg ?_
  have nonzero : r ≠ 0 := Nat.ne_of_gt pos
  have listed : [1, 2, 4, 8].contains w = true := List.contains_iff_mem.mpr width
  have slow : (!f && (w != 8 || r != 6)) = false := by
    obtain rfl | ⟨rfl, rfl⟩ := full
    · rfl
    · exact Bool.and_false _
  rw [released, down, listed, slow, decide_eq_false nonzero, decide_eq_false (Nat.not_lt.mpr rate)]
  exact Bool.false_ne_true

/-- Without 256B flits a link that is narrower than x8 or slower than 64 GT/s stays down. -/
theorem Dev.cxlUp_of_slow (s : Dev) {w r : Nat} (slow : w ≠ 8 ∨ r ≠ 6) : s.cxlUp w r false = s := by
  refine if_pos ?_
  have refused : (!false && (w != 8 || r != 6)) = true := by
    obtain narrow | slow := slow
    · simp [narrow]
    · simp [slow]
  rw [refused, Bool.or_true]

/-- The host's memory is not reached through the fallback, so that what waits for it goes on waiting (R338). -/
theorem Dev.flushHost_of_fallback {s : Dev} (fallback : s.hif.flit68 = true) : s.flushHost = s := by
  refine if_neg ?_
  rw [Hif.hostUp, fallback, Bool.not_true, Bool.and_false]
  exact Bool.false_ne_true

theorem Dev.hifLinkVal_testBit (d : Dev) : d.hifLinkVal.testBit 7 = d.hif.flit68 := by
  have small (b : Bool) : b2n b ≤ 1 := by cases b <;> decide
  have io := small d.hif.io
  have cache := small d.hif.cache
  have mem := small d.hif.mem
  have bi := small d.hif.biEn
  have ide := small d.hif.ide
  have up := small d.hif.up
  simp only [Dev.hifLinkVal, at', Nat.testBit_eq_decide_div_mod_eq]
  cases d.hif.flit68 with
  | true => exact decide_eq_true (by rw [show b2n true = 1 from rfl]; omega)
  | false => exact decide_eq_false (by rw [show b2n false = 0 from rfl]; omega)

/-! ## Records while the host's memory cannot be reached (R338, R339) -/

theorem Dev.canRead_of_fallback {s : Dev} (fallback : s.hif.flit68 = true) (c : Nat) : s.canRead c = false := by
  simp [Dev.canRead, Hif.hostUp, fallback]

theorem Dev.readRecord_of_unread {s : Dev} {c : Nat} (unread : s.canRead c = false) (type : Nat)
    (accept : Dev → Launch → Dev) : s.readRecord c type accept = s := by
  simp [Dev.readRecord, unread]

theorem Dev.hdmCommit_of_fallback {s : Dev} (fallback : s.hif.flit68 = true) (base size : Nat) (bi : Bool) :
    s.hdmCommit base size bi = s := by
  simp [Dev.hdmCommit, fallback]

/-- Settles O46: the fallback trains at its one width and rate (`Dev.cxlUp_of_trained`, `Dev.cxlUp_of_slow`), and while it is
in force no record is read and no commit taken. -/
theorem fallbackIsCxlIoAlone : Obligations.FallbackIsCxlIoAlone := by
  refine ⟨fun s released down => ⟨_, exec_cxlLinkUp 8 6 false s, ?_⟩, fun w r s slow => ?_, fun s fallback =>
    ⟨fun b z k => ?_, fun c i reads => ?_⟩⟩
  · rw [Dev.cxlUp_of_trained released down (by decide) (by decide) (by decide) (.inr ⟨rfl, rfl⟩),
      Dev.flushHost_of_fallback rfl]
    exact ⟨rfl, rfl, rfl, rfl, rfl, Dev.hifLinkVal_testBit _⟩
  · rw [exec_cxlLinkUp, s.dev.cxlUp_of_slow slow]
  · rw [exec_hdmCommit, Dev.hdmCommit_of_fallback fallback]
  · have recordReader : ∃ n, (n, i) ∈ [(1, Instr.load c), (2, .start c), (3, .loadChain c), (4, .abort c), (5, .fence c)] := by
      simp only [List.mem_cons, List.not_mem_nil, or_false] at reads
      obtain rfl | rfl | rfl | rfl | rfl := reads
      · exact ⟨1, by simp⟩
      · exact ⟨3, by simp⟩
      · exact ⟨2, by simp⟩
      · exact ⟨4, by simp⟩
      · exact ⟨5, by simp⟩
    obtain ⟨n, reader⟩ := recordReader
    obtain ⟨accept, runs⟩ := exec_readsRecord c s _ reader
    rw [runs, Dev.readRecord_of_unread (Dev.canRead_of_fallback fallback c.val)]

/-! ## Configuration space, CDAT and IDE keys (R336, R340, R342) -/

theorem Dev.cdatRead_of_entry {d : Dev} {i : Nat} {e : CdatEntry} (answers : d.cfgOpen = true)
    (entry : cdatEntries[i]? = some e) : d.cdatRead i = d.doeReply (.cdat e) := by
  rw [Dev.cdatRead, if_pos answers, entry]

theorem Dev.cdatRead_of_none {d : Dev} {i : Nat} (answers : d.cfgOpen = true) (beyond : 5 ≤ i) :
    d.cdatRead i = d.doeReply .error := by
  have none : cdatEntries[i]? = none := List.getElem?_eq_none beyond
  rw [Dev.cdatRead, if_pos answers, none]

theorem State.ideOpen_of_closed {s : State} (closed : s.rst.spdm ≠ .established ∨ s.rst.opts.ide = false) :
    s.ideOpen = false := by
  obtain spdm | option := closed
  · rw [State.ideOpen, beq_eq_false_iff_ne.mpr spdm]; rfl
  · rw [State.ideOpen, option, Bool.and_false]; rfl

/-- A key in place comes into use. -/
theorem Dev.ideKey_go {d : Dev} {st : BitVec 8} (placed : (Tab.find d.hif.ideKeys st.toNat).isSome = true) :
    (d.ideKey (.keySetGo st)).hif.ide = true := by
  simp only [Dev.ideKey, placed, if_true]; rfl

/-- Settles O45: the link trains (`Dev.cxlUp_of_trained`) and sends what waited for it, which only adds messages
(`Dev.subsides_flushHost`); an open configuration space answers each access by its lemma. -/
theorem cxlLinkAndConfiguration : Obligations.CxlLinkAndConfiguration := by
  refine ⟨⟨fun s up => ?_, fun w r f s released down width pos rate full => ?_⟩, fun s released up => ?_⟩
  · rw [exec_cxlLinkDown, Dev.cxlDown, up]; rfl
  · refine ⟨_, exec_cxlLinkUp w r f s, ?_⟩
    rw [Dev.cxlUp_of_trained released down width pos rate full]
    obtain ⟨mem, msgs, sent⟩ := (Dev.subsides_flushHost { s.dev with hif := s.dev.hif.trained w r f s.dev.up.recovery }).hif rfl
    have narrow : w < 16 := by
      simp only [List.mem_cons, List.not_mem_nil, or_false] at width
      omega
    dsimp only
    rw [sent]
    refine ⟨rfl, Nat.mod_eq_of_lt narrow, Nat.mod_eq_of_lt (by omega), rfl, rfl, fun fallback => ?_, rfl, ⟨msgs, rfl⟩, rfl⟩
    subst fallback
    exact ⟨rfl, rfl⟩
  · have answers : s.dev.cfgOpen = true := Bool.and_eq_true_iff.mpr ⟨released, up⟩
    refine ⟨fun b => ?_, fun i e entry => ?_, fun i beyond => ?_, fun session option => ⟨fun m => ?_, fun st k => ?_, fun st placed => ?_⟩,
      fun closed m => ?_⟩
    · rw [exec_d3hotTransition, if_pos answers]
    · rw [exec_cdatTableAccess, Dev.cdatRead_of_entry answers entry]
    · rw [exec_cdatTableAccess, Dev.cdatRead_of_none answers beyond]
    · have manages : s.ideOpen = true := by rw [State.ideOpen, session, option, answers]; rfl
      rw [exec_ideKeyManagement, if_pos manages]
    · exact (Tab.find_set _ _ _ _).trans (if_pos rfl)
    · exact Dev.ideKey_go placed
    · rw [exec_ideKeyManagement, State.ideOpen_of_closed closed]; rfl

end Sys2Proof.Machine
end

section
/-! SPDM requests over the DOE mailbox (R402): each in its order, and out of order answered with an error; O59. -/
namespace Sys2Proof.Machine
open Sys2Proof

theorem exec_getVersion (s : State) : exec .getVersion s = .next s.getVersion := rfl
theorem exec_getCapabilities (s : State) : exec .getCapabilities s = .next s.getCapabilities := rfl
theorem exec_negotiateAlgorithms (s : State) :
    exec (.negotiateAlgorithms true true true true) s = .next (s.negotiate true) := rfl
theorem exec_getMeasurements (i : Byte) (n : BitVec 256) (sign : Bool) (s : State) :
    exec (.getMeasurements i n sign) s = .next (s.measure i.toNat n sign) := rfl
theorem exec_keyExchange (x : List Byte) (s : State) : exec (.keyExchange x) s = .next (s.keyExchange x) := rfl
theorem exec_finish (valid : Bool) (s : State) : exec (.finish valid) s = .next (s.finishSession valid) := rfl
theorem exec_endSession (s : State) : exec .endSession s = .next s.endSession := rfl

/-- A request reaches running firmware over a link that is up. -/
def State.SpdmReached (s : State) : Prop := s.rst.fwRunning = true ∧ s.dev.up.cxl = true ∧ s.dev.hif.up = true

/-- The device draws 96 bytes of its own. -/
theorem Dev.drawExchange_length (d : Dev) : d.drawExchange.1.length = 96 := by
  simp [Dev.drawExchange, leBytes_length]

section
variable {s : State} (reached : s.SpdmReached)
include reached

theorem State.onSpdm_of_reached (f : State → State) : s.onSpdm f = f s := by
  obtain ⟨running, released, up⟩ := reached
  rw [State.onSpdm, running, released, up]
  rfl

theorem State.spdmIn_of_ok {ok : Bool} (inOrder : ok = true) (f : State → State) : s.spdmIn ok f = f s := by
  rw [State.spdmIn, State.onSpdm_of_reached reached, if_pos inOrder]

theorem State.spdmIn_of_refused {ok : Bool} (refused : ok = false) (f : State → State) : s.spdmIn ok f = s.reply .error := by
  rw [State.spdmIn, State.onSpdm_of_reached reached, refused]
  rfl

/-- One block, signed over the nonce and the block. -/
theorem State.measure_of_one {i : Nat} (n : BitVec 256) (low : 1 ≤ i) (high : i ≤ 6) (ready : s.rst.spdm.ready = true) :
    s.measure i n true = s.reply (.measurements [(i, s.measurement i)]
      (some (Config.romSign s.rst.attKey (leBytes 32 n.toNat ++ s.measurement i)))) := by
  have named : measurementIndices i = [i] := by
    have single : i ≠ 0xFF := by omega
    simp [measurementIndices, single, low, high]
  rw [State.measure, named, State.spdmIn_of_ok reached (by rw [ready]; rfl)]
  simp

theorem State.keyExchange_of_negotiated {x : List Byte} (negotiated : s.rst.spdm = .negotiated) (length : x.length = 96) :
    s.keyExchange x = ((s.withDev s.dev.drawExchange.2).spdmTo .session).reply (.keyExchange s.dev.drawExchange.1
      (Config.romSign s.rst.attKey (x ++ s.dev.drawExchange.1))) := by
  rw [State.keyExchange, State.spdmIn_of_ok reached (by rw [negotiated, length]; rfl)]

end

/-- Settles O59: a request reaches the firmware, and is in order or not (`State.spdmIn_of_ok`, `State.spdmIn_of_refused`). -/
theorem spdmRequestsRunInOrder : Obligations.SpdmRequestsRunInOrder := by
  intro s running released up
  have reached : s.SpdmReached := ⟨running, released, up⟩
  refine ⟨?_, fun spdm => ?_, fun spdm => ?_, fun i n ready => ?_, fun x spdm length => ?_, fun spdm => ⟨?_, ?_, ?_⟩,
    fun spdm => ?_, fun spdm i request => ?_⟩
  · rw [exec_getVersion, State.getVersion, State.onSpdm_of_reached reached]
  · rw [exec_getCapabilities, State.getCapabilities, State.spdmIn_of_ok reached (by rw [spdm]; rfl)]
  · rw [exec_negotiateAlgorithms, State.negotiate, State.spdmIn_of_ok reached (by rw [spdm]; rfl)]
  · have index : (BitVec.ofNat 8 (i.val + 1)).toNat = i.val + 1 := Nat.mod_eq_of_lt (by omega)
    rw [exec_getMeasurements, index, State.measure_of_one reached n (by omega) (by omega) ready]
  · refine ⟨s.dev.drawExchange.1, _, exec_keyExchange x s, ?_⟩
    rw [State.keyExchange_of_negotiated reached spdm length]
    exact ⟨rfl, rfl, s.dev.drawExchange_length⟩
  · rw [exec_finish, State.finishSession, State.spdmIn_of_ok reached (by rw [spdm]; rfl), if_pos rfl]
  · rw [exec_finish, State.finishSession, State.spdmIn_of_ok reached (by rw [spdm]; rfl)]
    rfl
  · rw [exec_endSession, State.endSession, State.spdmIn_of_ok reached (by rw [spdm]; rfl)]
  · rw [exec_endSession, State.endSession, State.spdmIn_of_ok reached (by rw [spdm]; rfl)]
  · simp only [List.mem_cons, List.not_mem_nil, or_false] at request
    obtain rfl | rfl | rfl | rfl := request
    · rw [exec_getCapabilities, State.getCapabilities, State.spdmIn_of_refused reached (by rw [spdm]; rfl)]
    · rw [exec_negotiateAlgorithms, State.negotiate, State.spdmIn_of_refused reached (by rw [spdm]; rfl)]
    · rw [exec_finish, State.finishSession, State.spdmIn_of_refused reached (by rw [spdm]; rfl)]
    · rw [exec_endSession, State.endSession, State.spdmIn_of_refused reached (by rw [spdm]; rfl)]

end Sys2Proof.Machine
end

section
/-! The SEC block (R395, R397, R400, R401): an operation that is accepted, what it does, and what a refused one leaves; O58. -/
namespace Sys2Proof.Machine
open Sys2Proof

theorem exec_optpush (len : BitVec 25) (s : State) :
    exec (.optpush len) s = .next (s.secOp false (some len) State.optPush) := rfl
theorem exec_assign (len : BitVec 25) (s : State) :
    exec (.assign len) s = .next (s.secOp false (some len) State.assignOp) := rfl
theorem exec_fwpush (len : BitVec 25) (ks : List Host.Cell) (s : State) :
    exec (.fwpush ⟨len, ks, none⟩) s = .next (s.secOp true (some len) (State.fwPush ks)) := rfl

/-- The state with LEN written. -/
def State.withLen (s : State) (len : BitVec 25) : State := s.withRst { s.rst with len := len }

/-- An operation of the SEC block that is not ignored. -/
def State.secDone (s : State) (len : BitVec 25) (f : State → Status × State) : State :=
  (f (s.withLen len)).2.withRst { (f (s.withLen len)).2.rst with secStatus := (f (s.withLen len)).1.byte }

section
variable {s : State} (reached : s.dev.secOpen = true) (idle : s.rst.secPend = false) (len : BitVec 25)
include reached idle

theorem State.secOp_of_open {inRecovery : Bool} (allowed : inRecovery = true ∨ s.dev.up.recovery = false)
    (f : State → Status × State) : s.secOp inRecovery (some len) f = s.secDone len f := by
  have refused : (s.dev.up.recovery && !inRecovery) = false := by
    obtain rfl | outside := allowed
    · exact Bool.and_false _
    · rw [outside]; rfl
  rw [State.secOp, reached, idle, refused]
  rfl

/-! ### FWPUSH (R397) -/

/-- A push that a reset is to interrupt. -/
theorem exec_fwpush_of_interrupted (n : Nat) :
    exec (.fwpush ⟨len, [], some n⟩) s = .next ((s.withLen len).fwPushPart n) := by
  show Host.Outcome.next (if !s.dev.secOpen || s.rst.secPend then s else (s.withLen len).fwPushPart n) = _
  rw [reached, idle]
  rfl

end

/-! ### What an operation answers -/

theorem State.optPush_of_done {e : State} (accepted : e.rst.optStatus e.secImage e.secFits = .done) :
    e.optPush = (.done, e.withRst (if e.rst.opts.copyB then { e.rst with optA := writeCopy e.rst.optA e.secImage }
      else { e.rst with optB := writeCopy e.rst.optB e.secImage })) := by
  simp only [State.optPush, accepted, if_true]

section
variable {e : State} (ks : List Host.Cell)

/-- A push's second read. -/
def State.afterStores (e : State) (ks : List Host.Cell) : State := e.withDev (e.dev.hostStores ks)

section
variable (valid : fwValid e.rst.vendorKey e.secImage e.rst.opts.opKey = true) (fits : e.secFits = true)
include valid fits

theorem State.fwPush_of_valid : e.fwPush ks =
    let u := e.afterStores ks
    let r := u.rst.storing (u.secImage.drop 64)
    if sha512 u.secImage = sha512 e.secImage then
      (.done, u.withRst { r with fwStore := Mem.writeN r.fwStore 0 (u.secImage.take 64) })
    else (.invalidWord, u.withRst r) := by
  have accepted : firstRefusal [(!fwValid e.rst.vendorKey e.secImage e.rst.opts.opKey, .invalidWord),
      (!e.secFits, .range)] = .done := by
    rw [valid, fits]; rfl
  exact if_pos accepted

/-- An image that reads the same again is written, its first word last. -/
theorem State.fwPush_of_same (same : sha512 (e.afterStores ks).secImage = sha512 e.secImage) : e.fwPush ks =
    (.done, (e.afterStores ks).withRst { (e.afterStores ks).rst.storing ((e.afterStores ks).secImage.drop 64) with
      fwStore := Mem.writeN ((e.afterStores ks).rst.storing ((e.afterStores ks).secImage.drop 64)).fwStore 0
        ((e.afterStores ks).secImage.take 64) }) :=
  (State.fwPush_of_valid ks valid fits).trans (if_pos same)

theorem State.fwPush_of_changed (changed : sha512 (e.afterStores ks).secImage ≠ sha512 e.secImage) : e.fwPush ks =
    (.invalidWord, (e.afterStores ks).withRst ((e.afterStores ks).rst.storing ((e.afterStores ks).secImage.drop 64))) :=
  (State.fwPush_of_valid ks valid fits).trans (if_neg changed)

/-- A push in progress, of which some words are written. -/
theorem State.fwPushPart_of_valid (n : Nat) : e.fwPushPart n =
    e.withRst { e.rst.storing ((e.secImage.drop 64).take (64 * n)) with secPend := true } := by
  have accepted : (e.fwPush []).1 = .done := by
    rw [State.fwPush_of_same [] valid fits rfl]
  exact if_pos accepted

end

theorem State.fwPush_of_invalid (invalid : fwValid e.rst.vendorKey e.secImage e.rst.opts.opKey = false) :
    e.fwPush ks = (.invalidWord, e.afterStores ks) := by
  have refused : firstRefusal [(!fwValid e.rst.vendorKey e.secImage e.rst.opts.opKey, .invalidWord),
      (!e.secFits, .range)] = .invalidWord := by
    rw [invalid]; rfl
  show (if firstRefusal [(!fwValid e.rst.vendorKey e.secImage e.rst.opts.opKey, .invalidWord),
      (!e.secFits, .range)] = Status.done then _ else (firstRefusal [(!fwValid e.rst.vendorKey e.secImage e.rst.opts.opKey,
      .invalidWord), (!e.secFits, .range)], e.afterStores ks)) = _
  rw [refused]
  rfl

end

/-! ### ASSIGN (R400, R401) -/

/-- The record that ASSIGN reads. -/
def State.assignRecord (s : State) : List Byte := Mem.readN s.dev.hif.hostMem s.rst.src.toNat 128

theorem State.assignOp_of_done {e : State} (accepted : e.assignStatus e.assignRecord = .done) :
    e.assignOp = (.done, e.withDev (e.dev.assign (parseAssignment e.assignRecord))) := by
  show (e.assignStatus e.assignRecord, if e.assignStatus e.assignRecord = Status.done then _ else e) = _
  rw [accepted]
  rfl

theorem State.assignOp_of_refused {e : State} (refused : e.assignStatus e.assignRecord ≠ .done) :
    e.assignOp = (e.assignStatus e.assignRecord, e) :=
  congrArg (Prod.mk _) (if_neg refused)

/-- Settles O58: an operation that is not ignored (`State.secOp_of_open`) does what its checks decide. -/
theorem securityOperations : Obligations.SecurityOperations := by
  intro len s reached idle
  dsimp only
  refine ⟨fun outside accepted copy => ?_, fun outside accepted copy => ?_, fun ks valid fits => ⟨fun same => ?_, fun other => ?_⟩,
    fun n valid fits => ?_, fun invalid => ?_, fun outside accepted => ?_, fun outside refused => ?_⟩
  · rw [exec_optpush, State.secOp_of_open reached idle len (.inr outside), State.secDone,
      State.optPush_of_done (e := s.withLen len) accepted, if_neg (by rw [State.withLen, copy]; exact Bool.false_ne_true)]
    rfl
  · rw [exec_optpush, State.secOp_of_open reached idle len (.inr outside), State.secDone,
      State.optPush_of_done (e := s.withLen len) accepted, if_pos (by rw [State.withLen, copy])]
    rfl
  · rw [exec_fwpush, State.secOp_of_open reached idle len (.inl rfl), State.secDone,
      State.fwPush_of_same (e := s.withLen len) ks valid fits same]
    rfl
  · rw [exec_fwpush, State.secOp_of_open reached idle len (.inl rfl), State.secDone,
      State.fwPush_of_changed (e := s.withLen len) ks valid fits other]
    rfl
  · rw [exec_fwpush_of_interrupted reached idle, State.fwPushPart_of_valid (e := s.withLen len) valid fits]
    rfl
  · rw [exec_fwpush, State.secOp_of_open reached idle len (.inl rfl), State.secDone,
      State.fwPush_of_invalid (e := s.withLen len) [] invalid]
    rfl
  · refine ⟨_, exec_assign len s, ?_⟩
    rw [State.secOp_of_open reached idle len (.inr outside), State.secDone,
      State.assignOp_of_done (e := s.withLen len) accepted]
    exact ⟨rfl, rfl, rfl, rfl, rfl⟩
  · rw [exec_assign, State.secOp_of_open reached idle len (.inr outside), State.secDone,
      State.assignOp_of_refused (e := s.withLen len) refused]
    rfl

end Sys2Proof.Machine
end

section
/-! The release order (R390): what a step does when it comes next, and that it does nothing otherwise; O55. -/
namespace Sys2Proof.Machine
open Sys2Proof

theorem exec_alwaysOnRelease (s : State) : exec .alwaysOnRelease s = .next s.alwaysOn := rfl
theorem exec_optionLoading (s : State) : exec .optionLoading s = .next s.optionLoading := rfl
theorem exec_groomCoresRelease (s : State) : exec .groomCoresRelease s = .next s.groomCores := rfl
theorem exec_firmwareVerification (s : State) : exec .firmwareVerification s = .next s.verify := rfl
theorem exec_hbmRelease (s : State) : exec .hbmRelease s = .next s.hbmRelease := rfl
theorem exec_dunindRelease (s : State) : exec .dunindRelease s = .next s.dunindRelease := rfl
theorem exec_cxlRelease (s : State) : exec .cxlRelease s = .next s.cxlRelease := rfl
theorem exec_tilesRelease (p : Byte) (s : State) : exec (.tilesRelease p) s = .next (s.tilesRelease p) := rfl

/-- A release that begins records the source of the reset and changes nothing else. -/
theorem Rst.begin'_eq (r : Rst) : ∃ c k, r.begin' = { r with cause := c, core := k, why := none } := by
  unfold Rst.begin'
  split
  · next none => exact ⟨r.cause, r.core, by rw [← none]⟩
  · exact ⟨_, _, rfl⟩

/-- The state in which a step of the release acts. -/
def State.begun (s : State) : State := s.withRst s.rst.begin'

section
variable {s : State} {n : Nat} (act : State → State)

theorem State.release_of_next (now : s.rst.nextStep = n) : s.release n act = act s.begun := if_pos now

theorem State.release_of_other (other : s.rst.nextStep ≠ n) : s.release n act = s := if_neg other

end

/-- Step `n` was completed, `next` comes after it, and what the release does not concern is kept. -/
def State.Completes (s t : State) (n next : Nat) : Prop :=
  t.rst.boot = n ∧ t.rst.nextStep = next ∧ t.rst.why = none ∧ t.rst.rollback = s.rst.rollback ∧
    t.rst.fwRunning = s.rst.fwRunning ∧ t.dev.ctxs = s.dev.ctxs

/-- What a step's action does to the state in which it acts. -/
def State.Performs (e t : State) (n next : Nat) : Prop :=
  t.rst.boot = n ∧ t.rst.nextStep = next ∧ t.rst.why = e.rst.why ∧ t.rst.rollback = e.rst.rollback ∧
    t.rst.fwRunning = e.rst.fwRunning ∧ t.dev.ctxs = e.dev.ctxs

theorem State.Performs.completes {s t : State} {n next : Nat} (performs : s.begun.Performs t n next) :
    s.Completes t n next := by
  obtain ⟨boot, nextStep, why, rollback, running, ctxs⟩ := performs
  obtain ⟨c, k, begun⟩ := s.rst.begin'_eq
  have rst : s.begun.rst = _ := begun
  rw [rst] at why rollback running
  exact ⟨boot, nextStep, why, rollback, running, ctxs⟩

/-- A command that runs step `n` when it comes next, and else does nothing. -/
theorem State.release_step {s : State} {n next : Nat} {act : State → State}
    (performs : s.begun.Performs (act s.begun) n next) :
    (s.rst.nextStep = n → s.Completes (s.release n act) n next) ∧ (s.rst.nextStep ≠ n → s.release n act = s) :=
  ⟨fun now => State.release_of_next act now ▸ performs.completes, State.release_of_other act⟩

/-! ### The steps -/

theorem State.alwaysOn_step {s : State} :
    (s.rst.nextStep = 1 → s.dev.pwr.tripN = false → s.Completes s.alwaysOn 1 2) ∧
      (s.rst.nextStep ≠ 1 → s.alwaysOn = s) := by
  obtain ⟨runs, waits⟩ := State.release_step (s := s) (n := 1) (next := 2)
    (act := fun s => { s with rst := s.rst.done 1 2 }) ⟨rfl, rfl, rfl, rfl, rfl, rfl⟩
  refine ⟨fun now cold => ?_, fun other => ?_⟩
  · rw [State.alwaysOn, cold]
    exact runs now
  · rw [State.alwaysOn, waits other, ite_self]

theorem State.optionLoading_step {s : State} :
    (s.rst.nextStep = 2 → s.Completes s.optionLoading 2 3) ∧ (s.rst.nextStep ≠ 2 → s.optionLoading = s) :=
  State.release_step ⟨rfl, rfl, rfl, rfl, rfl, rfl⟩

theorem State.groomCores_step {s : State} :
    (s.rst.nextStep = 3 → s.Completes s.groomCores 3 4) ∧ (s.rst.nextStep ≠ 3 → s.groomCores = s) :=
  State.release_step ⟨rfl, rfl, rfl, rfl, rfl, rfl⟩

theorem State.hbmRelease_step {s : State} :
    (s.rst.nextStep = 5 → s.dev.pwr.ramp = false → s.Completes s.hbmRelease 5 6) ∧
      (s.rst.nextStep ≠ 5 → s.hbmRelease = s) := by
  obtain ⟨runs, waits⟩ := State.release_step (s := s) (n := 5) (next := 6)
    (act := fun s => { s with rst := s.rst.done 5 6, dev := { s.dev with up := { s.dev.up with hbm := true } } })
    ⟨rfl, rfl, rfl, rfl, rfl, rfl⟩
  refine ⟨fun now settled => ?_, fun other => ?_⟩
  · rw [State.hbmRelease, settled]
    exact runs now
  · rw [State.hbmRelease, waits other, ite_self]

/-- Step 7 is passed over in a warm release. -/
theorem State.dunindRelease_step {s : State} :
    (s.rst.nextStep = 6 → s.Completes s.dunindRelease 6 (if s.rst.warmRelease then 8 else 7)) ∧
      (s.rst.nextStep ≠ 6 → s.dunindRelease = s) := by
  have warm : s.begun.rst.warmRelease = s.rst.warmRelease := by
    obtain ⟨c, k, begun⟩ := s.rst.begin'_eq
    exact (congrArg Rst.warmRelease begun).trans rfl
  exact State.release_step ⟨rfl, by rw [← warm]; rfl, rfl, rfl, rfl, rfl⟩

theorem State.cxlRelease_step {s : State} :
    (s.rst.nextStep = 7 → s.dev.up.recovery = false → s.Completes s.cxlRelease 7 8) ∧
      (s.rst.nextStep ≠ 7 → s.cxlRelease = s) := by
  refine ⟨fun now normal => ?_, State.release_of_other _⟩
  rw [State.cxlRelease, State.release_of_next _ now]
  refine State.Performs.completes ?_
  have rst : (if s.begun.dev.up.recovery then { s.begun.rst with nextStep := 9 } else s.begun.rst.done 7 8)
      = s.begun.rst.done 7 8 := if_neg (by rw [State.begun, normal]; exact Bool.false_ne_true)
  simp only [rst]
  exact ⟨rfl, rfl, rfl, rfl, rfl, rfl⟩

/-- In recovery the CXL interface alone is released, and BOOT stays (R398). -/
theorem State.cxlRelease_of_recovery {s : State} (now : s.rst.nextStep = 7) (recovery : s.dev.up.recovery = true) :
    s.cxlRelease.dev.up.cxl = true ∧ s.cxlRelease.rst.nextStep = 9 ∧ s.cxlRelease.rst.boot = s.rst.boot := by
  obtain ⟨c, k, begun⟩ := s.rst.begin'_eq
  have rst : (if s.begun.dev.up.recovery then { s.begun.rst with nextStep := 9 } else s.begun.rst.done 7 8)
      = { s.begun.rst with nextStep := 9 } := if_pos recovery
  rw [State.cxlRelease, State.release_of_next _ now]
  rw [rst]
  exact ⟨rfl, rfl, (congrArg Rst.boot begun).trans rfl⟩

/-- A spare that passes its self-test keeps its place. -/
theorem Dev.testSpare_of_pass {pass : Nat → Bool} (d : Dev) {p : Nat} (passes : pass p = true) : d.testSpare pass p = d :=
  if_neg (by rw [passes, Bool.not_true, Bool.and_false]; exact Bool.false_ne_true)

/-- Spares that all pass change nothing. -/
theorem Dev.foldl_testSpare_of_pass {pass : Nat → Bool} (d : Dev) {ps : List Nat} (passes : ∀ p ∈ ps, pass p = true) :
    ps.foldl (Dev.testSpare pass) d = d := by
  induction ps with
  | nil => rfl
  | cons p ps ih =>
    obtain ⟨first, rest⟩ := List.forall_mem_cons.mp passes
    rw [List.foldl_cons, Dev.testSpare_of_pass d first, ih rest]

theorem State.tilesRelease_step {s : State} :
    (s.rst.nextStep = 8 → s.Completes (s.tilesRelease 0xFF) 8 9) ∧
      (∀ p, s.rst.nextStep ≠ 8 → s.tilesRelease p = s) := by
  refine ⟨fun now => ?_, fun p => State.release_of_other _⟩
  have passes : ∀ p ∈ spareTiles, (0xFF : Byte).getLsbD (spareTiles.idxOf p) = true := by decide
  rw [State.tilesRelease, State.release_of_next _ now]
  refine State.Performs.completes ?_
  simp only [Dev.foldl_testSpare_of_pass _ passes]
  exact ⟨rfl, rfl, rfl, rfl, rfl, rfl⟩

/-! ### Step 4 (R396) -/

/-- The image in the firmware store. -/
def Rst.storedImage (r : Rst) : List Byte := fwImage (readMem r.fwStore)

/-- The image in the store verifies and is not older than the counter. -/
def Rst.imageAccepted (r : Rst) : Bool :=
  fwValid r.vendorKey r.storedImage r.opts.opKey && decide (r.rollback.toNat ≤ (fwSvn r.storedImage).toNat)

theorem Rst.imageAccepted_begin' (r : Rst) : r.begin'.imageAccepted = r.imageAccepted := by
  obtain ⟨c, k, begun⟩ := r.begin'_eq
  rw [begun]
  rfl

/-- Firmware that is accepted runs, with a new attestation key. -/
theorem State.verify_of_accepted {s : State} (now : s.rst.nextStep = 4) (accepted : s.rst.imageAccepted = true) :
    s.verify.rst.fwRunning = true ∧ s.verify.rst.fwOk = true ∧ s.verify.rst.boot = 4 ∧ s.verify.rst.nextStep = 5 ∧
      s.verify.rst.runSvn = fwSvn s.rst.storedImage ∧ s.verify.rst.attKey = Config.attestationKey s.rst.boots ∧
      s.verify.dev.up.recovery = false ∧ s.verify.dev.ctxs = s.dev.ctxs := by
  obtain ⟨c, k, begun⟩ := s.rst.begin'_eq
  have rst : s.begun.rst = _ := begun
  have runs : s.verify = _ := (State.release_of_next _ now).trans
    (if_pos ((Rst.imageAccepted_begin' s.rst).trans accepted))
  rw [runs]
  refine ⟨rfl, rfl, rfl, rfl, ?_, ?_, rfl, rfl⟩
  · show fwSvn s.begun.rst.storedImage = _
    rw [rst]; rfl
  · show Config.attestationKey s.begun.rst.boots = _
    rw [rst]

/-- Without firmware that is accepted the device enters recovery (R398). -/
theorem State.verify_of_refused {s : State} (now : s.rst.nextStep = 4) (refused : s.rst.imageAccepted = false) :
    s.verify.rst.fwRunning = s.rst.fwRunning ∧ s.verify.rst.nextStep = 7 ∧ s.verify.dev.up.recovery = true ∧
      s.verify.rst.boot = s.rst.boot := by
  obtain ⟨c, k, begun⟩ := s.rst.begin'_eq
  have enters : s.verify = _ := (State.release_of_next _ now).trans
    (if_neg (Bool.eq_false_iff.mp ((Rst.imageAccepted_begin' s.rst).trans refused)))
  rw [enters]
  exact ⟨(congrArg Rst.fwRunning begun).trans rfl, rfl, rfl, (congrArg Rst.boot begun).trans rfl⟩

/-- Settles O55: each command is a step of the release (`State.release_step`). -/
theorem releaseOrder : Obligations.ReleaseOrder := by
  refine ⟨fun s => ⟨?_, fun p other => ?_⟩, fun s now => ⟨fun valid current => ?_, fun refused => ?_⟩⟩
  · simp only [List.forall_mem_cons]
    refine ⟨⟨fun now cold _ _ => ⟨_, exec_alwaysOnRelease s, State.alwaysOn_step.1 now cold⟩, fun other => ?_⟩,
      ⟨fun now _ _ _ => ⟨_, exec_optionLoading s, State.optionLoading_step.1 now⟩, fun other => ?_⟩,
      ⟨fun now _ _ _ => ⟨_, exec_groomCoresRelease s, State.groomCores_step.1 now⟩, fun other => ?_⟩,
      ⟨fun now _ settled _ => ⟨_, exec_hbmRelease s, State.hbmRelease_step.1 now settled⟩, fun other => ?_⟩,
      ⟨fun now _ _ _ => ⟨_, exec_dunindRelease s, State.dunindRelease_step.1 now⟩, fun other => ?_⟩,
      ⟨fun now _ _ normal => ⟨_, exec_cxlRelease s, State.cxlRelease_step.1 now normal⟩, fun other => ?_⟩,
      ⟨fun now _ _ _ => ⟨_, exec_tilesRelease 0xFF s, State.tilesRelease_step.1 now⟩, fun other => ?_⟩,
      fun _ none => absurd none List.not_mem_nil⟩
    · rw [exec_alwaysOnRelease, State.alwaysOn_step.2 other]
    · rw [exec_optionLoading, State.optionLoading_step.2 other]
    · rw [exec_groomCoresRelease, State.groomCores_step.2 other]
    · rw [exec_hbmRelease, State.hbmRelease_step.2 other]
    · rw [exec_dunindRelease, State.dunindRelease_step.2 other]
    · rw [exec_cxlRelease, State.cxlRelease_step.2 other]
    · rw [exec_tilesRelease, State.tilesRelease_step.2 0xFF other]
  · rw [exec_tilesRelease, State.tilesRelease_step.2 p other]
  · have accepted : s.rst.imageAccepted = true := by
      rw [Rst.imageAccepted, Bool.and_eq_true, decide_eq_true_eq]
      exact ⟨valid, current⟩
    exact ⟨_, exec_firmwareVerification s, State.verify_of_accepted now accepted⟩
  · have unaccepted : s.rst.imageAccepted = false := by
      rw [Rst.imageAccepted, Bool.and_eq_false_iff, decide_eq_false_iff_not, Nat.not_le]
      exact refused
    obtain ⟨running, next, recovery, boot⟩ := State.verify_of_refused now unaccepted
    obtain ⟨cxl, last, boot'⟩ := State.cxlRelease_of_recovery next recovery
    exact ⟨_, exec_firmwareVerification s, running, next, recovery, boot, _, exec_cxlRelease _, cxl, last, boot'.trans boot⟩

end Sys2Proof.Machine
end

section
/-! The device-level resets (R386 to R391): what each clears and keeps, its sources, and what does not reset; O56. -/
namespace Sys2Proof.Machine
open Sys2Proof

theorem exec_powerOn (c : PowerCause) (s : State) : exec (.powerOn c) s = .next (s.powerOn c) := rfl
theorem exec_groomWatchdog (k : Fin 4) (s : State) : exec (.groomWatchdog k) s = .next (s.groomWatchdog k.val) := rfl
theorem exec_heartbeatCheck (b : BitVec 4) (s : State) : exec (.heartbeatCheck b) s = .next (s.heartbeat b) := rfl
theorem exec_cxlConventionalReset (s : State) : exec .cxlConventionalReset s = .next s.conventionalReset := rfl
theorem exec_warm (s : State) : exec .warm s = .next s.warm := rfl
theorem exec_reboot (s : State) : exec .reboot s = .next s.reboot := rfl

/-- The boot state of a release that restarts at step `first`. -/
theorem Rst.boot_afterReset (r : Rst) (why : Byte) (core : BitVec 4) (first : Nat) (warm : Bool) :
    (r.afterReset why core first warm).boot = first - 1 ∧ (r.afterReset why core first warm).nextStep = first ∧
      (r.afterReset why core first warm).why = some (why, core) := by
  simp only [Rst.afterReset]
  split_ifs <;> exact ⟨rfl, rfl, rfl⟩

/-- A reset leaves MRAM (R393). -/
theorem Rst.mram_afterReset (r : Rst) (why : Byte) (core : BitVec 4) (first : Nat) (warm : Bool) :
    (r.afterReset why core first warm).optA = r.optA ∧ (r.afterReset why core first warm).optB = r.optB ∧
      (r.afterReset why core first warm).fwStore = r.fwStore ∧ (r.afterReset why core first warm).rollback = r.rollback ∧
      (r.afterReset why core first warm).repairLog = r.repairLog := by
  simp only [Rst.afterReset]
  split_ifs <;> exact ⟨rfl, rfl, rfl, rfl, rfl⟩

/-- What a warm reset keeps of a context. -/
def Ctx.afterWarm (x : Ctx) : Ctx := { msixMask := x.msixMask, msixPend := x.msixPend }

/-- A reset leaves no work in a context. -/
theorem Dev.ctx_afterReset (d : Dev) (power warm stays : Bool) (c : Nat) :
    ((d.afterReset power warm stays).ctx c).launches = [] ∧ ((d.afterReset power warm stays).ctx c).bkts = [] := by
  cases warm with
  | false => exact ⟨rfl, rfl⟩
  | true =>
    have kept : (d.afterReset power true stays).ctx c = (d.ctx c).afterWarm :=
      Tab.get_mapV ({} : Ctx) Ctx.afterWarm rfl d.ctxs c
    rw [kept]
    exact ⟨rfl, rfl⟩

theorem Hif.hostMem_kept (h : Hif) (warm : Bool) : (h.kept warm).hostMem = h.hostMem := by
  cases warm <;> rfl

/-- The device was reset for `why`: the release restarts at `step` or earlier, and MRAM and the host's memory are kept. -/
def State.Restarts (s t : State) (why : Byte) (step : Nat) : Prop :=
  t.rst.nextStep = min step (s.rst.boot + 1) ∧ t.rst.boot + 1 = t.rst.nextStep ∧
    (t.rst.why.map Prod.fst) = some why ∧ (∀ c, (t.dev.ctx c).launches = [] ∧ (t.dev.ctx c).bkts = []) ∧
    t.dev.tiles = [] ∧ t.dev.mem = {} ∧ t.dev.fab = {} ∧ t.dev.hif.hostMem = s.dev.hif.hostMem ∧
    t.rst.optA = s.rst.optA ∧ t.rst.optB = s.rst.optB ∧ t.rst.fwStore = s.rst.fwStore ∧
    t.rst.rollback = s.rst.rollback ∧ t.rst.repairLog = s.rst.repairLog

theorem State.restarts_deviceReset (s : State) (why : Byte) (core : BitVec 4) {named : Nat} (real : 1 ≤ named) (warm : Bool) :
    s.Restarts (s.deviceReset why core named warm) why named := by
  obtain ⟨boot, next, cause⟩ := s.rst.boot_afterReset why core (min named (s.rst.boot + 1)) warm
  obtain ⟨optA, optB, fwStore, rollback, repairLog⟩ := s.rst.mram_afterReset why core (min named (s.rst.boot + 1)) warm
  refine ⟨next, ?_, ?_, s.dev.ctx_afterReset _ warm _, rfl, rfl, rfl, s.dev.hif.hostMem_kept warm, optA, optB, fwStore,
    rollback, repairLog⟩
  · rw [State.deviceReset, boot, next]
    omega
  · rw [State.deviceReset, cause]
    rfl

/-! ### Sources (Table 16.1) -/

/-- A power-on source but the loss of VAON resets the device when its pulse is long enough and no trip is in force. -/
theorem State.restarts_powerOn {s : State} {cause : PowerCause} (cold : s.dev.pwr.tripN = false ∨ cause = .vaonLost)
    (long : ∀ n, cause = .porst n → 32 ≤ n) : s.Restarts (s.powerOn cause) 1 1 := by
  have restarts := s.restarts_deviceReset 1 0 (le_refl 1) false
  cases cause with
  | vaonLost => exact restarts
  | pwrgdLow =>
    have untripped : s.dev.pwr.tripN = false := cold.resolve_right nofun
    simp only [State.powerOn, untripped]
    exact restarts
  | porst n =>
    have untripped : s.dev.pwr.tripN = false := cold.resolve_right nofun
    simp only [State.powerOn, untripped, if_neg (Nat.not_lt.mpr (long n rfl))]
    exact restarts

theorem State.powerOn_of_short {s : State} {n : Nat} (short : n < 32) : s.powerOn (.porst n) = s := if_pos short

section
variable {s : State}

theorem State.groomWatchdog_of_running (running : s.rst.fwRunning = true) (k : Nat) :
    s.groomWatchdog k = s.deviceReset 3 (BitVec.ofNat 4 k) 3 false := if_pos running

theorem State.conventionalReset_of_up (up : s.dev.hif.up = true) : s.conventionalReset = s.deviceReset 5 0 5 false :=
  if_pos up

theorem State.warm_of_accepted (opened : s.dev.secOpen = true) (booted : s.rst.boot = 8) (normal : s.dev.up.recovery = false) :
    s.warm = s.deviceReset 6 0 5 true := if_pos (by rw [opened, booted, normal]; rfl)

theorem State.reboot_of_accepted (opened : s.dev.secOpen = true) (allowed : s.rst.boot = 8 ∨ s.dev.up.recovery = true) :
    s.reboot = s.deviceReset 4 0 2 false := by
  refine if_pos ?_
  rw [opened, Bool.true_and, Bool.or_eq_true, beq_iff_eq]
  exact allowed

theorem State.warm_of_refused (refused : s.rst.boot ≠ 8 ∨ s.dev.up.recovery = true) : s.warm = s := by
  refine if_neg fun accepted => ?_
  simp only [Bool.and_eq_true, Bool.not_eq_true', beq_iff_eq] at accepted
  obtain ⟨⟨-, booted⟩, normal⟩ := accepted
  obtain unbooted | recovery := refused
  · exact unbooted booted
  · exact Bool.false_ne_true (normal.symm.trans recovery)

theorem State.reboot_of_refused (unbooted : s.rst.boot ≠ 8) (normal : s.dev.up.recovery = false) : s.reboot = s := by
  refine if_neg fun accepted => ?_
  simp only [Bool.and_eq_true, Bool.or_eq_true, beq_iff_eq, normal, Bool.false_eq_true, or_false] at accepted
  exact unbooted accepted.2

/-! ### Heartbeats (R389) -/

theorem Rst.mem_checkBeats {r : Rst} {b : BitVec 4} {e : Nat × Nat} :
    e ∈ r.checkBeats b ↔ ∃ k < 4, (k, if b.getLsbD k then 0 else Tab.get 0 r.misses k + 1) = e := by
  simp only [Rst.checkBeats, List.mem_map, List.mem_range]

/-- Without a core that misses two checks in a row, a check counts the misses. -/
theorem State.heartbeat_of_beats {b : BitVec 4} (running : s.rst.fwRunning = true)
    (beats : ∀ k, k < 4 → b.getLsbD k = true ∨ Tab.get 0 s.rst.misses k = 0) :
    s.heartbeat b = s.withRst { s.rst with misses := s.rst.checkBeats b } := by
  have none : (s.rst.checkBeats b).find? (fun e => decide (2 ≤ e.2)) = none := by
    refine List.find?_eq_none.mpr fun e mem => ?_
    obtain ⟨k, core, rfl⟩ := Rst.mem_checkBeats.mp mem
    obtain beat | first := beats k core
    · simp [beat]
    · cases b.getLsbD k <;> simp [first]
  simp only [State.heartbeat, running, none]
  rfl

/-- A second miss in a row is a groom watchdog. -/
theorem State.restarts_heartbeat {b : BitVec 4} (running : s.rst.fwRunning = true) {k : Nat} (core : k < 4)
    (silent : b.getLsbD k = false) (missed : 1 ≤ Tab.get 0 s.rst.misses k) : s.Restarts (s.heartbeat b) 3 3 := by
  have mem : (k, Tab.get 0 s.rst.misses k + 1) ∈ s.rst.checkBeats b :=
    Rst.mem_checkBeats.mpr ⟨k, core, by rw [silent]; rfl⟩
  cases found : (s.rst.checkBeats b).find? (fun e => decide (2 ≤ e.2)) with
  | none =>
    have := List.find?_eq_none.mp found _ mem
    exact absurd (decide_eq_true (Nat.succ_le_succ missed)) this
  | some e =>
    have resets : s.heartbeat b = s.groomWatchdog e.1 := by
      simp only [State.heartbeat, running, found]
      rfl
    rw [resets, State.groomWatchdog_of_running running]
    exact s.restarts_deviceReset 3 _ (by omega) false

end

/-- Settles O56: each source is a device-level reset (`State.restarts_deviceReset`) or is ignored. -/
theorem resetsRestartTheRelease : Obligations.ResetsRestartTheRelease := by
  refine ⟨fun s i why step source => ?_, fun b s running => ⟨fun beats => ?_, fun k silent missed => ?_⟩,
    fun n s short => ?_, fun s => ⟨fun unbooted normal => ⟨?_, ?_⟩, fun recovery => ?_, fun stopped k => ?_⟩⟩
  · obtain ⟨rfl, rfl, rfl⟩ | ⟨rfl, cold, rfl, rfl⟩ | ⟨⟨n, rfl, long⟩, cold, rfl, rfl⟩ | ⟨⟨k, rfl⟩, running, rfl, rfl⟩ |
      ⟨rfl, up, rfl, rfl⟩ | ⟨rfl, opened, booted, normal, rfl, rfl⟩ | ⟨rfl, opened, allowed, rfl, rfl⟩ := source
    · exact ⟨_, exec_powerOn _ s, State.restarts_powerOn (.inr rfl) nofun⟩
    · exact ⟨_, exec_powerOn _ s, State.restarts_powerOn (.inl cold) nofun⟩
    · exact ⟨_, exec_powerOn _ s, State.restarts_powerOn (.inl cold) (by rintro _ ⟨⟩; exact long)⟩
    · exact ⟨_, exec_groomWatchdog k s, State.groomWatchdog_of_running running _ ▸ s.restarts_deviceReset 3 _ (by omega) false⟩
    · exact ⟨_, exec_cxlConventionalReset s, State.conventionalReset_of_up up ▸ s.restarts_deviceReset 5 0 (by omega) false⟩
    · exact ⟨_, exec_warm s, State.warm_of_accepted opened booted normal ▸ s.restarts_deviceReset 6 0 (by omega) true⟩
    · exact ⟨_, exec_reboot s, State.reboot_of_accepted opened allowed ▸ s.restarts_deviceReset 4 0 (by omega) false⟩
  · rw [exec_heartbeatCheck, State.heartbeat_of_beats running beats]
  · obtain ⟨next, -, cause, -⟩ := State.restarts_heartbeat running k.isLt silent missed
    exact ⟨_, exec_heartbeatCheck b s, cause, next⟩
  · rw [exec_powerOn, State.powerOn_of_short short]
  · rw [exec_warm, State.warm_of_refused (.inl unbooted)]
  · rw [exec_reboot, State.reboot_of_refused unbooted normal]
  · rw [exec_warm, State.warm_of_refused (.inr recovery)]
  · rw [exec_groomWatchdog, State.groomWatchdog, if_neg (by rw [stopped]; exact Bool.false_ne_true)]

end Sys2Proof.Machine
end

section
/-! The core rail's ramp (R369), and the readings with the thermal trip (R376 to R380); O52, O54. -/
namespace Sys2Proof.Machine
open Sys2Proof

theorem exec_pwrRailWrite (v : U64) (s : State) : exec (.pwrRailWrite v) s = s.onBar (fun d => d.railWrite v) := rfl
theorem exec_rampStep (s : State) : exec .rampStep s = .next (s.withDev s.dev.rampStep) := rfl
theorem exec_regulatorConfirm (s : State) : exec .regulatorConfirm s = .next (s.withDev s.dev.regulatorConfirm) := rfl
theorem exec_rampTimeout (s : State) : exec .rampTimeout s = .next (s.withDev s.dev.rampTimeout) := rfl
theorem exec_paceUpdate (n f : U16) (b : U64) (s : State) :
    exec (.paceUpdate n f b) s = .next (s.withDev (s.dev.paceUpdate n f b)) := rfl
theorem exec_sensorRead (xs : List U16) (s : State) : exec (.sensorRead xs) s = .next (s.sensorRead xs) := rfl

/-! ### The rail -/

/-- The set point that a write names. -/
def railTarget (v : U64) : BitVec 12 := BitVec.ofNat 12 (v.toNat % 4096)

theorem railTarget_eq (v : U64) : railTarget v = v.truncate 12 := by
  apply BitVec.eq_of_toNat_eq
  simp [railTarget]

section
variable {d : Dev} {v : U64} (idle : d.pwr.pend = false)
include idle

/-- A write of another set point starts a ramp. -/
theorem Dev.railWrite_of_accepted (accepted : targetStatus (v.toNat % 4096) = .done) (other : railTarget v ≠ d.pwr.actual) :
    d.railWrite v = { d with pwr := { d.pwr with target := railTarget v, proposed := none, ramp := true } } := by
  have moves : (d.pwr.actual == BitVec.ofNat 12 (v.toNat % 4096)) = false := beq_eq_false_iff_ne.mpr (Ne.symm other)
  simp only [Dev.railWrite, idle, accepted, moves]
  rfl

theorem Dev.railWrite_of_refused (refused : targetStatus (v.toNat % 4096) ≠ .done) :
    d.railWrite v = d.pwrStatus (targetStatus (v.toNat % 4096)) := by
  rw [Dev.railWrite, idle, if_neg Bool.false_ne_true]
  exact if_neg refused

end

section
variable {d : Dev}

theorem Dev.rampStep_of_ramp (ramp : d.pwr.ramp = true) : d.rampStep = { d with pwr := { d.pwr with
    proposed := some (stepToward (d.pwr.proposed.getD d.pwr.actual) d.pwr.target) } } :=
  if_neg (by rw [ramp]; exact Bool.false_ne_true)

/-- The regulator confirms a step that is not the last. -/
theorem Dev.regulatorConfirm_of_step {x : BitVec 12} (proposed : d.pwr.proposed = some x) (short : x ≠ d.pwr.target) :
    d.regulatorConfirm = { d with pwr := { d.pwr with actual := x, proposed := none } } := by
  simp only [Dev.regulatorConfirm, proposed, if_neg short]

theorem Dev.regulatorConfirm_of_last {x : BitVec 12} (proposed : d.pwr.proposed = some x) (last : x = d.pwr.target) :
    d.regulatorConfirm =
      { d with pwr := { d.pwr with actual := x, proposed := none, ramp := false, status := 0 } } := by
  simp only [Dev.regulatorConfirm, proposed, if_pos last]
  rfl

/-- The last step of a ramp was not confirmed. -/
theorem Dev.rampTimeout_of_last {x : BitVec 12} (ramp : d.pwr.ramp = true) (proposed : d.pwr.proposed = some x)
    (last : x = d.pwr.target) : d.rampTimeout =
      { d with pwr := { d.pwr with ramp := false, proposed := none, status := Status.internal.byte } } := by
  refine if_pos ?_
  rw [ramp, proposed, last]
  exact beq_self_eq_true _

end

/-- A step up takes at most 5 mV and does not pass the target. -/
theorem stepToward_of_lt {x t : BitVec 12} (below : x.toNat < t.toNat) :
    (stepToward x t).toNat = min (x.toNat + 5) t.toNat := by
  rw [stepToward, if_pos below, BitVec.toNat_ofNat]
  exact Nat.mod_eq_of_lt (by omega)

/-- A step down takes at most 5 mV and does not pass the target. -/
theorem stepToward_of_gt {x t : BitVec 12} (above : t.toNat < x.toNat) :
    (stepToward x t).toNat = max (x.toNat - 5) t.toNat := by
  rw [stepToward, if_neg (by omega), BitVec.toNat_ofNat]
  exact Nat.mod_eq_of_lt (by omega)

/-- Settles O52: each command of the ramp in each of its cases, and the bound on a step. -/
theorem railRamps : Obligations.RailRamps := by
  refine ⟨fun v s opened idle => ⟨fun accepted other => ?_, fun refused => ?_⟩, fun s ramp => ?_,
    fun s x proposed => ⟨fun short => ?_, fun last => ?_, fun last ramp => ?_⟩, fun x t below => ?_, fun x t above => ?_⟩
  · rw [exec_pwrRailWrite, State.onBar_of_open _ _ opened, Dev.railWrite_of_accepted idle accepted other, railTarget_eq]
  · rw [exec_pwrRailWrite, State.onBar_of_open _ _ opened, Dev.railWrite_of_refused idle refused]
  · rw [exec_rampStep, Dev.rampStep_of_ramp ramp]
  · rw [exec_regulatorConfirm, Dev.regulatorConfirm_of_step proposed short]
  · rw [exec_regulatorConfirm, Dev.regulatorConfirm_of_last proposed last]
  · rw [exec_rampTimeout, Dev.rampTimeout_of_last ramp proposed last]
  · rw [stepToward_of_lt below]
    omega
  · rw [stepToward_of_gt above]
    omega

/-! ### Readings -/

/-- The hottest of the readings is one of them. -/
theorem hottest_mem {xs : List (Nat × U16)} {x : Nat × U16} (hot : hottest xs = some x) : x ∈ xs := by
  refine List.foldlRecOn (motive := fun b => ∀ y, b = some y → y ∈ xs) xs _ (by rintro _ ⟨⟩) (fun b kept y mem z found => ?_) x hot
  cases b with
  | none => exact Option.some.inj found ▸ mem
  | some y' =>
    simp only at found
    split at found
    · exact Option.some.inj found ▸ mem
    · exact kept z found

section
variable {s : State} {xs : List U16} (cold : s.dev.pwr.tripN = false)
include cold

/-- No sensor at the trip point was there before: the reading stands. -/
theorem State.sensorRead_of_cold {n : Nat} {t : U16}
    (fresh : ∀ x ∈ (List.range 72).zip xs, tripPoint ≤ x.2.toInt → x.1 ∉ s.dev.pwr.hot)
    (hot : hottest ((List.range 72).zip xs) = some (n, t)) :
    s.sensorRead xs = s.withDev { s.dev with pwr := { s.dev.pwr with
      tjMax := t, sensor := BitVec.ofNat 8 n, alarm := s.dev.pwr.alarm || decide (s.dev.pwr.thresh.toInt ≤ t.toInt)
      hot := (((List.range 72).zip xs).filter (fun x => decide (tripPoint ≤ x.2.toInt))).map Prod.fst } } := by
  have none : ((List.range 72).zip xs).any (fun x => decide (tripPoint ≤ x.2.toInt) && s.dev.pwr.hot.contains x.1) = false := by
    simpa using fun i r mem trip => fresh (i, r) mem trip
  simp only [State.sensorRead, cold, none, Dev.thermRead, hot]
  rfl

theorem State.sensorRead_of_trip {x : Nat × U16} (mem : x ∈ (List.range 72).zip xs) (trip : tripPoint ≤ x.2.toInt)
    (again : x.1 ∈ s.dev.pwr.hot) : s.sensorRead xs = s.thermalTrip := by
  have any : ((List.range 72).zip xs).any (fun x => decide (tripPoint ≤ x.2.toInt) && s.dev.pwr.hot.contains x.1) = true :=
    List.any_eq_true.mpr ⟨x, mem, by simp [trip, again]⟩
  simp only [State.sensorRead, cold, any]
  rfl

end

/-- Settles O54: the readings' frames, and the trip as a device-level reset (`State.restarts_deviceReset`). -/
theorem powerReadings : Obligations.PowerReadings := by
  refine ⟨fun n f b s => ⟨_, exec_paceUpdate n f b s, rfl, rfl, rfl, ?_, rfl⟩, fun p i v s => rfl,
    fun xs s n t cold fresh hot => ⟨_, (exec_sensorRead xs s).trans
      (congrArg _ (State.sensorRead_of_cold cold fresh hot)), rfl, ?_, rfl, rfl⟩, fun xs s x cold mem trip again => ?_⟩
  · exact (BitVec.toNat_ofNat _ 16).trans (Nat.mod_eq_of_lt (by omega))
  · have sensor : n < 72 := List.mem_range.mp (List.of_mem_zip (hottest_mem hot)).1
    exact (BitVec.toNat_ofNat n 8).trans (Nat.mod_eq_of_lt (by omega))
  · obtain ⟨next, -, -⟩ := s.restarts_deviceReset 2 0 (le_refl 1) false
    obtain ⟨-, -, why⟩ := s.rst.boot_afterReset 2 0 (min 1 (s.rst.boot + 1)) false
    refine ⟨s.thermalTrip, ?_, rfl, why, ?_, rfl⟩
    · rw [exec_sensorRead, State.sensorRead_of_trip cold mem trip again]
    · exact next.trans (by omega)

end Sys2Proof.Machine
end

section
/-! The power domains (R370 to R374): a transition that begins, and one that ends; O53. -/
namespace Sys2Proof.Machine
open Sys2Proof

theorem exec_stand (d : BitVec 7) (s : State) : exec (.stand d) s = s.onBar (fun x => x.domOp d .stand) := rfl
theorem exec_rest (d : BitVec 7) (s : State) : exec (.rest d) s = s.onBar (fun x => x.domOp d .rest) := rfl
theorem exec_run (d : BitVec 7) (s : State) : exec (.run d) s = s.onBar (fun x => x.domOp d .running) := rfl
theorem exec_domainTransitionEnd (d : Fin 80) (p : BitVec 2) (s : State) :
    exec (.domainTransitionEnd d p) s = .next (s.withDev (s.dev.domEnd d.val p)) := rfl

theorem Dev.dom_of_doms {s t : Dev} (doms : t.pwr.doms = s.pwr.doms) (d : Nat) : t.dom d = s.dom d :=
  congrArg (fun ds : Tab Dom => (Tab.get {} ds d : Dom)) doms

/-! ### The links of a domain that leaves the running state -/

/-- The memories, the tiles and the power block. -/
def Dev.plant (s : Dev) : MemBlk × Tab PTile × Pwr := (s.mem, s.tiles, s.pwr)

theorem Dev.plant_keptByRouting : Dev.KeptByRouting Dev.plant where
  outbox _ _ := rfl
  nextLink _ _ := rfl
  inbox _ _ := rfl
  drop _ _ := rfl
  nextPkt _ _ := rfl
  setLink _ _ _ _ := rfl

theorem Dev.plant_of_outer {s t : Dev} (outer : s.outer = t.outer) : s.plant = t.plant :=
  calc s.plant
    _ = s.outer.plant := rfl
    _ = t.outer.plant := congrArg Dev.plant outer
    _ = t.plant := rfl

theorem Dev.plant_linkEvent (s : Dev) (l : Nat) : (s.linkEvent l).plant = s.plant :=
  Dev.plant_of_outer (s.outer_eventAll _ _ _)

theorem Dev.plant_linkDown (s : Dev) (l : Nat) : (s.linkDown l).plant = s.plant := by
  unfold Dev.linkDown
  dsimp only
  split
  · rfl
  · generalize rerouted : Dev.reroute _ (l / 4) = d
    have plant : d.plant = s.plant := by
      rw [← rerouted, Dev.plant_keptByRouting.reroute, Dev.plant_keptByRouting.outbox, Dev.plant_linkEvent]
      split <;> rfl
    split
    · exact (Dev.plant_keptByRouting.sendMgmt _ _ _ _ _).trans plant
    · exact plant

theorem Dev.plant_idleLink (toSt : DomState) (s : Dev) (l : Nat) : (s.idleLink toSt l).plant = s.plant := by
  unfold Dev.idleLink
  split
  · exact s.plant_linkDown l
  · split
    · exact (Dev.plant_keptByRouting.giveUp _ l).trans rfl
    · rfl

/-! ### STAND, REST and RUN (R371) -/

/-- The domain has left its state, and the transition is pending. -/
def Dev.domLeft (s : Dev) (d : Nat) (toSt : DomState) : Dev :=
  { s with pwr := { s.pwr with doms := Tab.set s.pwr.doms d { s.dom d with toSt := some toSt }, pend := true } }

theorem Dev.dom_domLeft (s : Dev) (d : Nat) (toSt : DomState) : (s.domLeft d toSt).dom d = { s.dom d with toSt := some toSt } :=
  Tab.get_set_self _ _ _ _

/-- The links of a Dunind domain are idled, and nothing of the plant changes with them. -/
theorem Dev.plant_beginDom (s : Dev) (d : Nat) (toSt : DomState) : (s.beginDom d toSt).plant = (s.domLeft d toSt).plant := by
  unfold Dev.beginDom
  dsimp only
  split
  · exact foldl_keeps Dev.plant _ (Dev.plant_idleLink toSt) _ (s.domLeft d toSt)
  · rfl

/-- The domain that an operation of PWR_DOM_CTL names. -/
def Dev.domNamed (s : Dev) (d : BitVec 7) : Dev := { s with pwr := { s.pwr with domSel := d } }

section
variable {s : Dev} {d : BitVec 7} {toSt : DomState} (idle : s.pwr.pend = false)
include idle

/-- An operation that is not ignored names its domain when it is accepted. -/
theorem Dev.domOp_of_free : s.domOp d toSt =
    let st := s.domStatus d.toNat toSt
    let e := s.domNamed (if st = Status.done then d else s.pwr.domSel)
    if st = Status.done && (s.dom d.toNat).st ≠ toSt then e.beginDom d.toNat toSt else e.pwrStatus st :=
  if_neg (by rw [idle]; exact Bool.false_ne_true)

theorem Dev.domOp_of_change (accepted : s.domStatus d.toNat toSt = .done) (other : (s.dom d.toNat).st ≠ toSt) :
    s.domOp d toSt = (s.domNamed d).beginDom d.toNat toSt := by
  rw [Dev.domOp_of_free idle]
  dsimp only
  rw [accepted, if_pos rfl, if_pos (by simpa using other)]

theorem Dev.domOp_of_inForce (accepted : s.domStatus d.toNat toSt = .done) (same : (s.dom d.toNat).st = toSt) :
    s.domOp d toSt = (s.domNamed d).pwrStatus .done := by
  rw [Dev.domOp_of_free idle]
  dsimp only
  rw [accepted, if_pos rfl, if_neg (by simpa using same)]

theorem Dev.domOp_of_refused (refused : s.domStatus d.toNat toSt ≠ .done) :
    s.domOp d toSt = s.pwrStatus (s.domStatus d.toNat toSt) := by
  rw [Dev.domOp_of_free idle]
  dsimp only
  rw [if_neg refused, if_neg (by simp [refused])]
  rfl

end

/-- An operation of PWR_DOM_CTL, as each of the three commands performs it. -/
theorem State.domOp_cases {s : State} {i : Instr} {d : BitVec 7} {toSt : DomState}
    (runs : exec i s = s.onBar (fun x => x.domOp d toSt)) (opened : s.dev.barOpen = true) (idle : s.dev.pwr.pend = false) :
    (s.dev.domStatus d.toNat toSt = .done → (s.dev.dom d.toNat).st ≠ toSt →
      ∃ t, exec i s = .next t ∧ t.dev.dom d.toNat = { s.dev.dom d.toNat with toSt := some toSt } ∧ t.dev.pwr.pend = true ∧
        t.dev.mem = s.dev.mem ∧ t.dev.tiles = s.dev.tiles ∧ t.rst = s.rst) ∧
    (s.dev.domStatus d.toNat toSt = .done → (s.dev.dom d.toNat).st = toSt → exec i s = .next (s.withDev { s.dev with
      pwr := { s.dev.pwr with domSel := d, status := 0 } })) ∧
    (s.dev.domStatus d.toNat toSt ≠ .done →
      exec i s = .next (s.withDev (s.dev.pwrStatus (s.dev.domStatus d.toNat toSt)))) := by
  rw [runs, State.onBar_of_open _ _ opened]
  refine ⟨fun accepted other => ?_, fun accepted same => ?_, fun refused => ?_⟩
  · rw [Dev.domOp_of_change idle accepted other]
    obtain ⟨mem, rest⟩ := Prod.mk.inj ((s.dev.domNamed d).plant_beginDom d.toNat toSt)
    obtain ⟨tiles, pwr⟩ := Prod.mk.inj rest
    have left := (Dev.dom_of_doms (congrArg Pwr.doms pwr) d.toNat).trans (Dev.dom_domLeft _ _ _)
    have pend := congrArg Pwr.pend pwr
    generalize (s.dev.domNamed d).beginDom d.toNat toSt = e at left pend mem tiles
    exact ⟨s.withDev e, rfl, left, pend, mem, tiles, rfl⟩
  · rw [Dev.domOp_of_inForce idle accepted same]
    rfl
  · rw [Dev.domOp_of_refused idle refused]

/-! ### The end of a transition (R322, R372) -/

theorem Dev.pwr_tilesShort (s : Dev) : s.tilesShort.pwr = s.pwr := by
  have kept := (s.subsides_deviceFault 0x05).pwr
  unfold Dev.tilesShort
  generalize s.deviceFault 0x05 = d at kept
  exact kept

theorem Dev.pwr_giveUpSpares (s : Dev) : s.giveUpSpares.pwr = s.pwr := by
  refine foldl_keeps Dev.pwr _ (fun d w => ?_) _ s
  split
  · exact Dev.pwr_tilesShort _
  · rfl

theorem Dev.pwr_testSpare (pass : Nat → Bool) (s : Dev) (p : Nat) : (s.testSpare pass p).pwr = s.pwr := by
  unfold Dev.testSpare
  split
  · exact (s.dropTile p).pwr_giveUpSpares
  · rfl

/-- The tiles of a pair that has been off are wiped and its spares tested. -/
def Dev.endTiles (s : Dev) (d : Nat) (old new : DomState) (pass : BitVec 2) : Dev :=
  let s := if new = DomState.stand then (s.wipeTile (2 * d)).wipeTile (2 * d + 1) else s
  if old = DomState.stand && new = DomState.running then
    [2 * d, 2 * d + 1].foldl (Dev.testSpare (fun p => pass.getLsbD (p % 2))) s
  else s

theorem Dev.pwr_endTiles (s : Dev) (d : Nat) (old new : DomState) (pass : BitVec 2) : (s.endTiles d old new pass).pwr = s.pwr := by
  have wiped : (if new = DomState.stand then (s.wipeTile (2 * d)).wipeTile (2 * d + 1) else s).pwr = s.pwr := by
    split <;> rfl
  unfold Dev.endTiles
  dsimp only
  split
  · exact (foldl_keeps Dev.pwr _ (Dev.pwr_testSpare _) _ _).trans wiped
  · exact wiped

theorem Dev.ctxs_endTiles_of_pass (s : Dev) (d : Nat) (old new : DomState) : (s.endTiles d old new 3).ctxs = s.ctxs := by
  have passes : ∀ p ∈ [2 * d, 2 * d + 1], (3 : BitVec 2).getLsbD (p % 2) = true := by
    simp [Nat.add_mod]
  have wiped : (if new = DomState.stand then (s.wipeTile (2 * d)).wipeTile (2 * d + 1) else s).ctxs = s.ctxs := by
    split <;> rfl
  unfold Dev.endTiles
  dsimp only
  rw [Dev.foldl_testSpare_of_pass _ passes, ite_self]
  exact wiped

/-- The end of a transition leaves the registers of the power block but the loss of the stacks' contents. -/
theorem Dev.pwr_endDom (s : Dev) (d : Nat) (old new : DomState) (pass : BitVec 2) :
    ∃ lost, (s.endDom d old new pass).pwr = { s.pwr with hbmLost := lost } := by
  unfold Dev.endDom
  split
  · exact ⟨s.pwr.hbmLost, s.pwr_endTiles d old new pass⟩
  · split
    · dsimp only
      split <;> exact ⟨_, rfl⟩
    · exact ⟨s.pwr.hbmLost, rfl⟩

theorem Dev.ctxs_endDom_of_pass (s : Dev) (d : Nat) (old new : DomState) : (s.endDom d old new 3).ctxs = s.ctxs := by
  unfold Dev.endDom
  split
  · exact s.ctxs_endTiles_of_pass d old new
  · split
    · dsimp only
      split <;> rfl
    · rfl

/-- The domain has entered its state, and the operation is done. -/
def Dev.domEntered (s : Dev) (d : Nat) (new : DomState) : Dev :=
  { s with pwr := { s.pwr with
    doms := Tab.set s.pwr.doms d { st := new, toSt := none, trans := satAdd (s.dom d).trans 1 }, pend := false, status := 0 } }

theorem Dev.dom_domEntered (s : Dev) (d : Nat) (new : DomState) :
    (s.domEntered d new).dom d = { st := new, toSt := none, trans := satAdd (s.dom d).trans 1 } :=
  Tab.get_set_self _ _ _ _

theorem Dev.domEnd_of_transition {s : Dev} {d : Nat} {new : DomState} (pass : BitVec 2) (moves : (s.dom d).toSt = some new) :
    s.domEnd d pass = (s.domEntered d new).endDom d (s.dom d).st new pass := by
  simp only [Dev.domEnd, moves]
  rfl

/-- Settles O53: an operation by `State.domOp_cases`, and the end of a transition by `Dev.pwr_endDom`. -/
theorem powerDomains : Obligations.PowerDomains := by
  refine ⟨fun d s opened idle => ?_, fun d p s new moves => ?_⟩
  · simp only [List.forall_mem_cons]
    exact ⟨State.domOp_cases (exec_stand d s) opened idle, State.domOp_cases (exec_rest d s) opened idle,
      State.domOp_cases (exec_run d s) opened idle, fun _ none => absurd none List.not_mem_nil⟩
  · obtain ⟨lost, pwr⟩ := (s.dev.domEntered d.val new).pwr_endDom d.val (s.dev.dom d.val).st new p
    have entered : ((s.dev.domEntered d.val new).endDom d.val (s.dev.dom d.val).st new p).dom d.val =
        { st := new, toSt := none, trans := satAdd (s.dev.dom d.val).trans 1 } :=
      (Dev.dom_of_doms (s := s.dev.domEntered d.val new) (congrArg Pwr.doms pwr :) d.val).trans (Dev.dom_domEntered _ _ _)
    rw [exec_domainTransitionEnd, Dev.domEnd_of_transition p moves]
    refine ⟨_, rfl, congrArg Dom.st entered, congrArg Dom.toSt entered, congrArg Dom.trans entered,
      (congrArg Pwr.pend pwr :), (congrArg Pwr.status pwr :), fun passes => ?_, rfl⟩
    rw [passes]
    exact Dev.ctxs_endDom_of_pass _ _ _ _

end Sys2Proof.Machine
end

section
/-! The early warning: its latch, its pin and its release (R325, R328); O41. -/
namespace Sys2Proof.Machine
open Sys2Proof

theorem exec_ewRaise (s : State) :
    exec .ewRaise s = s.onBar (fun d => d.farrOp (fun d => (.done, d.latchWarning ewRaiseSource))) := rfl
theorem exec_ewRelease (s : State) :
    exec .ewRelease s = s.onBar (fun d => d.farrOp (fun d => (.done, d.ewRelease))) := rfl
theorem exec_ewarnN (n : Nat) (s : State) : exec (.ewarnN n) s = .next (s.withDev (s.dev.ewarn n)) := rfl
theorem exec_ewarnNDeassertion (s : State) : exec .ewarnNDeassertion s = .next (s.withDev { s.dev with farr :=
    { s.dev.farr with ewPin := false, ewArmed := true } }) := rfl

/-- An operation of FARR_CTL that is not ignored and is always done. -/
theorem Dev.farrOp_of_done {s : Dev} (act : Dev → Dev) (idle : s.farr.pend = false) :
    s.farrOp (fun d => (.done, act d)) = (act s).farrStatus .done :=
  s.farrOp_of_free (act s) .done _ idle rfl

/-- The memories, the Farrier and the sideband. -/
def Dev.alerts (s : Dev) : MemBlk × Farr × Side := (s.mem, s.farr, s.side)

theorem Dev.alerts_keptByRouting : Dev.KeptByRouting Dev.alerts where
  outbox _ _ := rfl
  nextLink _ _ := rfl
  inbox _ _ := rfl
  drop _ _ := rfl
  nextPkt _ _ := rfl
  setLink _ _ _ _ := rfl

theorem Dev.alerts_event (s : Dev) (c ty : Nat) (p q : U64) : (s.event c ty p q).alerts = s.alerts :=
  calc (s.event c ty p q).alerts
    _ = (s.event c ty p q).outer.alerts := rfl
    _ = s.outer.alerts := congrArg Dev.alerts (s.outer_event c ty p q)
    _ = s.alerts := rfl

theorem Dev.alerts_ewEvents (s : Dev) (source : Nat) : (s.ewEvents source).alerts = s.alerts := by
  refine foldl_keeps Dev.alerts _ (fun d c => ?_) _ s
  split
  · exact d.alerts_event c _ _ _
  · rfl

section
variable {s : Dev} (source : Nat)

/-- A warning is latched with its source and the alert; the events and the notice leave the latch alone. -/
theorem Dev.alerts_latchWarning (unlatched : s.farr.ewLatch = false) : (s.latchWarning source).alerts =
    (s.mem, { s.farr with ewLatch := true, ewSource := source }, s.side.raise 8) := by
  unfold Dev.latchWarning
  dsimp only
  rw [unlatched, if_neg Bool.false_ne_true]
  split
  · exact Dev.alerts_ewEvents _ source
  · exact (Dev.alerts_keptByRouting.sendMgmt _ _ _ _ _).trans (Dev.alerts_ewEvents _ source)

theorem Dev.latchWarning_of_latched (latched : s.farr.ewLatch = true) :
    s.latchWarning source = { s with farr := { s.farr with ewRepeat := satAdd s.farr.ewRepeat 1 } } := if_pos latched

end

theorem Side.alert_raise (a : Side) : (a.raise 8).alert.getLsbD 3 = true := by
  rw [Side.raise, BitVec.getLsbD_or]
  exact Bool.or_true _

/-! ### The pin -/

theorem Dev.ewarn_of_ignored {s : Dev} {n : Nat} (ignored : n < 8 ∨ s.farr.ewArmed = false) : s.ewarn n = s :=
  if_pos (by simpa using ignored)

theorem Dev.ewarn_of_armed {s : Dev} {n : Nat} (long : 8 ≤ n) (armed : s.farr.ewArmed = true) : s.ewarn n =
    Dev.latchWarning { s with farr := { s.farr with ewPin := true, ewArmed := false } } ewPinSource :=
  if_neg (by simp [armed, long])

/-! ### EWRELEASE (R328) -/

/-- A context whose hold is lifted. -/
def Ctx.unwarned (x : Ctx) : Ctx := { x with holdStep := 0, ewHeld := false, ewReady := false }

/-- The device with every hold lifted. -/
def Dev.unwarned (s : Dev) : Dev := allCtx.foldl (fun s c => s.modCtx c Ctx.unwarned) s

theorem Dev.ewRelease_eq (s : Dev) : s.ewRelease =
    { s.unwarned with farr := { s.unwarned.farr with ewLatch := s.unwarned.farr.ewLatch && s.unwarned.farr.ewPin } } := rfl

theorem Dev.ctx_unwarned (s : Dev) {k : Nat} (inside : k < 64) : s.unwarned.ctx k = (s.ctx k).unwarned := by
  refine (foldl_keyed (fun j (d : Dev) => d.ctx j) _ Ctx.unwarned (fun _ => rfl) (fun d c j => ?_) allCtx s k).trans
    (if_pos (List.mem_range.mpr inside))
  rw [Dev.ctx_modCtx]
  split
  · next here => rw [here]
  · rfl

theorem Dev.outer_unwarned (s : Dev) : s.unwarned.outer = s.outer :=
  foldl_keeps Dev.outer _ (fun d c => d.outer_modCtx c Ctx.unwarned) _ _

theorem Dev.fields_of_outer {s t : Dev} (outer : t.outer = s.outer) : t.tiles = s.tiles ∧ t.mem = s.mem ∧ t.farr = s.farr :=
  ⟨(congrArg Dev.tiles outer :), (congrArg Dev.mem outer :), (congrArg Dev.farr outer :)⟩

/-- EWRELEASE lifts every hold and clears the latch unless the pin holds it. -/
theorem Dev.ewRelease_frame (s : Dev) : s.ewRelease.farr.ewLatch = (s.farr.ewLatch && s.farr.ewPin) ∧
    (∀ k, k < 64 → s.ewRelease.ctx k = (s.ctx k).unwarned) ∧ s.ewRelease.tiles = s.tiles ∧ s.ewRelease.mem = s.mem := by
  obtain ⟨tiles, mem, farr⟩ := Dev.fields_of_outer s.outer_unwarned
  have ctx (k : Nat) (inside : k < 64) := s.ctx_unwarned inside
  rw [Dev.ewRelease_eq]
  generalize s.unwarned = t at tiles mem farr ctx
  exact ⟨by rw [farr], ctx, tiles, mem⟩

/-- Settles O41: a warning latches by `Dev.alerts_latchWarning`, and EWRELEASE lifts the holds by `Dev.ctx_unwarned`. -/
theorem earlyWarnings : Obligations.EarlyWarnings := by
  refine ⟨fun s opened idle => ⟨fun unlatched => ?_, fun latched => ?_, ?_⟩,
    fun n s => ⟨fun ignored => ?_, fun long armed unlatched => ?_⟩, exec_ewarnNDeassertion⟩
  · obtain ⟨mem, rest⟩ := Prod.mk.inj (Dev.alerts_latchWarning ewRaiseSource unlatched)
    obtain ⟨farr, side⟩ := Prod.mk.inj rest
    refine ⟨s.withDev ((s.dev.latchWarning ewRaiseSource).farrStatus .done), ?_, (congrArg Farr.ewLatch farr :),
      (congrArg Farr.ewSource farr :), (congrArg (fun a => a.alert.getLsbD 3) side).trans s.dev.side.alert_raise, rfl, mem, rfl⟩
    rw [exec_ewRaise, State.onBar_of_open _ _ opened, Dev.farrOp_of_done _ idle]
  · rw [exec_ewRaise, State.onBar_of_open _ _ opened, Dev.farrOp_of_done _ idle, Dev.latchWarning_of_latched _ latched]
    rfl
  · obtain ⟨latch, lifted, tiles, mem⟩ := s.dev.ewRelease_frame
    rw [exec_ewRelease, State.onBar_of_open _ _ opened, Dev.farrOp_of_done _ idle]
    generalize s.dev.ewRelease = d at latch lifted tiles mem
    refine ⟨s.withDev (d.farrStatus .done), rfl, latch, fun k inside => ?_, tiles, mem⟩
    have held : (d.farrStatus .done).ctx k = (s.dev.ctx k).unwarned := lifted k inside
    rw [held]
    exact ⟨rfl, rfl⟩
  · rw [exec_ewarnN, Dev.ewarn_of_ignored ignored]
  · obtain ⟨mem, rest⟩ := Prod.mk.inj (Dev.alerts_latchWarning
      (s := { s.dev with farr := { s.dev.farr with ewPin := true, ewArmed := false } }) ewPinSource unlatched)
    obtain ⟨farr, -⟩ := Prod.mk.inj rest
    rw [exec_ewarnN, Dev.ewarn_of_armed long armed]
    exact ⟨_, rfl, (congrArg Farr.ewLatch farr :), (congrArg Farr.ewPin farr :), (congrArg Farr.ewArmed farr :),
      (congrArg Farr.ewSource farr :), mem, rfl⟩

end Sys2Proof.Machine
end

section
/-! The host's configuration: tile sets, host-access ranges and rings (R344, R345, R347); O43. -/
namespace Sys2Proof.Machine
open Sys2Proof

theorem exec_hifCtxCfgWrite (c : CtxId) (v : U64) (s : State) :
    exec (.hifCtxCfgWrite c v) s = s.onBar (fun d => d.ctxCfgWrite c.val v) := rfl
theorem exec_hifHostaccWrite (c : CtxId) (i : Fin 8) (w : Fin 2) (v : U64) (s : State) :
    exec (.hifHostaccWrite c i w v) s = s.onBar (fun d => d.hostAccWrite c.val i.val w.val v) := rfl
theorem exec_hifRingWrite (c : CtxId) (r : Fin 4) (w : Fin 2) (v : U64) (s : State) :
    exec (.hifRingWrite c r w v) s = s.onBar (fun d => d.ringCfgWrite c.val r.val w.val v) := rfl

section
variable {s : Dev} (idle : s.hif.pend = false) {st : Status} (act : Dev → Dev)
include idle

theorem Dev.hifOp_of_done (done : st = .done) : s.hifOp st act = (act s).hifStatus .done := by
  rw [Dev.hifOp, idle, if_neg Bool.false_ne_true, if_pos done]

theorem Dev.hifOp_of_refused (refused : st ≠ .done) : s.hifOp st act = s.hifStatus st := by
  rw [Dev.hifOp, idle, if_neg Bool.false_ne_true, if_neg refused]

end

/-! ### Tile sets (R344) -/

/-- The context's entry of the tile set and its logical tiles are all that a new set changes outside the tiles. -/
def Dev.retiles (c n : Nat) (s t : Dev) : Prop :=
  (t.ctx c).ntile = BitVec.ofNat 8 n ∧ (∀ k, k ≠ c → t.ctx k = s.ctx k) ∧ t.mem = s.mem

theorem Dev.retiles_modCtx (s : Dev) (c n : Nat) (f : Ctx → Ctx) (ntile : ∀ x, (f x).ntile = BitVec.ofNat 8 n) :
    Dev.retiles c n s (s.modCtx c f) := by
  refine ⟨?_, fun k other => ?_, rfl⟩
  · rw [Dev.ctx_modCtx, if_pos rfl, ntile]
  · rw [Dev.ctx_modCtx, if_neg other]

/-- A free tile, emptied, backs a logical tile. -/
def Dev.backTile (c : Nat) (s : Dev) (e : Nat × Nat) : Dev :=
  (s.setPtile e.2 { s.ptile e.2 with tile := {} }).modCtx c (fun x => { x with backs := Tab.set x.backs e.1 e.2 })

theorem Dev.retiles.backTile {c n : Nat} {s t : Dev} (set : Dev.retiles c n s t) (e : Nat × Nat) :
    Dev.retiles c n s (t.backTile c e) := by
  obtain ⟨ntile, others, mem⟩ := set
  refine ⟨?_, fun k other => ?_, mem⟩
  · rw [Dev.backTile, Dev.ctx_modCtx, if_pos rfl]
    exact ntile
  · rw [Dev.backTile, Dev.ctx_modCtx, if_neg other]
    exact others k other

theorem Dev.retiles_backTiles (s : Dev) (c n : Nat) : Dev.retiles c n s (s.backTiles c n) :=
  List.foldlRecOn (motive := Dev.retiles c n s) _ (Dev.backTile c) (s.retiles_modCtx c n _ (fun _ => rfl))
    (fun _ set e _ => set.backTile e)

/-- What an accepted tile set does. -/
theorem Dev.ctxCfgWrite_of_accepted {s : Dev} {c : Nat} {v : U64} (idle : s.hif.pend = false)
    (accepted : s.ctxCfgStatus c (fld v.toNat 7 0) = .done) :
    ∃ d, s.ctxCfgWrite c v = d.hifStatus .done ∧ Dev.retiles c (fld v.toNat 7 0) s d := by
  rw [Dev.ctxCfgWrite, Dev.hifOp_of_done idle _ accepted]
  refine ⟨_, rfl, ?_⟩
  dsimp only
  split
  · exact Dev.retiles_modCtx _ c _ _ (fun _ => rfl)
  · exact Dev.retiles_backTiles _ c _

theorem ntile_of_field (v : U64) : BitVec.ofNat 8 (fld v.toNat 7 0) = v.truncate 8 := by
  apply BitVec.eq_of_toNat_eq
  simp [fld]

/-! ### Rings (R347) -/

/-- A change of a context beside its rings. -/
theorem Dev.ring_modCtx_of_rings (s : Dev) (c j k : Nat) (f : Ctx → Ctx) (rings : ∀ x, (f x).rings = x.rings) :
    (s.modCtx c f).ring j k = s.ring j k := by
  rw [Dev.ring, Dev.ctx_modCtx]
  split
  · next here => rw [rings, here]; rfl
  · rfl

/-- A ring's registers are written, and the others' kept. -/
def Dev.rings (c r : Nat) (g : Ring) (s t : Dev) : Prop :=
  t.ring c r = g ∧ ∀ k, k ≠ r → t.ring c k = s.ring c k

theorem Dev.rings_setRing (s : Dev) (c r : Nat) (g : Ring) : Dev.rings c r g s (s.setRing c r g) :=
  ⟨(s.ring_setRing c r c r g).trans (if_pos ⟨rfl, rfl⟩),
    fun k other => (s.ring_setRing c r c k g).trans (if_neg fun same => other same.2)⟩

theorem Dev.rings.modCtx {c r : Nat} {g : Ring} {s t : Dev} (written : Dev.rings c r g s t) (f : Ctx → Ctx)
    (rings : ∀ x, (f x).rings = x.rings) : Dev.rings c r g s (t.modCtx c f) :=
  ⟨(t.ring_modCtx_of_rings c c r f rings).trans written.1,
    fun k other => (t.ring_modCtx_of_rings c c k f rings).trans (written.2 k other)⟩

/-- A ring that is enabled starts at index 0. -/
theorem Dev.rings_freshRing (s : Dev) (c r : Nat) (g : Ring) :
    Dev.rings c r { g with dev := 0, host := 0, door := 0, k := 0 } s (s.freshRing c r g) := by
  have written := s.rings_setRing c r { g with dev := 0, host := 0, door := 0, k := 0 }
  unfold Dev.freshRing
  dsimp only
  split
  · exact written.modCtx _ (fun _ => rfl)
  · exact written.modCtx _ (fun _ => rfl)
  · exact written

/-- The ring that a write leaves. -/
def Ring.written (old g : Ring) : Ring :=
  if g.en && !old.en then { g with dev := 0, host := 0, door := 0, k := 0 } else g

/-- The events that wait for the event ring go when a write starts or stops it. -/
def Dev.evqCleared (s : Dev) (c r : Nat) (g : Ring) : Dev :=
  if r = 2 && g.en != (s.ring c r).en then s.modCtx c (fun x => { x with evq := [] }) else s

theorem Dev.ring_evqCleared (s : Dev) (c r k : Nat) (g : Ring) : (s.evqCleared c r g).ring c k = s.ring c k := by
  unfold Dev.evqCleared
  split
  · exact s.ring_modCtx_of_rings c c k _ (fun _ => rfl)
  · rfl

theorem Dev.ringCfgWrite_of_accepted {s : Dev} {c r w : Nat} {v : U64} (idle : s.hif.pend = false)
    (accepted : s.ringStatus c r w v.toNat = .done) :
    ∃ d, s.ringCfgWrite c r w v = d.hifStatus .done ∧
      Dev.rings c r ((s.ring c r).written ((s.ring c r).setWord w v.toNat)) s d := by
  rw [Dev.ringCfgWrite, Dev.hifOp_of_done idle _ accepted]
  refine ⟨_, rfl, ?_⟩
  show Dev.rings c r _ s (if ((s.ring c r).setWord w v.toNat).en && !(s.ring c r).en
    then (s.evqCleared c r ((s.ring c r).setWord w v.toNat)).freshRing c r ((s.ring c r).setWord w v.toNat)
    else (s.evqCleared c r ((s.ring c r).setWord w v.toNat)).setRing c r ((s.ring c r).setWord w v.toNat))
  generalize (s.ring c r).setWord w v.toNat = g
  unfold Ring.written
  split
  · obtain ⟨here, others⟩ := (s.evqCleared c r g).rings_freshRing c r g
    exact ⟨here, fun k other => (others k other).trans (s.ring_evqCleared c r k g)⟩
  · obtain ⟨here, others⟩ := (s.evqCleared c r g).rings_setRing c r g
    exact ⟨here, fun k other => (others k other).trans (s.ring_evqCleared c r k g)⟩

/-- Settles O43: an accepted write by its effect on the contexts (`Dev.retiles`, `Dev.rings`), a refused one by
`Dev.hifOp_of_refused`. -/
theorem hostConfiguration : Obligations.HostConfiguration := by
  refine ⟨fun c v s opened idle accepted => ?_, fun c i w v s opened idle accepted => ?_,
    fun c r w v s opened idle accepted => ?_, fun c r w v s opened idle refused => ?_⟩
  · obtain ⟨d, runs, ntile, others, mem⟩ := Dev.ctxCfgWrite_of_accepted idle accepted
    refine ⟨s.withDev (d.hifStatus .done), ?_, ntile.trans (ntile_of_field v), rfl, others, mem, rfl⟩
    rw [exec_hifCtxCfgWrite, State.onBar_of_open _ _ opened, runs]
  · rw [exec_hifHostaccWrite, State.onBar_of_open _ _ opened, Dev.hostAccWrite, Dev.hifOp_of_done idle _ accepted]
  · obtain ⟨d, runs, here, others⟩ := Dev.ringCfgWrite_of_accepted idle accepted
    refine ⟨s.withDev (d.hifStatus .done), ?_, rfl, fun on off => here.trans (if_pos ?_), fun kept => here.trans (if_neg ?_),
      others, rfl⟩
    · rw [exec_hifRingWrite, State.onBar_of_open _ _ opened, runs]
    · rw [on, off]; rfl
    · obtain off | on := kept
      · rw [off]; exact Bool.false_ne_true
      · rw [on, Bool.not_true, Bool.and_false]; exact Bool.false_ne_true
  · rw [exec_hifRingWrite, State.onBar_of_open _ _ opened, Dev.ringCfgWrite, Dev.hifOp_of_refused idle _ refused]

end Sys2Proof.Machine
end

section
/-! The choice of a time source: what it leaves alone (R260, Table 14.10). -/
namespace Sys2Proof.Machine
open Sys2Proof

/-- A timebase without the state of its servo. -/
def TimeBlk.unserved (t : TimeBlk) : TimeBlk :=
  { t with servo := .freerun, freq := 0, stepped := false, inRun := 0, outRun := 0, fromPps := false }

/-- The device without what the choice of a time source changes: the servo's state, what is advertised of the time, the event
and the alert, and the free values drawn. -/
def Dev.unserved (s : Dev) : Dev :=
  { s.outer with
    freeCtr := 0, side := {}, time := s.time.unserved
    fab := { s.fab with timeSource := 0, timeQual := 0, timeHops := 0, timeCoord := 0 } }

theorem Dev.unserved_of_outer {s t : Dev} (outer : s.outer = t.outer) : s.unserved = t.unserved :=
  calc s.unserved
    _ = s.outer.unserved := rfl
    _ = t.outer.unserved := congrArg Dev.unserved outer
    _ = t.unserved := rfl

theorem Dev.unserved_follow (s : Dev) (b : Option Source) : (s.follow b).unserved = s.unserved := by
  unfold Dev.follow
  dsimp only
  split
  · split <;> rfl
  · split
    · rfl
    · split <;> rfl

theorem Dev.unserved_event_unless (c : Prop) [Decidable c] (d : Dev) (ty : Nat) (p q : U64) :
    (if c then d else d.eventAll ty p q).unserved = d.unserved := by
  split
  · rfl
  · exact Dev.unserved_of_outer (d.outer_eventAll ty p q)

theorem Dev.unserved_advertise (s : Dev) (before : Servo) (b : Option Source) : (s.advertise before b).unserved = s.unserved := by
  unfold Dev.advertise
  dsimp only
  rw [Dev.unserved_event_unless]
  cases b with
  | none => dsimp only; split <;> rfl
  | some x => dsimp only; split <;> rfl

theorem Dev.unserved_reselect (s : Dev) : s.reselect.unserved = s.unserved :=
  (Dev.unserved_advertise _ _ _).trans (s.unserved_follow _)

section
variable {s t : Dev} (same : t.unserved = s.unserved)
include same

theorem Dev.plant_of_unserved : t.plant = s.plant :=
  calc t.plant
    _ = t.unserved.plant := rfl
    _ = s.unserved.plant := congrArg Dev.plant same
    _ = s.plant := rfl

theorem Dev.time_of_unserved : t.time.unserved = s.time.unserved := (congrArg Dev.time same :)

/-- The candidates do not depend on the servo. -/
theorem Dev.bestSource_of_unserved : t.bestSource = s.bestSource :=
  calc t.bestSource
    _ = t.unserved.bestSource := rfl
    _ = s.unserved.bestSource := congrArg Dev.bestSource same
    _ = s.bestSource := rfl

end

end Sys2Proof.Machine
end

section
/-! The bridle port: the end-to-end measurement, the frames it sends, and a silent master (R355 to R357); O48. -/
namespace Sys2Proof.Machine
open Sys2Proof

theorem exec_delayReqSend (s : State) : exec .delayReqSend s = .next (s.withDev (s.dev.setTime s.dev.time.sendDelayReq)) := rfl
theorem exec_pdelayReqSend (s : State) :
    exec .pdelayReqSend s = .next (s.withDev (s.dev.setTime s.dev.time.sendPdelayReq)) := rfl
theorem exec_arpRequest (tag : Option (BitVec 12)) (target sender : U32) (mac : BitVec 48) (s : State) :
    exec (.arpRequest tag target sender mac) s = .next (s.withDev (s.dev.setTime (s.dev.time.arp tag target sender mac))) := rfl
theorem exec_announceReceiptTimeout (s : State) : exec .announceReceiptTimeout s =
    .next (s.withDev (if s.dev.time.ptpEn then (s.dev.setTime s.dev.time.loseMaster).reselect else s.dev)) := rfl

section
variable {t : TimeBlk}

theorem TimeBlk.fromMaster_of_best {b : Announce} (best : t.best = some b) : t.fromMaster b.source = true := by
  simp [TimeBlk.fromMaster, best]

theorem TimeBlk.measure_of_known {m d : Int} (sync : t.ms = some m) (delay : t.pathDelay = some d)
    (master : t.best.isSome = true) : t.measure = { t with bridleOff := d - m, port := .slave } := by
  simp only [TimeBlk.measure, sync, delay, master, if_true]

/-- The selected master's response to the outstanding request completes the measurement. -/
theorem TimeBlk.delayResp_of_outstanding {b : Announce} {q : U16} {t3 : Stamp} {m : Int} (rx : Stamp) (corr lm : Int)
    (best : t.best = some b) (endToEnd : t.delayP2p = false) (request : t.reqTx = some (q, t3)) (sync : t.ms = some m) :
    t.delayResp b.source q rx corr lm =
      { t with
        pathDelay := some ((m + (stampVal rx - corr - stampVal t3)) / 2), reqTx := none
        logMinDelayReq := if 0 ≤ lm && lm ≤ 5 then lm else t.logMinDelayReq
        bridleOff := (m + (stampVal rx - corr - stampVal t3)) / 2 - m, port := .slave } := by
  have answers : (t.delayP2p || !t.fromMaster b.source || decide (q ≠ q)) = false := by
    rw [endToEnd, TimeBlk.fromMaster_of_best best]
    simp
  simp only [TimeBlk.delayResp, request, sync, answers, Bool.false_eq_true, if_false]
  exact TimeBlk.measure_of_known rfl rfl (by simp [best])

theorem TimeBlk.sendDelayReq_of_master (talks : t.mayTalk = true) (endToEnd : t.delayP2p = false)
    (master : t.best.isSome = true) : t.sendDelayReq =
      ({ t with reqSeq := t.reqSeq + 1, reqTx := some (t.reqSeq, t.txStamp) } : TimeBlk).emit [.delayReq t.reqSeq] :=
  if_neg (by simp [talks, endToEnd, Option.isSome_iff_ne_none.mp master])

theorem TimeBlk.sendPdelayReq_of_peer (talks : t.mayTalk = true) (peer : t.delayP2p = true) : t.sendPdelayReq =
    ({ t with pReqSeq := t.pReqSeq + 1, pReqTx := some (t.pReqSeq, t.txStamp) } : TimeBlk).emit [.pdelayReq t.pReqSeq] :=
  if_neg (by simp [talks, peer])

section
variable {tag : Option (BitVec 12)} {target sender : U32} {mac : BitVec 48}

theorem TimeBlk.arp_of_own (tagged : t.tagOk tag = true) (udp : t.transport = 2) (addressed : t.mac ≠ 0) :
    t.arp tag t.ipv4 sender mac = t.emit [.arpReply sender mac] := by
  rw [TimeBlk.arp, if_neg (by simp [tagged, udp]), if_neg addressed]

theorem TimeBlk.arp_of_other (other : target ≠ t.ipv4) : t.arp tag target sender mac = t.dropFrame :=
  if_pos (by simp [other])

end

theorem TimeBlk.loseMaster_of_best {b : Announce} (best : t.best = some b) : t.loseMaster =
    { t with
      foreign := t.foreign.filter (fun x => x.1.source ≠ b.source), best := none, syncRx := none, ms := none
      reqTx := none, port := .listening } := by
  simp only [TimeBlk.loseMaster, best]

end

/-- Settles O48: the measurement by `TimeBlk.delayResp_of_outstanding`, and the port's commands by their cases. -/
theorem bridleMeasuresAndSends : Obligations.BridleMeasuresAndSends := by
  refine ⟨fun t b q t3 rx m corr lm best endToEnd request sync => ?_, fun s => ⟨fun talks endToEnd master => ?_,
    fun talks peer => ?_, fun tag sender mac tagged udp addressed => ?_, fun tag target sender mac _ _ other => ?_,
    fun b on best => ?_⟩⟩
  · dsimp only
    rw [TimeBlk.delayResp_of_outstanding rx corr lm best endToEnd request sync]
    exact ⟨rfl, rfl, rfl, rfl, rfl, rfl, rfl⟩
  · rw [exec_delayReqSend, TimeBlk.sendDelayReq_of_master talks endToEnd master]
  · rw [exec_pdelayReqSend, TimeBlk.sendPdelayReq_of_peer talks peer]
  · rw [exec_arpRequest, TimeBlk.arp_of_own tagged udp addressed]
  · rw [exec_arpRequest, TimeBlk.arp_of_other other]
  · have same := (s.dev.setTime s.dev.time.loseMaster).unserved_reselect
    have time := Dev.time_of_unserved same
    obtain ⟨mem, -⟩ := Prod.mk.inj (Dev.plant_of_unserved same)
    rw [exec_announceReceiptTimeout, if_pos on]
    rw [Dev.setTime, TimeBlk.loseMaster_of_best best] at time mem ⊢
    generalize Dev.reselect _ = d at time mem
    have foreign := congrArg TimeBlk.foreign time
    refine ⟨s.withDev d, rfl, (congrArg TimeBlk.best time :), (congrArg TimeBlk.port time :), fun e heard => ?_, mem, rfl⟩
    have kept := List.of_mem_filter (foreign ▸ heard)
    exact of_decide_eq_true kept

end Sys2Proof.Machine
end

section
/-! The servo: the offset that it reports and the range of FREQ (R359); O49. -/
namespace Sys2Proof.Machine
open Sys2Proof

theorem exec_servoUpdate (n : Nat) (s : State) : exec (.servoUpdate n) s = .next (s.withDev (s.dev.servoUpdate n)) := rfl

/-! ### An update -/

theorem Dev.offset_of_unserved {s t : Dev} (same : t.unserved = s.unserved) : t.time.offset = s.time.offset :=
  (congrArg TimeBlk.offset (Dev.time_of_unserved same) :)

theorem TimeBlk.offset_move (t : TimeBlk) : t.move.offset = t.offset := by
  unfold TimeBlk.move
  split
  · rfl
  · split <;> rfl

/-- FREQ, the term I and the free values are all that an update of FREQ changes. -/
theorem Dev.slew_frame (s : Dev) (o : Int) (n : Nat) :
    (s.slew o n).time.offset = s.time.offset ∧ (s.slew o n).plant = s.plant := ⟨rfl, rfl⟩

/-- The timebase with the offset reported, and with FREQ or the time adjusted. -/
def Dev.adjusted (s : Dev) (b : Source) (n : Nat) : Dev :=
  let d := s.setTime { s.time with offset := offsetReg b.offset }
  if s.time.servo = .acquire && s.time.stepOk && !s.time.stepped && 1000 * 65536 < b.offset
  then d.setTime (d.time.stepForward b.offset) else d.slew b.offset n

theorem Dev.adjusted_frame (s : Dev) (b : Source) (n : Nat) :
    (s.adjusted b n).time.offset = offsetReg b.offset ∧ (s.adjusted b n).plant = s.plant := by
  unfold Dev.adjusted
  dsimp only
  split
  · exact ⟨rfl, rfl⟩
  · exact Dev.slew_frame _ _ _

theorem Dev.discipline_eq (s : Dev) (b : Source) (n : Nat) :
    s.discipline b n = (s.adjusted b n).setTime (((s.adjusted b n).time.count b.offset).move) := rfl

/-- The servo, disciplined by a source, reports its offset and changes the timebase and the free values alone. -/
theorem Dev.discipline_frame (s : Dev) (b : Source) (n : Nat) :
    (s.discipline b n).time.offset = offsetReg b.offset ∧ (s.discipline b n).plant = s.plant := by
  obtain ⟨offset, plant⟩ := s.adjusted_frame b n
  rw [Dev.discipline_eq]
  generalize s.adjusted b n = d at offset plant
  exact ⟨(TimeBlk.offset_move _).trans offset, plant⟩

/-- An update with a source. -/
theorem Dev.servoUpdate_of_source {s : Dev} {n : Nat} {b : Source} (chosen : s.bestSource = some b) (interval : n ≠ 0) :
    s.servoUpdate n = (s.reselect.discipline b n).advertise s.reselect.time.servo (some b) := by
  have again : s.reselect.bestSource = some b := (Dev.bestSource_of_unserved s.unserved_reselect).trans chosen
  unfold Dev.servoUpdate
  generalize s.reselect = d at again ⊢
  simp only [again, if_neg interval]

/-- An update reports the offset of its source, and leaves the plant alone. -/
theorem Dev.servoUpdate_frame {s : Dev} {n : Nat} {b : Source} (chosen : s.bestSource = some b) (interval : n ≠ 0) :
    (s.servoUpdate n).time.offset = offsetReg b.offset ∧ (s.servoUpdate n).plant = s.plant := by
  obtain ⟨offset, plant⟩ := s.reselect.discipline_frame b n
  have same := Dev.unserved_advertise (s.reselect.discipline b n) s.reselect.time.servo (some b)
  rw [Dev.servoUpdate_of_source chosen interval]
  exact ⟨(Dev.offset_of_unserved same).trans offset,
    ((Dev.plant_of_unserved same).trans plant).trans (Dev.plant_of_unserved s.unserved_reselect)⟩

/-! ### FREQ (R359) -/

theorem freqClamp_bounds (ppb : Rat) : -100000 ≤ freqClamp ppb ∧ freqClamp ppb ≤ 100000 := by
  unfold freqClamp
  split
  · norm_num
  · next above =>
    split
    · norm_num
    · next below => exact ⟨not_lt.mp above, not_lt.mp below⟩

/-- The whole number that FREQ takes of a value: one of its two neighbours when it is not on the grid. -/
def neighbour (x : Rat) (up : Bool) : Int := if up && x.den != 1 then x.floor + 1 else x.floor

theorem freqOf_eq (ppb : Rat) (up : Bool) : freqOf ppb up = BitVec.ofInt 32 (neighbour (ppb * 256) up) := rfl

/-- A neighbour stays within bounds that are whole numbers: above an upper bound the value would be on the grid. -/
theorem neighbour_bounds {x : Rat} {m : Int} (low : -(m : Rat) ≤ x) (high : x ≤ m) (up : Bool) :
    -m ≤ neighbour x up ∧ neighbour x up ≤ m := by
  have below : -m ≤ x.floor := Int.le_floor.mpr (by exact_mod_cast low)
  have floor_le : (x.floor : Rat) ≤ x := Int.floor_le x
  unfold neighbour
  split
  · next grid =>
    have off : x ≠ m := by
      rintro rfl
      simp at grid
    have inside : (x.floor : Rat) < m := floor_le.trans_lt (lt_of_le_of_ne high off)
    have : x.floor < m := by exact_mod_cast inside
    omega
  · have : x.floor ≤ m := by exact_mod_cast floor_le.trans high
    omega

/-- FREQ is within 100 ppm, in units of 2⁻⁸ ppb. -/
theorem freqOf_freqClamp_bounds (ppb : Rat) (up : Bool) : (freqOf (freqClamp ppb) up).toInt.natAbs ≤ 25600000 := by
  obtain ⟨low, high⟩ := freqClamp_bounds ppb
  obtain ⟨low, high⟩ := neighbour_bounds (x := freqClamp ppb * 256) (m := 25600000) (by push_cast; linarith)
    (by push_cast; linarith) up
  rw [freqOf_eq, BitVec.toInt_ofInt, Int.bmod_eq_of_le (by omega) (by omega)]
  omega

/-- Settles O49: an update by `Dev.servoUpdate_frame`, FREQ by `freqOf_freqClamp_bounds`. -/
theorem servoStaysInRange : Obligations.ServoStaysInRange := by
  refine ⟨fun n s b chosen interval => ?_, fun d o n => ⟨freqOf_freqClamp_bounds _ _, rfl⟩⟩
  obtain ⟨offset, plant⟩ := Dev.servoUpdate_frame chosen interval
  rw [exec_servoUpdate]
  generalize s.dev.servoUpdate n = d at offset plant
  obtain ⟨mem, rest⟩ := Prod.mk.inj plant
  obtain ⟨tiles, pwr⟩ := Prod.mk.inj rest
  exact ⟨s.withDev d, rfl, offset, mem, tiles, pwr, rfl⟩

end Sys2Proof.Machine
end

section
/-! TIME_SET and TIME_NOW (R358), the 1PPS input (R361) and the tick (R418); O50. -/
namespace Sys2Proof.Machine
open Sys2Proof

theorem exec_timeSet (v : U64) (s : State) : exec (.timeSet v) s = s.onBar (fun d => d.timeSet v) := rfl
theorem exec_timeNowRead (s : State) : exec .timeNowRead s = s.onBar Dev.timeNow := rfl
theorem exec_ppsEdge (n : Nat) (s : State) : exec (.ppsEdge n) s = .next (s.withDev (s.dev.ppsEdge n)) := rfl
theorem exec_ppsLoss (s : State) : exec .ppsLoss s = .next (s.withDev s.dev.ppsLost) := rfl

theorem step_of_empty {s : State} (none : s.pending = []) : step s = .next (s.withDev s.dev.tick) := by
  obtain ⟨pending, rst, dev⟩ := s
  obtain rfl : pending = [] := none
  rfl

section
variable {s : Dev}

theorem Dev.timeSet_of_unused (v : U64) (unused : s.timeInUse = false) : s.timeSet v =
    s.setTime { s.time with ns := v, frac := 0, acc := 0, labelled := true, opStatus := 0 } :=
  if_neg (by rw [unused]; exact Bool.false_ne_true)

theorem Dev.timeSet_of_used (v : U64) (used : s.timeInUse = true) : s.timeSet v =
    s.setTime { s.time with opStatus := Status.notIdle.byte } := if_pos used

section
variable (on : s.time.ppsMode ≠ 0)
include on

theorem Dev.ppsEdge_of_valid {n : Nat} (valid : s.time.edgeValid n = true) : s.ppsEdge n =
    (s.setTime { s.time with
      pps := 1, ppsLast := some s.time.ns, ppsTs := s.time.ns, ppsOff := s.time.edgeOffset }).reselect := by
  rw [Dev.ppsEdge, if_neg on, if_pos valid]

theorem Dev.ppsEdge_of_invalid {n : Nat} (invalid : s.time.edgeValid n = false) : s.ppsEdge n =
    s.setTime { s.time with ppsBad := satAdd s.time.ppsBad 1 } := by
  rw [Dev.ppsEdge, if_neg on, if_neg (by rw [invalid]; exact Bool.false_ne_true)]

theorem Dev.ppsLost_of_on : s.ppsLost = (s.setTime { s.time with pps := 2, ppsLast := none }).reselect := if_neg on

end

end

/-! ### The tick (R418) -/

/-- The value held for a total that is given by its parts. -/
theorem TimeBlk.setTotal_of_parts (t : TimeBlk) {ns frac : Nat} {acc : Int} (fracIn : frac < 65536) (low : 0 ≤ acc)
    (high : acc < 1000000000) : t.setTotal (((ns * 65536 + frac : Nat) : Int) * 1000000000 + acc) =
      { t with ns := BitVec.ofNat 64 ns, frac := BitVec.ofNat 16 frac, acc := acc } := by
  have whole : (((ns * 65536 + frac : Nat) : Int) * 1000000000 + acc) / 1000000000 = (ns * 65536 + frac : Nat) := by omega
  have rest : (((ns * 65536 + frac : Nat) : Int) * 1000000000 + acc) % 1000000000 = acc := by omega
  have nanos : ((ns * 65536 + frac : Nat) : Int) / 65536 = (ns : Nat) := by omega
  have part : ((ns * 65536 + frac : Nat) : Int) % 65536 = (frac : Nat) := by omega
  unfold TimeBlk.setTotal
  dsimp only
  rw [whole, rest, nanos, part, BitVec.ofInt_natCast, BitVec.ofInt_natCast]

/-- With FREQ 0 a tick is 2 ns, and the fraction is kept. -/
theorem TimeBlk.tick_of_freq_zero {t : TimeBlk} (steady : t.freq = 0) (low : 0 ≤ t.acc) (high : t.acc < 1000000000) :
    t.tick = { t with ns := t.ns + 2 } := by
  have total : t.total + 2 * 65536 * 1000000000 + 512 * t.freq.toInt =
      (((t.ns.toNat + 2) * 65536 + t.frac.toNat : Nat) : Int) * 1000000000 + t.acc := by
    rw [steady, TimeBlk.total, show (0 : U32).toInt = 0 from rfl]
    omega
  have ns : BitVec.ofNat 64 (t.ns.toNat + 2) = t.ns + 2 := by
    rw [BitVec.ofNat_add, BitVec.ofNat_toNat, BitVec.setWidth_eq]
    rfl
  have frac : BitVec.ofNat 16 t.frac.toNat = t.frac := by
    rw [BitVec.ofNat_toNat, BitVec.setWidth_eq]
  rw [TimeBlk.tick, total, t.setTotal_of_parts t.frac.isLt low high, ns, frac]

/-- Settles O50: the commands by their cases, and a tick by `TimeBlk.tick_of_freq_zero`. -/
theorem timeIsSetReadAndKept : Obligations.TimeIsSetReadAndKept := by
  refine ⟨⟨fun v s opened => ⟨fun unused => ?_, fun used => ?_⟩, fun s opened => ?_⟩,
    fun s on => ⟨fun n valid => ?_, fun n invalid => ?_, ?_⟩, fun s none steady low high => ?_⟩
  · rw [exec_timeSet, State.onBar_of_open _ _ opened, Dev.timeSet_of_unused v unused]
  · rw [exec_timeSet, State.onBar_of_open _ _ opened, Dev.timeSet_of_used v used]
  · rw [exec_timeNowRead, State.onBar_of_open _ _ opened]
    rfl
  · have same := (s.dev.setTime { s.dev.time with pps := 1, ppsLast := some s.dev.time.ns, ppsTs := s.dev.time.ns
                                                  ppsOff := s.dev.time.edgeOffset }).unserved_reselect
    have time := Dev.time_of_unserved same
    obtain ⟨mem, -⟩ := Prod.mk.inj (Dev.plant_of_unserved same)
    rw [exec_ppsEdge, Dev.ppsEdge_of_valid on valid]
    generalize Dev.reselect _ = d at time mem
    exact ⟨s.withDev d, rfl, (congrArg TimeBlk.pps time :), (congrArg TimeBlk.ppsTs time :), (congrArg TimeBlk.ppsLast time :),
      (congrArg TimeBlk.ns time :), mem⟩
  · rw [exec_ppsEdge, Dev.ppsEdge_of_invalid on invalid]
  · have time := Dev.time_of_unserved (s.dev.setTime { s.dev.time with pps := 2, ppsLast := none }).unserved_reselect
    rw [exec_ppsLoss, Dev.ppsLost_of_on on]
    generalize Dev.reselect _ = d at time
    have serves := congrArg TimeBlk.ppsServes time
    refine ⟨s.withDev d, rfl, (congrArg TimeBlk.pps time :), (congrArg TimeBlk.ppsLast time :), Eq.trans serves ?_⟩
    exact (congrArg (· && s.dev.time.labelled) (Bool.and_false _)).trans (Bool.false_and _)
  · rw [step_of_empty none, Dev.tick, TimeBlk.tick_of_freq_zero steady low high]
    rfl

end Sys2Proof.Machine
end

section
/-! Remote slots (R20, R250 to R255): the slot at the head of its queue starts its operation; O19. -/
namespace Sys2Proof.Machine
open Sys2Proof

/-! ## The seven commands -/

theorem exec_put (c : CtxId) (t : TileId) (s : State) :
    exec (.put c t) s = .next (s.withDev (s.dev.remStart c.val t.val 1)) := rfl

theorem exec_get (c : CtxId) (t : TileId) (s : State) :
    exec (.get c t) s = .next (s.withDev (s.dev.remStart c.val t.val 2)) := rfl

theorem exec_acc (c : CtxId) (t : TileId) (s : State) :
    exec (.acc c t) s = .next (s.withDev (s.dev.remStart c.val t.val 3)) := rfl

theorem exec_fadd (c : CtxId) (t : TileId) (s : State) :
    exec (.fadd c t) s = .next (s.withDev (s.dev.remStart c.val t.val 4)) := rfl

theorem exec_swap (c : CtxId) (t : TileId) (s : State) :
    exec (.swap c t) s = .next (s.withDev (s.dev.remStart c.val t.val 5)) := rfl

theorem exec_cas (c : CtxId) (t : TileId) (s : State) :
    exec (.cas c t) s = .next (s.withDev (s.dev.remStart c.val t.val 6)) := rfl

theorem exec_signal (c : CtxId) (t : TileId) (s : State) :
    exec (.signal c t) s = .next (s.withDev (s.dev.remStart c.val t.val 7)) := rfl

/-- The seven commands start the slot of their kind alike. -/
theorem exec_remStart (c : CtxId) (t : TileId) (s : State) :
    ∀ i ∈ [(1, Instr.put c t), (2, .get c t), (3, .acc c t), (4, .fadd c t), (5, .swap c t), (6, .cas c t),
        (7, .signal c t)], exec i.2 s = .next (s.withDev (s.dev.remStart c.val t.val i.1)) := by
  simp only [List.forall_mem_cons, List.not_mem_nil, false_implies, implies_true, and_true]
  exact ⟨exec_put c t s, exec_get c t s, exec_acc c t s, exec_fadd c t s, exec_swap c t s, exec_cas c t s,
    exec_signal c t s⟩

/-! ## A slot that is ready starts -/

/-- What a remote slot asks of its target (R251 to R254). -/
def Dev.remAsk (s : Dev) (c k : Nat) (coord : BitVec 24) (win off : Nat) (rse : Bool) (rhitch : U16) (loc : Option Desc)
    (operand compare : U64) : Ask :=
  { kind := k, dst := coord, win := win, off := off, rse := rse, rhitch := rhitch, data := s.remData c k loc compare
    len := loc.elim 0 Desc.packedLen, operand := if k = 4 ∨ k = 5 ∨ k = 6 then operand else 0 }

/-- A remote slot starts: its operation joins the remote queue, the next entry of the queue reaches its wait, and what may
be sent is sent. -/
def Dev.startRem (s : Dev) (c t seq : Nat) (a : Ask) (loc : Option Desc) : Dev :=
  (((s.modTile c t (fun x => x.modSlot seq 6 (fun z => { z with st := .started }))).startOp (.slot c t seq 6) .slot c a
    loc).runJobs [.arm c t 6]).pump

/-- The slot at the head of its queue, with no earlier GET outstanding into its tensor, starts where its lines are free and
its store is sound. A GET reads nothing as it starts. -/
theorem Dev.remStart_of_ready {s : Dev} {c t k : Nat} {w : IWord} {y : ISlot} {coord : BitVec 24} {win off : Nat} {rse : Bool}
    {rhitch : U16} {loc : Option Desc} {resreg : Nat} {operand compare : U64}
    (head : s.headReady c t 6 (isRem k) = some (w, y))
    (op : y.op = .rem k coord win off rse rhitch loc resreg operand compare) (noGet : s.getsInto c t loc = false)
    (free : s.linesFree (s.remLines c loc) (if k = 2 then [] else s.remLines c loc))
    (clean : s.storesClean c (if k = 2 then [] else (loc.bind Desc.storeTile).toList)) :
    s.remStart c t k = s.startRem c t w.seq (s.remAsk c k coord win off rse rhitch loc operand compare) loc := by
  simp only [Dev.remStart, head, op]
  rw [noGet, if_neg Bool.false_ne_true, s.withPool_of_free _ _ _ free, s.meetStores_of_clean c _ clean]
  rfl

/-- Settles O19: the seven commands are `Dev.remStart` of their kind, and a slot that is ready starts by
`Dev.remStart_of_ready`. -/
theorem remoteSlotsStart : Obligations.RemoteSlotsStart := by
  intro c t s w y k coord win off rse rhitch loc resreg operand compare head op lines noGet free clean data len val ask i hi kind
  rw [exec_remStart c t s i hi, ← kind, Dev.remStart_of_ready head op noGet free clean]
  rfl

end Sys2Proof.Machine
end

section
/-! Where contexts have their tiles and what these hold (R13, R14): what events, traffic, the cascades of the hitch fabric and
the end of remote operations leave of them. -/
namespace Sys2Proof.Machine
open Sys2Proof

/-! ## The view -/

/-- A context's residency, its tile set with what backs it, and its allotment. -/
structure Berth where
  resid : Residence
  ntile : Byte
  backs : Tab Nat
  allotSize : BitVec 12
  allotBase : BitVec 11
  allotEn : Bool

def Ctx.berth (x : Ctx) : Berth := ⟨x.resid, x.ntile, x.backs, x.allotSize, x.allotBase, x.allotEn⟩

/-- Every context's berth, and of every tile the part that `Dev.berths` is asked for. -/
structure Berths (γ : Type) where
  ctx : Nat → Berth
  tile : Nat → Nat → γ

def Dev.berths {γ : Type} (q : Tile → γ) (s : Dev) : Berths γ := ⟨fun c => (s.ctx c).berth, fun c t => q (s.tile c t)⟩

/-- The two stores of a tile. -/
def Tile.stores (x : Tile) : Mem × Mem := (x.store, x.dstore)

section
variable {γ : Type} {q : Tile → γ} {s t : Dev}

theorem Dev.berth_of_berths (same : t.berths q = s.berths q) (c : Nat) : (t.ctx c).berth = (s.ctx c).berth :=
  congrFun (congrArg Berths.ctx same) c

theorem Dev.tile_of_berths (same : t.berths q = s.berths q) (c u : Nat) : q (t.tile c u) = q (s.tile c u) :=
  congrFun (congrFun (congrArg Berths.tile same) c) u

/-- The place of an offset in the pool rests on the context's allotment. -/
theorem Ctx.pool_of_berth {x y : Ctx} (same : x.berth = y.berth) (off : Nat) : x.pool off = y.pool off := by
  have base : x.allotBase = y.allotBase := congrArg Berth.allotBase same
  rw [Ctx.pool, base, Ctx.pool]

/-- Devices with the same berths, saved tiles and physical tiles. -/
theorem Dev.berths_of_frame (tiles : t.tiles = s.tiles) (berth : ∀ c, (t.ctx c).berth = (s.ctx c).berth)
    (saved : ∀ c, (t.ctx c).saved = (s.ctx c).saved) : t.berths q = s.berths q := by
  have seat (c : Nat) : (t.ctx c).seat = (s.ctx c).seat := by
    rw [Ctx.seat, saved]
    exact congrArg (fun b : Berth => (b.resid, b.ntile, (s.ctx c).saved, b.backs)) (berth c)
  simp only [Dev.berths, berth, Dev.tile_of_seat tiles (seat _)]

theorem Dev.berths_setCtx (s : Dev) (c : Nat) (x : Ctx) (berth : x.berth = (s.ctx c).berth)
    (saved : x.saved = (s.ctx c).saved) : (s.setCtx c x).berths q = s.berths q := by
  refine Dev.berths_of_frame rfl (fun k => ?_) (fun k => ?_) <;> rw [Dev.ctx_setCtx] <;> split
  · next here => rw [here, berth]
  · rfl
  · next here => rw [here, saved]
  · rfl

theorem Dev.berths_modCtx (s : Dev) (c : Nat) (f : Ctx → Ctx) (berth : ∀ x, (f x).berth = x.berth)
    (saved : ∀ x, (f x).saved = x.saved) : (s.modCtx c f).berths q = s.berths q :=
  s.berths_setCtx c _ (berth _) (saved _)

theorem Dev.berth_setTile (s : Dev) (c t : Nat) (v : Tile) (k : Nat) : ((s.setTile c t v).ctx k).berth = (s.ctx k).berth := by
  unfold Dev.setTile
  dsimp only
  split
  · split
    · rw [Dev.ctx_setCtx]
      split
      · next here => rw [here]; rfl
      · rfl
    · rfl
  · split <;> rfl

/-- A change of a tile beside the part that is looked at. -/
theorem Dev.berths_modTile (s : Dev) (c t : Nat) (f : Tile → Tile) (kept : ∀ x, q (f x) = q x) :
    (s.modTile c t f).berths q = s.berths q := by
  refine congrArg₂ Berths.mk (funext fun k => s.berth_setTile c t _ k) (funext fun k => funext fun u => ?_)
  obtain same | changed := s.tile_modTile_cases c t k u f
  · rw [same]
  · rw [changed, kept]

/-! ## Events (R352) -/

@[simp] theorem Dev.berths_setRing (s : Dev) (c r : Nat) (g : Ring) : (s.setRing c r g).berths q = s.berths q :=
  s.berths_modCtx c _ (fun _ => rfl) (fun _ => rfl)

@[simp] theorem Dev.berths_message (s : Dev) (c vec : Nat) : (s.message c vec).berths q = s.berths q := by
  obtain ⟨p, pends⟩ | ⟨ms, hs, sent⟩ := s.message_cases c vec
  · rw [pends]; exact s.berths_setCtx c _ rfl rfl
  · rw [sent]; rfl

@[simp] theorem Dev.berths_ringWrite (s : Dev) (c r : Nat) (bs : List Byte) (now : Bool) :
    (s.ringWrite c r bs now).berths q = s.berths q := by
  have counted (d : Dev) : (d.countRecord c r now).berths q = d.berths q := by
    obtain same | ⟨n, counted | sent⟩ := d.countRecord_cases c r now
    · rw [same]
    · rw [counted, Dev.berths_setRing]
    · rw [sent, Dev.berths_message, Dev.berths_setRing]
  rw [Dev.ringWrite, counted, Dev.berths_setRing]
  rfl

@[simp] theorem Dev.berths_writeEvent (s : Dev) (c : Nat) (e : Ev) : (s.writeEvent c e).berths q = s.berths q := by
  unfold Dev.writeEvent
  dsimp only
  split
  · rfl
  · split
    · rw [Dev.berths_ringWrite]; exact s.berths_setCtx c _ rfl rfl
    · exact s.berths_setCtx c _ rfl rfl

@[simp] theorem Dev.berths_event (s : Dev) (c ty : Nat) (p r : U64) : (s.event c ty p r).berths q = s.berths q := by
  have flushed (d : Dev) : (d.flushEvents c).berths q = d.berths q :=
    (foldl_keeps (Dev.berths q) _ (fun d e => d.berths_writeEvent c e) _ _).trans
      (d.berths_modCtx c _ (fun _ => rfl) (fun _ => rfl))
  unfold Dev.event
  split
  · rfl
  · dsimp only
    split
    · rw [flushed]; exact s.berths_modCtx c _ (fun _ => rfl) (fun _ => rfl)
    · exact s.berths_modCtx c _ (fun _ => rfl) (fun _ => rfl)

@[simp] theorem Dev.berths_ewCheck (s : Dev) (c : Nat) : (s.ewCheck c).berths q = s.berths q := by
  unfold Dev.ewCheck
  dsimp only
  split
  · rw [Dev.berths_event]; exact s.berths_setCtx c _ rfl rfl
  · rfl

@[simp] theorem Dev.berths_retiredPos (s : Dev) (c : Nat) : (s.retiredPos c).2.berths q = s.berths q := by
  unfold Dev.retiredPos
  dsimp only
  split <;> rfl

@[simp] theorem Dev.berths_postFlags (s : Dev) (c : Nat) (f : Flags) : (s.postFlags c f).berths q = s.berths q := by
  unfold Dev.postFlags
  split
  · rfl
  · exact s.berths_modCtx c _ (fun _ => rfl) (fun _ => rfl)

/-! ## Traffic -/

/-- Neither the sending nor the routing of packets changes contexts or tiles. -/
theorem Dev.berths_keptByRouting : Dev.KeptByRouting (Dev.berths q) where
  outbox _ _ := rfl
  nextLink _ _ := rfl
  inbox _ _ := rfl
  drop _ _ := rfl
  nextPkt _ _ := rfl
  setLink _ _ _ _ := rfl

@[simp] theorem Dev.berths_send (s : Dev) (p : Packet) : (s.send p).berths q = s.berths q :=
  (Dev.berths_keptByRouting.flush _).trans (Dev.berths_keptByRouting.route _ _ _ _)

@[simp] theorem Dev.berths_sendPkt (s : Dev) (id i : Nat) : (s.sendPkt id i).berths q = s.berths q := by
  unfold Dev.sendPkt
  split
  · rfl
  · split
    · rw [Dev.berths_send]; rfl
    · rfl

@[simp] theorem Dev.berths_pump (s : Dev) : s.pump.berths q = s.berths q := by
  have pumped (ops before : List ROp) (d : Dev) : (d.pumpOps before ops).berths q = d.berths q := by
    induction ops generalizing before d with
    | nil => rfl
    | cons o ops ih =>
      rw [Dev.pumpOps, ih]
      split
      · exact foldl_keeps (Dev.berths q) _ (fun d i => d.berths_sendPkt o.id i) _ _
      · rfl
  exact pumped _ _ _

end

/-! ## The cascades of the hitch fabric (R199) -/

/-- A change of a tile beside its stores. -/
theorem Dev.berths_modTile_stores (s : Dev) (c t : Nat) (f : Tile → Tile) (kept : ∀ x, (f x).stores = x.stores) :
    (s.modTile c t f).berths Tile.stores = s.berths Tile.stores :=
  s.berths_modTile c t f kept

@[simp] theorem Dev.berths_grant (key : Nat) (s : Dev) (w : Waiter) :
    (Dev.grant key s w).berths Tile.stores = s.berths Tile.stores := by
  unfold Dev.grant
  split
  · exact s.berths_modTile _ _ _ (fun _ => rfl)
  · exact s.berths_modTile _ _ _ (fun _ => rfl)
  · rfl

@[simp] theorem Dev.berths_serve (s : Dev) (key : Nat) : (s.serve key).berths Tile.stores = s.berths Tile.stores := by
  unfold Dev.serve
  dsimp only
  split
  · rfl
  · exact foldl_keeps (Dev.berths Tile.stores) _ (Dev.berths_grant key) _ _

@[simp] theorem Dev.berths_awaken (s : Dev) (p : Sleeper → Bool) :
    (s.awaken p).berths Tile.stores = s.berths Tile.stores :=
  foldl_keeps (Dev.berths Tile.stores) _ Dev.berths_serve _ _

@[simp] theorem Dev.berths_ignoreSignal (s : Dev) (c : Nat) :
    (s.ignoreSignal c).berths Tile.stores = s.berths Tile.stores :=
  s.berths_modCtx c _ (fun _ => rfl) (fun _ => rfl)

@[simp] theorem Dev.berths_signal (s : Dev) (c key n : Nat) :
    (s.signal c key n).berths Tile.stores = s.berths Tile.stores := by
  unfold Dev.signal
  dsimp only
  split
  · exact s.berths_ignoreSignal c
  · split
    · rfl
    · exact s.berths_modCtx c (fun x => { x with satCnt := satAdd x.satCnt 1 }) (fun _ => rfl) (fun _ => rfl)

@[simp] theorem Dev.berths_wait (s : Dev) (key n : Nat) (who : Sleeper) :
    (s.wait key n who).2.berths Tile.stores = s.berths Tile.stores := by
  unfold Dev.wait
  dsimp only
  split
  · rfl
  · split
    · rfl
    · rfl
    · split <;> rfl
    · split <;> rfl

/-! ### Launches and programs that end -/

@[simp] theorem Dev.berths_modLaunch (s : Dev) (c : Nat) (pos : U32) (f : Launch → Launch) :
    (s.modLaunch c pos f).berths Tile.stores = s.berths Tile.stores :=
  s.berths_modCtx c _ (fun _ => rfl) (fun _ => rfl)

@[simp] theorem Dev.berths_failLaunch (s : Dev) (c : Nat) (pos : U32) (f : Failure) :
    (s.failLaunch c pos f).berths Tile.stores = s.berths Tile.stores := by
  unfold Dev.failLaunch
  split
  · rfl
  · split
    · exact s.berths_modLaunch c pos _
    · exact s.berths_event c _ _ _

@[simp] theorem Dev.berths_finishLaunch (s : Dev) (c : Nat) (pos : U32) (st : Status) :
    (s.finishLaunch c pos st).berths Tile.stores = s.berths Tile.stores := by
  unfold Dev.finishLaunch
  split
  · rfl
  · exact Eq.trans (Dev.berths_modCtx _ c _ (fun _ => rfl) (fun _ => rfl)) (s.berths_modLaunch c pos _)

@[simp] theorem Dev.berths_noteDiscard (s : Dev) (c : Nat) (pos : U32) (f : Failure) :
    (s.noteDiscard c pos f).berths Tile.stores = s.berths Tile.stores := by
  unfold Dev.noteDiscard
  split
  · split
    · exact s.berths_failLaunch c pos f
    · rfl
  · rfl

@[simp] theorem Dev.berths_endProgram (s : Dev) (c t : Nat) (pos : U32) :
    (s.endProgram c t pos).berths Tile.stores = s.berths Tile.stores := by
  have ended := s.berths_modTile_stores c t (fun x => { x with prog := none }.commitShadows) (fun _ => rfl)
  unfold Dev.endProgram
  dsimp only
  split
  · rw [Dev.berths_modLaunch, ended]
  · split
    · rw [Dev.berths_finishLaunch, Dev.berths_modLaunch, ended]
    · rw [Dev.berths_modLaunch, ended]

@[simp] theorem Dev.berths_sweepTile (s : Dev) (c t : Nat) : (s.sweepTile c t).berths Tile.stores = s.berths Tile.stores := by
  have swept := s.berths_modTile_stores c t (fun x => { x with words := x.words.filter (fun w => !w.isOver) }) (fun _ => rfl)
  unfold Dev.sweepTile
  dsimp only
  split
  · exact swept
  · split
    · rw [Dev.berths_endProgram, swept]
    · exact swept

@[simp] theorem Dev.berths_stopProgram (s : Dev) (c t : Nat) (giveBack : Bool) :
    (s.stopProgram c t giveBack).1.berths Tile.stores = s.berths Tile.stores := by
  have abandoned : (s.abandonWord c t giveBack).1.berths Tile.stores = s.berths Tile.stores := by
    unfold Dev.abandonWord Dev.unsleep
    split
    · rfl
    · refine Eq.trans (Dev.berths_modTile_stores _ c t _ (fun _ => rfl)) ?_
      rw [Dev.berths_awaken, Dev.berths_awaken]
  exact Eq.trans (Dev.berths_modTile_stores _ c t _ (fun _ => rfl)) abandoned

@[simp] theorem Dev.berths_endSlot (s : Dev) (c t seq num : Nat) (st : Status) :
    (s.endSlot c t seq num st).1.berths Tile.stores = s.berths Tile.stores := by
  have ended (f : Tile → Tile) (kept : ∀ x, (f x).stores = x.stores) :
      ((s.unsleep (.slot c t seq num)).modTile c t f).berths Tile.stores = s.berths Tile.stores :=
    (Dev.berths_modTile_stores _ c t f kept).trans (s.berths_awaken _)
  unfold Dev.endSlot
  split
  · rfl
  · split
    · rfl
    · split
      · rfl
      · dsimp only
        split
        · rw [Dev.berths_noteDiscard]; exact ended _ (fun _ => rfl)
        · rw [Dev.berths_stopProgram, Dev.berths_failLaunch]; exact ended _ (fun _ => rfl)

@[simp] theorem Dev.berths_endWord (s : Dev) (c t : Nat) (st : Status) :
    (s.endWord c t st).1.berths Tile.stores = s.berths Tile.stores := by
  unfold Dev.endWord
  dsimp only
  split
  · rfl
  · split
    · rfl
    · split
      · rw [Dev.berths_noteDiscard, Dev.berths_stopProgram]
      · rw [Dev.berths_failLaunch, Dev.berths_stopProgram]

@[simp] theorem Dev.berths_armHead (s : Dev) (c t num : Nat) :
    (s.armHead c t num).1.berths Tile.stores = s.berths Tile.stores := by
  unfold Dev.armHead
  split
  · rfl
  · split
    · rfl
    · split
      · dsimp only
        split
        · exact Eq.trans (Dev.berths_modTile_stores _ c t _ (fun _ => rfl)) (s.berths_wait _ _ _)
        · exact Eq.trans (Dev.berths_modTile_stores _ c t _ (fun _ => rfl)) (s.berths_wait _ _ _)
        all_goals exact s.berths_wait _ _ _
      · rfl

/-- A job changes no store of a tile, and no context's berth. -/
@[simp] theorem Dev.berths_runJob (s : Dev) (j : Job) : (s.runJob j).1.berths Tile.stores = s.berths Tile.stores := by
  cases j with
  | raise c key n => exact s.berths_signal c key n
  | serve key => exact s.berths_serve key
  | arm c t num => exact s.berths_armHead c t num
  | discard c key =>
    simp only [Dev.runJob, Dev.discardHitch]
    split <;> rfl
  | endSlot c t seq num st => exact s.berths_endSlot c t seq num st
  | endWord c t st => exact s.berths_endWord c t st
  | sweep c t => exact s.berths_sweepTile c t

@[simp] theorem Dev.berths_runJobs (s : Dev) (js : List Job) : (s.runJobs js).berths Tile.stores = s.berths Tile.stores := by
  have run (n : Nat) (d : Dev) (js : List Job) : (runJobsFuel n d js).berths Tile.stores = d.berths Tile.stores := by
    induction n generalizing d js with
    | zero => rfl
    | succ n ih =>
      cases js with
      | nil => rfl
      | cons j js => rw [runJobsFuel_cons, ih, Dev.berths_runJob]
  exact run _ _ _

@[simp] theorem Dev.berths_signalVid (s : Dev) (c vid : Nat) :
    (s.signalVid c vid).2.berths Tile.stores = s.berths Tile.stores := by
  unfold Dev.signalVid
  split
  · exact s.berths_ignoreSignal c
  · split
    · exact s.berths_ignoreSignal c
    · exact s.berths_runJobs _

end Sys2Proof.Machine
end

section
/-! What the end of remote operations leaves of contexts' berths and tile stores (R255, R278, R292, R300, R314): the engines of
the exchange and the update write the pool and the staging stores alone. -/
namespace Sys2Proof.Machine
open Sys2Proof

/-! ## What an engine writes -/

@[simp] theorem Dev.berths_writeHbm {γ : Type} {q : Tile → γ} (s : Dev) (c off : Nat) (bs : List Byte) :
    (s.writeBytes c ⟨.hbm, off⟩ bs).berths q = s.berths q := rfl

/-- The exchange area lies in a window, and a window in the pool or a staging store (R17). -/
@[simp] theorem Dev.berths_xWrite (s : Dev) (c : Nat) (d : BktDesc) (off : Nat) (bs : List Byte) :
    (s.xWrite c d off bs).berths Tile.stores = s.berths Tile.stores := by
  unfold Dev.xWrite Dev.ownWin Dev.writeBytes
  dsimp only
  split <;> rfl

@[simp] theorem Dev.berths_openShare (s : Dev) (c : Nat) (d : BktDesc) (step : U32) :
    (s.openShare c d step).berths Tile.stores = s.berths Tile.stores := by
  unfold Dev.openShare
  split
  · rfl
  · simp only [Dev.berths_xWrite]

@[simp] theorem Dev.berths_leaveResidue (s : Dev) (c : Nat) (d : BktDesc) (step : U32) (ch : Nat) (r : Residue) :
    (s.leaveResidue c d step ch r).berths Tile.stores = s.berths Tile.stores := by
  have wrote (d' : Dev) (i : Nat) (vs : List Num) : (d'.efWrite c d i vs).berths Tile.stores = d'.berths Tile.stores :=
    Dev.berths_postFlags _ c _
  cases r with
  | keep => rfl
  | zero => exact wrote s _ _
  | less f =>
    unfold Dev.leaveResidue
    dsimp only
    rw [wrote, Dev.berths_postFlags]
    split
    · exact s.berths_postFlags c _
    · rfl

/-! ## Buckets -/

@[simp] theorem Dev.berths_setBucket (s : Dev) (c b : Nat) (k : Bucket) :
    (s.setBucket c b k).berths Tile.stores = s.berths Tile.stores :=
  s.berths_modCtx c _ (fun _ => rfl) (fun _ => rfl)

@[simp] theorem Dev.berths_modBucket (s : Dev) (c b : Nat) (f : Bucket → Bucket) :
    (s.modBucket c b f).berths Tile.stores = s.berths Tile.stores :=
  s.berths_setBucket c b _

@[simp] theorem Dev.berths_modCChunk (s : Dev) (c b ch : Nat) (f : CChunk → CChunk) :
    (s.modCChunk c b ch f).berths Tile.stores = s.berths Tile.stores :=
  s.berths_modBucket c b _

@[simp] theorem Dev.berths_modShare (s : Dev) (c b : Nat) (x : BitVec 24) (f : Share → Share) :
    (s.modShare c b x f).berths Tile.stores = s.berths Tile.stores :=
  s.berths_modBucket c b _

@[simp] theorem Dev.berths_grxCount (s : Dev) (c b : Nat) (w : GrxCount) (n : Nat) :
    (s.grxCount c b w n).berths Tile.stores = s.berths Tile.stores :=
  s.berths_modCtx c _ (fun _ => rfl) (fun _ => rfl)

@[simp] theorem Dev.berths_engineOp (s : Dev) (c b : Nat) (why : OpWhy) (a : Ask) :
    (s.engineOp c b why a).berths Tile.stores = s.berths Tile.stores := rfl

@[simp] theorem Dev.berths_failBucket (s : Dev) (c b : Nat) (st : Status) :
    (s.failBucket c b st).berths Tile.stores = s.berths Tile.stores := by
  unfold Dev.failBucket
  dsimp only
  split
  · rfl
  · rw [Dev.berths_ewCheck, Dev.berths_event]
    exact Eq.trans (Dev.berths_awaken _ _) (s.berths_setBucket c b _)

/-! ### A step that ends (R268) -/

@[simp] theorem Dev.berths_finishStep (s : Dev) (c b : Nat) (d : BktDesc) :
    (s.finishStep c b d).berths Tile.stores = s.berths Tile.stores := by
  have early (d' : Dev) : (d'.earlyOdone c b d).berths Tile.stores = d'.berths Tile.stores := by
    unfold Dev.earlyOdone
    dsimp only
    split
    · rw [Dev.berths_signalVid, Dev.berths_modBucket]
    · rfl
  unfold Dev.finishStep
  dsimp only
  split
  · rw [early, Dev.berths_ewCheck, Dev.berths_openShare, Dev.berths_setBucket]
  · rfl

@[simp] theorem Dev.berths_tryCdone (s : Dev) (c b : Nat) (d : BktDesc) :
    (s.tryCdone c b d).berths Tile.stores = s.berths Tile.stores := by
  unfold Dev.tryCdone
  dsimp only
  split
  · rw [Dev.berths_finishStep, Dev.berths_signalVid, Dev.berths_modBucket]
  · rfl

@[simp] theorem Dev.berths_closeChunk (s : Dev) (c b : Nat) (d : BktDesc) (ch : Nat) (st : Status) (counted : Bool) :
    (s.closeChunk c b d ch st counted).berths Tile.stores = s.berths Tile.stores := by
  unfold Dev.closeChunk
  dsimp only
  split
  · rfl
  · rw [Dev.berths_tryCdone, Dev.berths_modCChunk]
    split
    · split
      · exact Dev.berths_leaveResidue _ _ _ _ _ _
      · rw [Dev.berths_grxCount, Dev.berths_leaveResidue]
    · exact Dev.berths_leaveResidue _ _ _ _ _ _

@[simp] theorem Dev.berths_closeShare (s : Dev) (c b : Nat) (d : BktDesc) (x : BitVec 24) (st : Status) :
    (s.closeShare c b d x st).berths Tile.stores = s.berths Tile.stores :=
  (foldl_keeps (Dev.berths Tile.stores) _ (fun e ch => e.berths_closeChunk c b d ch st false) _ _).trans
    (s.berths_modShare c b x _)

/-! ### A share that is sent (R278, R279) -/

@[simp] theorem Dev.berths_sendRow (s : Dev) (c b : Nat) (d : BktDesc) (dst : BitVec 24) (t : Nat) (bs : List Byte) :
    (s.sendRow c b d dst t bs).berths Tile.stores = s.berths Tile.stores := by
  unfold Dev.sendRow
  dsimp only
  split <;> rfl

@[simp] theorem Dev.berths_sendData (s : Dev) (c b : Nat) (d : BktDesc) (dst : BitVec 24) (t attempt : Nat)
    (chs : List (Nat × Int)) : (s.sendData c b d dst t attempt chs).berths Tile.stores = s.berths Tile.stores := by
  have chunk (e : Dev) (ch : Nat) (f : Int) :
      (e.sendChunk c b d dst t attempt ch f).2.berths Tile.stores = e.berths Tile.stores := by
    unfold Dev.sendChunk
    dsimp only
    rw [Dev.berths_engineOp, Dev.berths_postFlags, Dev.berths_modCChunk]
  unfold Dev.sendData
  dsimp only
  rw [Dev.berths_sendRow]
  exact foldl_keeps (fun r : List (Nat × Nat) × Dev => r.2.berths Tile.stores) _ (fun r e => chunk r.2 e.1 e.2) _ _

@[simp] theorem Dev.berths_sendPrepass (s : Dev) (c b : Nat) (d : BktDesc) (dst : BitVec 24) (t : Nat) (chs : List Nat) :
    (s.sendPrepass c b d dst t chs).berths Tile.stores = s.berths Tile.stores := by
  unfold Dev.sendPrepass
  dsimp only
  rw [Dev.berths_sendRow, foldl_keeps (Dev.berths Tile.stores) _ (fun e ch => e.berths_postFlags c _)]
  split
  · rfl
  · exact s.berths_grxCount c b _ _

@[simp] theorem Dev.berths_sendShare (s : Dev) (c b : Nat) (d : BktDesc) (x : BitVec 24) (t : Nat) :
    (s.sendShare c b d x t).berths Tile.stores = s.berths Tile.stores := by
  simp only [Dev.sendShare, apply_ite (Dev.berths Tile.stores), Dev.berths_sendPrepass, Dev.berths_sendData,
    Dev.berths_modShare, ite_self]

@[simp] theorem Dev.berths_admitted (s : Dev) (c b : Nat) (x : BitVec 24) (old : U64) :
    (s.admitted c b x old).berths Tile.stores = s.berths Tile.stores := by
  unfold Dev.admitted
  dsimp only
  split
  · split
    · rfl
    · split
      · split
        · exact s.berths_closeShare c b _ x _
        · split
          · exact s.berths_failBucket c b _
          · exact s.berths_sendShare c b _ x _
      · split
        · split
          · exact s.berths_closeShare c b _ x _
          · split
            · exact s.berths_failBucket c b _
            · rw [Dev.berths_closeShare, Dev.berths_sendRow]
        · exact s.berths_modShare c b x _
  · rfl

/-! ## The update list (R300, R314) -/

@[simp] theorem Dev.berths_modUpd (s : Dev) (c : Nat) (f : Upd → Upd) :
    (s.modUpd c f).berths Tile.stores = s.berths Tile.stores :=
  s.berths_modCtx c _ (fun _ => rfl) (fun _ => rfl)

@[simp] theorem Dev.berths_spoilEntry (s : Dev) (c : Nat) (d : UpdDie) :
    (s.spoilEntry c d).berths Tile.stores = s.berths Tile.stores := by
  have spoilt (e : Dev) (off n : Nat) : (e.spoil c off n).berths Tile.stores = e.berths Tile.stores := rfl
  unfold Dev.spoilEntry
  split
  · dsimp only
    rw [spoilt, spoilt, Dev.berths_writeHbm]
    rfl
  · rfl

@[simp] theorem Dev.berths_failList (s : Dev) (c : Nat) (st : Status) :
    (s.failList c st).berths Tile.stores = s.berths Tile.stores := by
  have spoilt : ((s.spoilEntry c (s.ctx c).upd.near).spoilEntry c (s.ctx c).upd.off).berths Tile.stores =
      s.berths Tile.stores := by rw [Dev.berths_spoilEntry, Dev.berths_spoilEntry]
  unfold Dev.failList
  dsimp only
  split
  · rfl
  · rw [Dev.berths_ewCheck, Dev.berths_event]
    refine Eq.trans (Dev.berths_awaken _ _) (Eq.trans ?_ spoilt)
    exact Dev.berths_modCtx _ c (Ctx.withUpd _) (fun _ => rfl) (fun _ => rfl)

@[simp] theorem Dev.berths_tryUdone (s : Dev) (c : Nat) : (s.tryUdone c).berths Tile.stores = s.berths Tile.stores := by
  unfold Dev.tryUdone
  dsimp only
  split
  · rw [Dev.berths_ewCheck, Dev.berths_signalVid, Dev.berths_modUpd]
  · rfl

/-! ## Operations that complete (R255) -/

theorem Tile.stores_takeResult (x : Tile) (res : Option (Nat × U64)) : (x.takeResult res).stores = x.stores := by
  cases res <;> rfl

@[simp] theorem Dev.berths_finishOp (s : Dev) (o : ROp) : (s.finishOp o).berths Tile.stores = s.berths Tile.stores := by
  unfold Dev.finishOp
  dsimp only
  split
  · unfold Dev.finishSlotOp
    split
    · exact Dev.berths_modTile_stores _ _ _ _ (fun _ => rfl)
    · rw [Dev.berths_runJobs]
      exact Dev.berths_modTile_stores _ _ _ _ (fun x => x.stores_takeResult _)
  · unfold Dev.finishBucketOp
    split
    · exact Dev.berths_failBucket _ _ _ _
    · split
      · exact Dev.berths_admitted _ _ _ _ _
      · rfl
  · unfold Dev.finishUpdOp
    split
    · split
      · exact Dev.berths_failList _ _ _
      · rw [Dev.berths_tryUdone, Dev.berths_modUpd]; rfl
    · rfl

/-- The completion of operations changes no store of a tile, and no context's berth. -/
@[simp] theorem Dev.berths_settle (s : Dev) : s.settle.berths Tile.stores = s.berths Tile.stores := by
  have settled (n : Nat) (d : Dev) : (Dev.settleN n d).berths Tile.stores = d.berths Tile.stores := by
    induction n generalizing d with
    | zero => rfl
    | succ n ih =>
      rw [Dev.settleN]
      split
      · rfl
      · rw [ih, Dev.berths_finishOp]
  rw [Dev.settle, Dev.berths_pump, settled]

end Sys2Proof.Machine
end

section
/-! Requests at the target (R17, R204, R251 to R253, R256): a request that its window admits is performed and answered, one that
it does not is refused; O31. -/
namespace Sys2Proof.Machine
open Sys2Proof

/-! ## The seven commands -/

theorem exec_putRequest (s : State) : exec .putRequest s = .next (s.withDev (s.dev.serve' 0x01 0x81 (fun p => p.data.length)
    false (fun d p a => { dev := d.writeBytes p.ctx a p.data }))) := rfl

theorem exec_getRequest (s : State) : exec .getRequest s = .next (s.withDev (s.dev.serve' 0x02 0x82 Packet.len true
    (fun d p a => { dev := d, data := d.readBytes p.ctx a p.len }))) := rfl

theorem exec_accRequest (s : State) : exec .accRequest s = .next (s.withDev (s.dev.serve' 0x03 0x81 (fun p => p.data.length)
    true (fun d p a => { d.accPacket p a with dev := (d.accPacket p a).dev.noteAccOvf p (d.accPacket p a).acc }))) := rfl

theorem exec_faddRequest (s : State) : exec .faddRequest s = .next (s.withDev (s.dev.serve' 0x04 0x84 (fun _ => 8) true
    (fun d p a => d.atomic p a (fun v => v + p.h3)))) := rfl

theorem exec_swapRequest (s : State) : exec .swapRequest s = .next (s.withDev (s.dev.serve' 0x05 0x84 (fun _ => 8) true
    (fun d p a => d.atomic p a (fun _ => p.h3)))) := rfl

/-- The new value of a CAS (R253). -/
def Packet.casValue (p : Packet) (v : U64) : U64 := if v.toNat = leNat p.data then p.h3 else v

theorem exec_casRequest (s : State) : exec .casRequest s = .next (s.withDev (s.dev.serve' 0x06 0x84 (fun _ => 8) true
    (fun d p a => d.atomic p a p.casValue))) := rfl

theorem exec_signalRequest (s : State) : exec .signalRequest s = .next (s.withDev s.dev.signalPacket) := rfl

/-! ## A request that is performed, and one that is refused -/

/-- The pool lines of `n` bytes at a request's place. -/
def Dev.requestLines (s : Dev) (p : Packet) (sp : Space) (a n : Nat) : List Nat :=
  match sp with
  | .hbm => linesOf ((s.ctx p.ctx).pool a) n
  | _ => []

/-- A request that its window admits, taken from the inbox, meets what holds its lines back. -/
def Dev.serveAt (s : Dev) (rsp : Nat) (reads : Bool) (act : Dev → Packet → Addr → Done) (p : Packet) (rest : List Packet)
    (place : Addr) (lines : List Nat) : Dev :=
  if !(s.mem.cached lines).isEmpty then { s with mem := s.mem.invalidate (s.mem.cached lines) }
  else
    let taken := if reads then (s.withInbox rest).meetLines lines else s.withInbox rest
    if reads && taken.mem.poisoned lines then taken.deviceFault 0x03
    else (act taken p place).dev.answerRequest p rsp (act taken p place).acc (act taken p place).data

section
variable {s : Dev} {op rsp : Nat} {n : Packet → Nat} {reads : Bool} {act : Dev → Packet → Addr → Done} {p : Packet}
  {rest : List Packet} {sp : Space} {a : Nat}

theorem Dev.serve'_of_target (taken : takeOp op s.fab.inbox = some (p, rest)) (target : s.target p (n p) = some (sp, a)) :
    s.serve' op rsp n reads act = s.serveAt rsp reads act p rest ⟨sp, a⟩ (s.requestLines p sp a (n p)) := by
  simp only [Dev.serve', taken, target]
  rfl

theorem Dev.serve'_of_refused (taken : takeOp op s.fab.inbox = some (p, rest)) (target : s.target p (n p) = none) :
    s.serve' op rsp n reads act = ((s.withInbox rest).modCtx p.ctx (fun x => { x with
      refused := satAdd x.refused 1 })).respond p rsp .range {} [] := by
  simp only [Dev.serve', taken, target]
  rfl

theorem Dev.linesFree_nil (s : Dev) : s.linesFree [] [] := by
  simp [Dev.linesFree, MemBlk.cached, MemBlk.poisoned]

theorem Dev.requestReady.linesFree (ready : s.requestReady op n reads p rest sp a) :
    s.linesFree (s.requestLines p sp a (n p)) (if reads then s.requestLines p sp a (n p) else []) := by
  obtain ⟨-, -, free⟩ := ready
  cases sp with
  | hbm => exact free rfl
  | _ => exact (ite_self (c := reads = true) ([] : List Nat)).symm ▸ s.linesFree_nil

/-- A request that nothing holds back is performed and answered. -/
theorem Dev.serve'_of_ready (ready : s.requestReady op n reads p rest sp a) :
    s.serve' op rsp n reads act =
      (act (s.withInbox rest) p ⟨sp, a⟩).dev.answerRequest p rsp (act (s.withInbox rest) p ⟨sp, a⟩).acc
        (act (s.withInbox rest) p ⟨sp, a⟩).data := by
  obtain ⟨uncached, noLatent, unpoisoned⟩ := ready.linesFree
  obtain ⟨taken, target, -⟩ := ready
  rw [Dev.serve'_of_target taken target, Dev.serveAt, uncached]
  cases reads with
  | false => rfl
  | true =>
    have met : (s.withInbox rest).meetLines (s.requestLines p sp a (n p)) = s.withInbox rest :=
      (s.withInbox rest).meetLines_of_free _ noLatent
    have sound : (s.withInbox rest).mem.poisoned (s.requestLines p sp a (n p)) = false := unpoisoned
    simp only [met, sound, if_true]
    rfl

theorem Dev.signalPacket_of_taken (taken : takeOp 0x07 s.fab.inbox = some (p, rest)) :
    s.signalPacket = (s.withInbox rest).answerRequest p 0x81 {} [] := by
  simp only [Dev.signalPacket, taken]
  rfl

/-- A place that a window admits lies in the window, which gives the permission (R17, R256). -/
theorem Dev.target_inside {m : Nat} (target : s.target p m = some (sp, a)) :
    let w : Win := Tab.get {} (s.ctx p.ctx).wins p.win
    w.en = true ∧ w.permits p.op = true ∧ p.off + m ≤ w.size.toNat * 4096 ∧ a = w.base.toNat * 4096 + p.off ∧
      (sp = .hbm → a + m ≤ (s.ctx p.ctx).usable) := by
  unfold Dev.target at target
  dsimp only at target ⊢
  generalize (Tab.get {} (s.ctx p.ctx).wins p.win : Win) = w at target ⊢
  split at target
  · cases target
  · next admitted =>
    simp only [Bool.or_eq_true, Bool.not_eq_true', decide_eq_true_eq, not_or, Bool.not_eq_false, Nat.not_lt] at admitted
    obtain ⟨⟨enabled, permitted⟩, inside⟩ := admitted
    split at target <;> split at target
    · next fits =>
      obtain ⟨rfl, rfl⟩ := Prod.mk.inj (Option.some.inj target)
      exact ⟨enabled, permitted, inside, rfl, fun _ => fits⟩
    · cases target
    · obtain ⟨rfl, rfl⟩ := Prod.mk.inj (Option.some.inj target)
      exact ⟨enabled, permitted, inside, rfl, nofun⟩
    · cases target

end

/-! ## Sums that saturate (R252) -/

/-- An integer of 32 bits is read from the bits it is written in. -/
theorem sext_toBits {i : Int} (low : -(2 ^ 31) ≤ i) (high : i < 2 ^ 31) : sext 32 (toBits 32 i) = i := by
  unfold sext toBits
  dsimp only
  split <;> omega

theorem sext_accAdd (x y : Nat) :
    sext 32 (accAdd x y).1 = max (-(2 ^ 31)) (min (2 ^ 31 - 1) (sext 32 x + sext 32 y)) := by
  unfold accAdd
  generalize sext 32 x + sext 32 y = sum
  dsimp only
  split
  · change (-(2 ^ 31) : Int) = _
    omega
  · split
    · change (2 ^ 31 - 1 : Int) = _
      omega
    · rw [sext_toBits (by omega) (by omega)]
      omega

theorem accAdd_lt (x y : Nat) : (accAdd x y).1 < 2 ^ 32 := by
  unfold accAdd toBits
  dsimp only
  split
  · decide
  · split
    · decide
    · omega

theorem leAt_drop (bs : List Byte) (k pos n : Nat) : leAt (bs.drop k) pos n = leAt bs (k + pos) n := by
  rw [leAt, List.drop_drop, leAt]

/-- A number and the bytes after it. -/
theorem leAt_leBytes_append {n v : Nat} (fits : v < 256 ^ n) (rest : List Byte) : leAt (leBytes n v ++ rest) 0 n = v := by
  rw [leAt, List.drop_zero, List.take_left' (leBytes_length n v), leNat_leBytes, Nat.mod_eq_of_lt fits]

theorem leAt_leBytes_append_add (n v : Nat) (rest : List Byte) (pos m : Nat) :
    leAt (leBytes n v ++ rest) (n + pos) m = leAt rest pos m := by
  rw [← leAt_drop, List.drop_left' (leBytes_length n v)]

theorem accBytes_succ (n : Nat) (old new : List Byte) : (accBytes (n + 1) old new).1 =
    leBytes 4 (accAdd (leAt old 0 4) (leAt new 0 4)).1 ++ (accBytes n (old.drop 4) (new.drop 4)).1 := rfl

/-- An accumulate adds element by element. -/
theorem leAt_accBytes {n i : Nat} (old new : List Byte) (inside : i < n) :
    leAt (accBytes n old new).1 (4 * i) 4 = (accAdd (leAt old (4 * i) 4) (leAt new (4 * i) 4)).1 := by
  induction n generalizing i old new with
  | zero => omega
  | succ n ih =>
    rw [accBytes_succ]
    cases i with
    | zero => exact leAt_leBytes_append (accAdd_lt _ _) _
    | succ i =>
      rw [Nat.mul_succ, Nat.add_comm (4 * i) 4, leAt_leBytes_append_add, ih _ _ (by omega), leAt_drop, leAt_drop]

/-! ## Bytes of the pool -/

theorem Mem.map_read_range (m : Mem) (a n : Nat) : (List.range n).map (fun i => Mem.read m (a + i)) = Mem.readN m a n := by
  induction n generalizing a with
  | zero => rfl
  | succ n ih =>
    rw [List.range_succ_eq_map, List.map_cons, List.map_map, Mem.readN, ← ih (a + 1), Nat.add_zero]
    simp only [Function.comp_def, Nat.succ_eq_add_one, Nat.add_assoc, Nat.add_comm 1]

theorem Ctx.pool_add (x : Ctx) (a i : Nat) : x.pool (a + i) = x.pool a + i := (Nat.add_assoc _ _ _).symm

/-- Bytes of the HBM space are bytes of the pool (R215). -/
theorem Dev.readBytes_hbm (s : Dev) (c a n : Nat) :
    s.readBytes c ⟨.hbm, a⟩ n = Mem.readN s.mem.pool ((s.ctx c).pool a) n := by
  rw [← Mem.map_read_range]
  simp only [Dev.readBytes, Dev.readByte, Ctx.pool_add]

theorem Dev.pool_writeHbm (s : Dev) (c a : Nat) (bs : List Byte) :
    (s.writeBytes c ⟨.hbm, a⟩ bs).mem.pool = Mem.writeN s.mem.pool ((s.ctx c).pool a) bs := by
  have moved : (cellsAt a bs).map (fun e => ((s.ctx c).pool e.1, e.2)) = cellsAt ((s.ctx c).pool a) bs := by
    simp [cellsAt, Ctx.pool_add]
  rw [← Mem.writeCells_cellsAt, ← moved]
  rfl

/-- Bytes written are read back. -/
theorem Dev.readBytes_writeHbm (s : Dev) (c a : Nat) {n : Nat} (bs : List Byte) (canonical : s.mem.pool.wf = true)
    (sized : bs.length = n) : (s.writeBytes c ⟨.hbm, a⟩ bs).readBytes c ⟨.hbm, a⟩ n = bs := by
  rw [Dev.readBytes_hbm, Dev.pool_writeHbm]
  exact Mem.readN_writeN_of_length _ _ bs canonical sized

/-! ## What the answer to a request leaves alone -/

theorem Dev.mem_keptByRouting : Dev.KeptByRouting Dev.mem where
  outbox _ _ := rfl
  nextLink _ _ := rfl
  inbox _ _ := rfl
  drop _ _ := rfl
  nextPkt _ _ := rfl
  setLink _ _ _ _ := rfl

theorem Dev.mem_send (s : Dev) (p : Packet) : (s.send p).mem = s.mem :=
  (Dev.mem_keptByRouting.flush _).trans (Dev.mem_keptByRouting.route _ _ _ _)

theorem Dev.raiseRemote_of_silent (s : Dev) {p : Packet} (silent : p.rse = false) : s.raiseRemote p = (.done, s) := by
  simp [Dev.raiseRemote, silent]

theorem Dev.raiseRemote_of_raising (s : Dev) {p : Packet} (raises : p.rse = true) :
    (s.raiseRemote p).2 = (s.signalVid p.ctx p.rhitch).2 := by
  simp [Dev.raiseRemote, raises]

theorem Dev.still_signalVid (s : Dev) (c vid : Nat) : (s.signalVid c vid).2.still = s.still := by
  unfold Dev.signalVid
  split
  · exact s.still_ignoreSignal c
  · split
    · exact s.still_ignoreSignal c
    · exact s.still_runJobs _

theorem Dev.mem_answerRequest (s : Dev) (p : Packet) (rsp : Nat) (v : AccOut) (data : List Byte) :
    (s.answerRequest p rsp v data).mem = s.mem := by
  have raised : (s.raiseRemote p).2.mem = s.mem := by
    cases raises : p.rse with
    | false => rw [s.raiseRemote_of_silent raises]
    | true =>
      rw [s.raiseRemote_of_raising raises]
      exact (congrArg Dev.mem (s.still_signalVid p.ctx p.rhitch) :)
  rw [Dev.answerRequest, Dev.respond, Dev.mem_send, raised]

theorem Dev.berths_answerRequest (s : Dev) (p : Packet) (rsp : Nat) (v : AccOut) (data : List Byte) :
    (s.answerRequest p rsp v data).berths Tile.stores = s.berths Tile.stores := by
  rw [Dev.answerRequest, Dev.respond, Dev.berths_send]
  cases raises : p.rse with
  | false => rw [s.raiseRemote_of_silent raises]
  | true => rw [s.raiseRemote_of_raising raises, Dev.berths_signalVid]

/-- The answer to a request changes nothing that a read of the pool finds. -/
theorem Dev.readHbm_answerRequest (s : Dev) (p : Packet) (rsp : Nat) (v : AccOut) (data : List Byte) (c a n : Nat) :
    (s.answerRequest p rsp v data).readBytes c ⟨.hbm, a⟩ n = s.readBytes c ⟨.hbm, a⟩ n := by
  rw [Dev.readBytes_hbm, Dev.readBytes_hbm, Dev.mem_answerRequest,
    Ctx.pool_of_berth (Dev.berth_of_berths (s.berths_answerRequest p rsp v data) c)]

/-- The hitch of a request is raised by its width (R204). -/
theorem Dev.raiseRemote_of_active {d : Dev} {p : Packet} {e : HEntry} (raises : p.rse = true)
    (mapped : d.mapEntry p.ctx p.rhitch = some e) (counts : e.barrier = false) (active : (d.hitch e.key).st = .active)
    (noBarrier : (d.hitch e.key).barrier = false) (unwaited : (d.hitch e.key).waiters = [])
    (room : (d.hitch e.key).count.toNat + (e.width1.toNat + 1) < 2 ^ 32) :
    (d.raiseRemote p).1 = .done ∧
    ((d.raiseRemote p).2.hitch e.key).count.toNat = (d.hitch e.key).count.toNat + (e.width1.toNat + 1) := by
  have hitch := d.hitch_signal_of_active p.ctx e.key (e.width1.toNat + 1) active noBarrier e.key
  rw [if_pos rfl] at hitch
  have signalled : d.signalVid p.ctx p.rhitch = (true, d.signal p.ctx e.key (e.width1.toNat + 1)) := by
    simp only [Dev.signalVid, mapped, counts]
    rw [if_neg Bool.false_ne_true, Dev.runJobs_raise_of_unwaited _ _ _ _ (by rw [hitch]; exact unwaited)]
  have raised : d.raiseRemote p = (.done, d.signal p.ctx e.key (e.width1.toNat + 1)) := by
    simp only [Dev.raiseRemote, raises, signalled, if_true]
  rw [raised]
  refine ⟨rfl, ?_⟩
  rw [hitch, toNat_satAdd]
  omega

/-! ## O31 -/

theorem Win.permits_of_atomic (w : Win) {op : Nat} (atomic : 4 ≤ op) : w.permits op = w.patom := by
  obtain ⟨k, rfl⟩ := Nat.exists_eq_add_of_le' atomic
  rfl

/-- A PUT inside its window stores its data there, and leaves the rest of the pool as it was. -/
theorem Dev.answerRequest_of_put {d : Dev} (p : Packet) (a : Nat) (canonical : d.mem.pool.wf = true) :
    let t := (d.writeBytes p.ctx ⟨.hbm, a⟩ p.data).answerRequest p 0x81 {} []
    t.readBytes p.ctx ⟨.hbm, a⟩ p.data.length = p.data ∧
      ∀ x, (x < (d.ctx p.ctx).pool a ∨ (d.ctx p.ctx).pool a + p.data.length ≤ x) →
        Mem.read t.mem.pool x = Mem.read d.mem.pool x := by
  refine ⟨?_, fun x outside => ?_⟩
  · rw [Dev.readHbm_answerRequest]
    exact d.readBytes_writeHbm _ _ p.data canonical rfl
  · rw [Dev.mem_answerRequest, Dev.pool_writeHbm]
    exact Mem.read_writeN_outside _ _ _ _ canonical outside

/-- Settles O31: a request is performed by `Dev.serve'_of_ready` and refused by `Dev.serve'_of_refused`; sums by
`sext_accAdd` and `leAt_accBytes`, what is stored by `Dev.readBytes_writeHbm` and `Dev.answerRequest_of_put`, the hitch by
`Dev.raiseRemote_of_active`, and the window by `Dev.target_inside`. -/
theorem requestsArePerformedInTheirWindow : Obligations.RequestsArePerformedInTheirWindow := by
  refine ⟨fun s p rest sp a => ⟨fun ready => ?_, fun ready => ?_, fun ready => ?_, fun ready => ?_, fun ready => ?_,
      fun ready => ⟨p.casValue, fun _ => rfl, ?_⟩, fun taken => ?_⟩,
    ⟨sext_accAdd, fun n old new i => leAt_accBytes old new, fun d p a f hbm canonical => ⟨rfl, ?_⟩,
      fun d p e => Dev.raiseRemote_of_active, fun d p => d.raiseRemote_of_silent⟩,
    fun s p rest a ready canonical => ?_, fun s p rest => ?_, fun d p n a sp target => ?_⟩
  · rw [exec_putRequest, Dev.serve'_of_ready ready]
  · rw [exec_getRequest, Dev.serve'_of_ready ready]
  · rw [exec_accRequest, Dev.serve'_of_ready ready]; rfl
  · rw [exec_faddRequest, Dev.serve'_of_ready ready]; rfl
  · rw [exec_swapRequest, Dev.serve'_of_ready ready]; rfl
  · rw [exec_casRequest, Dev.serve'_of_ready ready]; rfl
  · rw [exec_signalRequest, Dev.signalPacket_of_taken taken]
  · obtain ⟨sp, off⟩ := a
    obtain rfl : sp = .hbm := hbm
    exact d.readBytes_writeHbm _ _ _ canonical (leBytes_length 8 _)
  · obtain ⟨stored, outside⟩ := Dev.answerRequest_of_put (d := s.dev.withInbox rest) p a canonical
    have ready' := ready
    obtain ⟨-, target, -⟩ := ready'
    obtain ⟨-, -, -, -, fits⟩ := Dev.target_inside target
    rw [exec_putRequest, Dev.serve'_of_ready ready]
    generalize Dev.answerRequest _ p 0x81 {} [] = t at stored outside ⊢
    exact ⟨s.withDev t, rfl, stored, fits rfl, outside⟩
  · simp only [List.forall_mem_cons, List.not_mem_nil, false_implies, implies_true, and_true]
    refine ⟨fun taken target => ?_, fun taken target => ?_, fun taken target => ?_, fun taken target => ?_,
      fun taken target => ?_, fun taken target => ?_⟩
    · rw [exec_putRequest, Dev.serve'_of_refused taken target]
    · rw [exec_getRequest, Dev.serve'_of_refused taken target]
    · rw [exec_accRequest, Dev.serve'_of_refused taken target]
    · rw [exec_faddRequest, Dev.serve'_of_refused taken target]
    · rw [exec_swapRequest, Dev.serve'_of_refused taken target]
    · rw [exec_casRequest, Dev.serve'_of_refused taken target]
  · obtain ⟨enabled, permitted, inside, place, -⟩ := Dev.target_inside target
    refine ⟨enabled, inside, place, fun put => ?_, fun get => ?_, fun acc => ?_, fun atomic => ?_⟩
    · rw [put] at permitted; exact permitted
    · rw [get] at permitted; exact permitted
    · rw [acc] at permitted; exact permitted
    · rw [Win.permits_of_atomic _ atomic] at permitted; exact permitted

end Sys2Proof.Machine
end

section
/-! Pre-emption and resumption (R14, R216, R346, R363): a context begins to be saved, is saved, begins to resume and is
resident again, and its tiles keep what they hold; O44. -/
namespace Sys2Proof.Machine
open Sys2Proof

theorem exec_preempt (c : CtxId) (s : State) : exec (.preempt c) s = s.onBar (fun d => d.preempt c.val) := rfl
theorem exec_ctxResume (c : CtxId) (s : State) : exec (.ctxResume c) s = s.onBar (fun d => d.ctxResume c.val) := rfl
theorem exec_contextSaveEnd (c : CtxId) (s : State) :
    exec (.contextSaveEnd c) s = .next (s.withDev (s.dev.saveEnd c.val)) := rfl
theorem exec_contextRestoreEnd (c : CtxId) (s : State) :
    exec (.contextRestoreEnd c) s = .next (s.withDev (s.dev.restoreEnd c.val)) := rfl

/-! ## Operations that go on after they are accepted (R346, R363) -/

section
variable {s : Dev} (st : Status) (act : Dev → Dev)

theorem Dev.hifStart_of_pending (pending : s.hif.pend = true) : s.hifStart st act = s := by
  rw [Dev.hifStart, if_pos pending]

variable (idle : s.hif.pend = false) {st}
include idle

theorem Dev.hifStart_of_done (done : st = .done) :
    s.hifStart st act = { act s with hif := { (act s).hif with pend := true } } := by
  rw [Dev.hifStart, idle, if_neg Bool.false_ne_true, if_pos done]

theorem Dev.hifStart_of_refused (refused : st ≠ .done) : s.hifStart st act = s.hifStatus st := by
  rw [Dev.hifStart, idle, if_neg Bool.false_ne_true, if_neg refused]

end

/-! ## Where a tile is read -/

section
variable {s : Dev} {c t : Nat}

/-- A tile of a context that is saved is in its image. -/
theorem Dev.tile_of_away (away : (s.ctx c).away = true) (inside : t < (s.ctx c).ntile.toNat) :
    s.tile c t = Tab.get {} (s.ctx c).saved t := by
  simp [Dev.tile, Dev.tile?, away, inside]

variable {p : Nat} (present : (s.ctx c).away = false) (backed : Tab.find (s.ctx c).backs t = some p)
include present backed

theorem Dev.tile_of_backed : s.tile c t = (s.ptile p).tile := by
  simp [Dev.tile, Dev.tile?, present, backed]

theorem Dev.setTile_of_backed (v : Tile) : s.setTile c t v = s.setPtile p { s.ptile p with tile := v } := by
  simp [Dev.setTile, present, backed]

end

theorem Dev.mem_modTile (s : Dev) (c t : Nat) (f : Tile → Tile) : (s.modTile c t f).mem = s.mem :=
  (s.setTile_outside c t _).1

/-! ## What is packed up for a save -/

/-- What a save keeps of every tile at the least. -/
def Tile.holdings (x : Tile) : Mem × Mem × Tab U64 × Tab U32 × Tab Page := (x.store, x.dstore, x.regs, x.banks, x.pages)

/-- Hitches move to other places: the words that name them follow, and nothing else of a tile changes (R208). -/
theorem Dev.berths_moveHitches {γ : Type} {q : Tile → γ} (kept : ∀ f x, q (Tile.rekey f x) = q x) (s : Dev) (c : Nat)
    (es : Tab HEntry) : (s.moveHitches c es).berths q = s.berths q := by
  unfold Dev.moveHitches
  dsimp only
  refine Eq.trans (foldl_keeps (Dev.berths q) _ (fun d t => d.berths_modTile c t _ (kept _)) _ _) ?_
  exact Eq.trans (Dev.berths_modCtx _ c _ (fun _ => rfl) (fun _ => rfl)) rfl

theorem Dev.mem_moveHitches (s : Dev) (c : Nat) (es : Tab HEntry) : (s.moveHitches c es).mem = s.mem := by
  unfold Dev.moveHitches
  dsimp only
  exact Eq.trans (foldl_keeps Dev.mem _ (fun d t => d.mem_modTile c t _) _ _) rfl

/-- A remote slot that has sent nothing goes back to its queue (R258). -/
def Dev.requeueOp (s : Dev) (o : ROp) : Dev :=
  match o.owner with
  | .slot c t seq num => s.modTile c t (fun x => x.modSlot seq num (fun y => { y with st := .queued }))
  | _ => s

theorem Dev.requeue_eq (s : Dev) (c : Nat) : s.requeue c =
    (s.fab.ops.filter (fun o => o.c == c && o.why == .slot)).foldl Dev.requeueOp
      { s with fab := { s.fab with ops := s.fab.ops.filter (fun o => !(o.c == c && o.why == .slot)) } } := by
  unfold Dev.requeue
  rw [List.partition_eq_filter_filter]
  rfl

theorem Dev.berths_requeue (s : Dev) (c : Nat) : (s.requeue c).berths Tile.holdings = s.berths Tile.holdings := by
  rw [Dev.requeue_eq]
  refine Eq.trans (foldl_keeps (Dev.berths Tile.holdings) _ (fun d o => ?_) _ _) rfl
  unfold Dev.requeueOp
  split
  · exact d.berths_modTile _ _ _ (fun _ => rfl)
  · rfl

theorem Dev.mem_requeue (s : Dev) (c : Nat) : (s.requeue c).mem = s.mem := by
  rw [Dev.requeue_eq]
  refine Eq.trans (foldl_keeps Dev.mem _ (fun d o => ?_) _ _) rfl
  unfold Dev.requeueOp
  split
  · exact d.mem_modTile _ _ _
  · rfl

/-- The device whose context `c` is packed up: its remote slots that have sent nothing are back in their queues, and its
own hitches are in its image (R208, R258). -/
def Dev.packUp (s : Dev) (c : Nat) : Dev :=
  (s.requeue c).moveHitches c (Tab.mapV (fun e => { e with saved := c + 1 }) (s.ctx c).ownHitches)

theorem Dev.berths_packUp (s : Dev) (c : Nat) : (s.packUp c).berths Tile.holdings = s.berths Tile.holdings :=
  (Dev.berths_moveHitches (fun _ _ => rfl) _ c _).trans (s.berths_requeue c)

theorem Dev.mem_packUp (s : Dev) (c : Nat) : (s.packUp c).mem = s.mem :=
  (Dev.mem_moveHitches _ c _).trans (s.mem_requeue c)

/-! ## The save ends (R14, R216) -/

theorem MemBlk.cached_eq_nil_of_subset {m : MemBlk} {few many : List Nat} (among : few ⊆ many) (free : m.cached many = []) :
    m.cached few = [] := by
  unfold MemBlk.cached at free ⊢
  split
  · rfl
  · next some =>
    rw [if_neg some, List.filter_eq_nil_iff] at free
    refine List.filter_eq_nil_iff.mpr fun l held touched => free l held ?_
    rw [List.contains_iff_mem] at touched ⊢
    exact among touched

theorem linesOf_subset (a : Nat) {n m : Nat} (le : n ≤ m) : linesOf a n ⊆ linesOf a m := by
  intro l
  unfold linesOf
  split
  · exact fun none => absurd none List.not_mem_nil
  · rw [if_neg (by omega)]
    simp only [List.mem_map, List.mem_range]
    rintro ⟨i, inside, rfl⟩
    exact ⟨i, by omega, rfl⟩

theorem Dev.imageBytes_length_le (s : Dev) (c : Nat) : (s.imageBytes c).length ≤ saveArea (s.ctx c).ntile.toNat := by
  unfold Dev.imageBytes
  dsimp only
  split
  · exact List.length_take_le _ _
  · exact Nat.zero_le _

/-- The image is written to the save area, and the context leaves its tiles. -/
def Dev.leaveTiles (s : Dev) (c : Nat) (bytes : List Byte) : Dev :=
  (s.writeBytes c ⟨.hbm, (s.ctx c).usable⟩ bytes).modCtx c (fun x => { x with
    resid := .preempted, saved := (s.image c).1, backs := [], savedAt := some s.time.ns.toNat, area := bytes })

theorem Dev.finishSave_eq (s : Dev) (c : Nat) (bytes : List Byte) : s.finishSave c bytes =
    (((s.leaveTiles c bytes).faultPos c).2.event c 0x0A (BitVec.ofNat 64 Status.preempted.code)
      ((s.leaveTiles c bytes).faultPos c).1).hifEnd := by
  unfold Dev.finishSave Dev.faultPos
  rfl

/-- The end of a save brings an event and a status beside what leaves the tiles. -/
theorem Dev.berths_finishSave {γ : Type} {q : Tile → γ} (s : Dev) (c : Nat) (bytes : List Byte) :
    (s.finishSave c bytes).berths q = (s.leaveTiles c bytes).berths q := by
  have position (d : Dev) : (d.faultPos c).2.berths q = d.berths q := by
    unfold Dev.faultPos
    split
    · exact d.berths_retiredPos c
    · rfl
  have ended (d : Dev) : d.hifEnd.berths q = d.berths q := rfl
  rw [Dev.finishSave_eq, ended, Dev.berths_event, position]

theorem Dev.mem_finishSave (s : Dev) (c : Nat) (bytes : List Byte) :
    (s.finishSave c bytes).mem = (s.writeBytes c ⟨.hbm, (s.ctx c).usable⟩ bytes).mem := by
  have position (d : Dev) : (d.faultPos c).2.mem = d.mem := by
    unfold Dev.faultPos Dev.retiredPos
    split
    · dsimp only; split <;> rfl
    · rfl
  have left : (s.leaveTiles c bytes).mem = (s.writeBytes c ⟨.hbm, (s.ctx c).usable⟩ bytes).mem := rfl
  have ended (d : Dev) : d.hifEnd.mem = d.mem := rfl
  rw [Dev.finishSave_eq, ended, Dev.mem_of_outer (Dev.outer_event _ c _ _ _), position, left]

theorem Dev.ctx_leaveTiles (s : Dev) (c : Nat) (bytes : List Byte) : (s.leaveTiles c bytes).ctx c = { s.ctx c with
    resid := .preempted, saved := (s.image c).1, backs := [], savedAt := some s.time.ns.toNat, area := bytes } := by
  rw [Dev.leaveTiles, Dev.ctx_modCtx, if_pos rfl]
  rfl

/-- A context that leaves its tiles takes what they held with it. -/
theorem Dev.tile_leaveTiles (s : Dev) (c : Nat) (bytes : List Byte) {k : Nat} (inside : k < (s.ctx c).ntile.toNat) :
    (s.leaveTiles c bytes).tile c k = s.tile c k := by
  have ctx := s.ctx_leaveTiles c bytes
  rw [Dev.tile_of_away (by rw [ctx]; rfl) (by rw [ctx]; exact inside), ctx]
  exact Tab.get_map_keys _ _ _ _ (List.mem_range.mpr inside)

/-- Work that has begun holds the end of a save off. -/
theorem Dev.saveEnd_of_unsettled {s : Dev} {c : Nat} (busy : s.settled c = false) : s.saveEnd c = s := by
  simp [Dev.saveEnd, busy]

theorem Ctx.usable_of_berth {x y : Ctx} (same : x.berth = y.berth) : x.usable = y.usable := by
  have size : x.allotSize = y.allotSize := congrArg Berth.allotSize same
  have en : x.allotEn = y.allotEn := congrArg Berth.allotEn same
  have ntile : x.ntile = y.ntile := congrArg Berth.ntile same
  rw [Ctx.usable, size, en, ntile, Ctx.usable]

theorem Ctx.away_of_berth {x y : Ctx} (same : x.berth = y.berth) : x.away = y.away := by
  have resid : x.resid = y.resid := congrArg Berth.resid same
  rw [Ctx.away, resid, Ctx.away]

section
variable {s : Dev} {c : Nat} (saving : (s.ctx c).resid = .saving) (settled : s.settled c = true)
  (uncached : s.mem.cached (linesOf ((s.ctx c).pool (s.ctx c).usable) (saveArea (s.ctx c).ntile.toNat)) = [])

theorem Dev.imageBytes_packUp_length_le (s : Dev) (c : Nat) :
    ((s.packUp c).imageBytes c).length ≤ saveArea (s.ctx c).ntile.toNat := by
  have ntile : ((s.packUp c).ctx c).ntile = (s.ctx c).ntile :=
    congrArg Berth.ntile (Dev.berth_of_berths (s.berths_packUp c) c)
  rw [← ntile]
  exact Dev.imageBytes_length_le _ c

include saving settled uncached in
/-- Once the work that has begun has ended and no line of the save area is held, the save ends. -/
theorem Dev.saveEnd_of_settled : s.saveEnd c = (s.packUp c).finishSave c ((s.packUp c).imageBytes c) := by
  have lines := linesOf_subset ((s.ctx c).pool (s.ctx c).usable) (s.imageBytes_packUp_length_le c)
  have free : s.linesFree (linesOf ((s.ctx c).pool (s.ctx c).usable) ((s.packUp c).imageBytes c).length) [] :=
    ⟨MemBlk.cached_eq_nil_of_subset lines uncached, by simp, by simp [MemBlk.poisoned]⟩
  have go : ((s.ctx c).resid != .saving || !s.settled c) = false := by rw [saving, settled]; rfl
  unfold Dev.saveEnd
  dsimp only
  rw [go, if_neg Bool.false_ne_true]
  exact s.withPool_of_free _ _ _ free

end

/-! ## A resumption begins (R346) -/

theorem firstRefusal_of_none {xs : List (Bool × Status)} (none : ∀ e ∈ xs, e.1 = false) : firstRefusal xs = .done := by
  have found : xs.find? (fun e => e.1) = .none := List.find?_eq_none.mpr fun e he => by simp [none e he]
  rw [firstRefusal, found]

/-- Where a context's image and residency are. -/
def Dev.awayView (c : Nat) (s : Dev) : Residence × Tab Tile := ((s.ctx c).resid, (s.ctx c).saved)

theorem Dev.awayView_modCtx (s : Dev) (c : Nat) (f : Ctx → Ctx) (resid : ∀ x, (f x).resid = x.resid)
    (saved : ∀ x, (f x).saved = x.saved) : (s.modCtx c f).awayView c = s.awayView c := by
  rw [Dev.awayView, Dev.ctx_modCtx, if_pos rfl, resid, saved, Dev.awayView]

/-- Physical tiles are given to a context's set, and its image stays. -/
theorem Dev.awayView_backTiles (s : Dev) (c n : Nat) : (s.backTiles c n).awayView c = s.awayView c :=
  (foldl_keeps (Dev.awayView c) (Dev.backTile c)
    (fun _ _ => Dev.awayView_modCtx _ c _ (fun _ => rfl) (fun _ => rfl)) _ _).trans
      (s.awayView_modCtx c _ (fun _ => rfl) (fun _ => rfl))

/-- A context whose resumption has begun. -/
def Dev.resuming (s : Dev) (c : Nat) : Dev :=
  (s.backTiles c (s.ctx c).ntile.toNat).modCtx c (fun x => { x with resid := .restoring })

section
variable {s : Dev} {c : Nat} (saved : (s.ctx c).resid = .preempted)
include saved

theorem Dev.ctxResume_of_room (idle : s.hif.pend = false) (room : (s.ctx c).ntile.toNat ≤ s.freeTiles.length) :
    s.ctxResume c = { s.resuming c with hif := { (s.resuming c).hif with pend := true } } := by
  unfold Dev.ctxResume
  dsimp only
  rw [Dev.hifStart_of_done _ idle (firstRefusal_of_none (by simp [saved, room]))]
  rfl

/-- The tiles of a context that begins to resume are still in its image. -/
theorem Dev.tile_resuming {k : Nat} (inside : k < (s.ctx c).ntile.toNat) : (s.resuming c).tile c k = s.tile c k := by
  obtain ⟨ntile, -, -⟩ := s.retiles_backTiles c (s.ctx c).ntile.toNat
  have image : ((s.backTiles c (s.ctx c).ntile.toNat).ctx c).saved = (s.ctx c).saved :=
    congrArg Prod.snd (s.awayView_backTiles c (s.ctx c).ntile.toNat)
  have ctx : (s.resuming c).ctx c = { (s.backTiles c (s.ctx c).ntile.toNat).ctx c with resid := .restoring } := by
    rw [Dev.resuming, Dev.ctx_modCtx, if_pos rfl]
  have size : ((s.resuming c).ctx c).ntile = (s.ctx c).ntile := by
    rw [ctx]
    exact ntile.trans (by rw [BitVec.ofNat_toNat, BitVec.setWidth_eq])
  rw [Dev.tile_of_away (by rw [ctx]; rfl) (by rw [size]; exact inside), ctx,
    Dev.tile_of_away (by rw [Ctx.away, saved]; rfl) inside]
  exact congrArg (fun m : Tab Tile => Tab.get {} m k) image

end

/-! ## The restore ends (R208, R216) -/

/-- Tiles put one after another into different physical tiles. -/
def Dev.putTiles (c : Nat) (f : Nat → Tile) (s : Dev) (n : Nat) : Dev :=
  (List.range n).foldl (fun d t => d.setTile c t (f t)) s

section
variable {s : Dev} {c n : Nat} (f : Nat → Tile)

theorem Dev.putTiles_succ : s.putTiles c f (n + 1) = (s.putTiles c f n).setTile c n (f n) := by
  rw [Dev.putTiles, List.range_succ, List.foldl_append]
  rfl

theorem Dev.berth_putTiles (k : Nat) : ((s.putTiles c f n).ctx k).berth = (s.ctx k).berth :=
  foldl_keeps (fun d : Dev => (d.ctx k).berth) _ (fun d t => d.berth_setTile c t _ k) _ _

/-- Each of them then holds what was put into it. -/
theorem Dev.tile_putTiles (present : (s.ctx c).away = false)
    (backed : ∀ k, k < n → (Tab.find (s.ctx c).backs k).isSome = true)
    (apart : ∀ j k, j < n → k < n → Tab.find (s.ctx c).backs j = Tab.find (s.ctx c).backs k → j = k) {k : Nat}
    (inside : k < n) : (s.putTiles c f n).tile c k = f k := by
  induction n with
  | zero => omega
  | succ n ih =>
    have berth := Dev.berth_putTiles (s := s) (c := c) (n := n) f c
    have present' : ((s.putTiles c f n).ctx c).away = false := (Ctx.away_of_berth berth).trans present
    have backs : ((s.putTiles c f n).ctx c).backs = (s.ctx c).backs := congrArg Berth.backs berth
    obtain ⟨p, last⟩ := Option.isSome_iff_exists.mp (backed n (by omega))
    rw [Dev.putTiles_succ]
    by_cases here : k = n
    · subst here
      refine Dev.tile_setTile _ c k _ ?_
      simp [Dev.tile?, present', backs, last]
    · have earlier : k < n := by omega
      obtain ⟨r, seat⟩ := Option.isSome_iff_exists.mp (backed k inside)
      have other : r ≠ p := fun same => here (apart k n inside (by omega) (by rw [seat, last, same]))
      have put := ih (fun k h => backed k (by omega)) (fun i j hi hj => apart i j (by omega) (by omega)) earlier
      rw [Dev.tile_of_backed present' (backs ▸ seat)] at put
      rw [Dev.setTile_of_backed present' (backs ▸ last)]
      refine (Dev.tile_of_backed (s := Dev.setPtile _ p _) present' (backs ▸ seat)).trans ?_
      rw [Dev.ptile_setPtile, if_neg other, put]

end

/-- The intervals in which a context was saved, with the present one (R291). -/
def Ctx.spansAt (x : Ctx) (now : Nat) : List (Nat × Nat) :=
  match x.savedAt with
  | some t => x.savedSpans ++ [(t, now)]
  | none => x.savedSpans

/-- A saved context is resident again, its image not yet in the tiles that back it. -/
def Dev.present (s : Dev) (c : Nat) (spans : List (Nat × Nat)) : Dev :=
  s.modCtx c (fun x => { x with resid := .resident, saved := [], area := [], savedAt := none, savedSpans := spans })

/-- A context's image comes back into its tiles. -/
def Dev.comeBack (s : Dev) (c n : Nat) (spans : List (Nat × Nat)) : Dev :=
  (s.present c spans).putTiles c (fun t => Tab.get {} (s.ctx c).saved t) n

/-- The hitches of a context in the places that they come back to (R208). -/
def Dev.rehitched (s : Dev) (c : Nat) : Dev := s.moveHitches c (placeAll s.ownedKeys (s.ctx c).ownHitches)

/-- The device with a context back whose image is in force, before its waiters and operations go on. -/
def Dev.restored (s : Dev) (c : Nat) : Dev :=
  (s.rehitched c).comeBack c (s.ctx c).ntile.toNat ((s.ctx c).spansAt s.time.ns.toNat)

theorem Dev.finishRestore_eq (s : Dev) (c : Nat) : s.finishRestore c =
    ((((s.loadImage c).restored c).runJobs (((s.loadImage c).restored c).wakeJobs c)).settle).hifEnd := rfl

theorem Dev.berths_rehitched (s : Dev) (c : Nat) : (s.rehitched c).berths Tile.stores = s.berths Tile.stores :=
  Dev.berths_moveHitches (fun _ _ => rfl) s c _

/-- The saved state in force is what the save wrote, while the save area holds it. -/
theorem Dev.loadImage_of_kept {s : Dev} {c : Nat}
    (intact : s.mem.poisoned (linesOf ((s.ctx c).pool (s.ctx c).usable) (s.ctx c).area.length) = false)
    (kept : (if (s.ctx c).allotEn then s.readBytes c ⟨.hbm, (s.ctx c).usable⟩ (s.ctx c).area.length else []) = (s.ctx c).area) :
    s.loadImage c = s := by
  unfold Dev.loadImage
  dsimp only
  rw [kept, intact, if_pos (by simp)]

section
variable {s : Dev} {c : Nat} (restoring : (s.ctx c).resid = .restoring)
include restoring

/-- A restored context is resident, and its tiles hold what they held in the image. -/
theorem Dev.restored_frame (backed : ∀ k, k < (s.ctx c).ntile.toNat → (Tab.find (s.ctx c).backs k).isSome = true)
    (apart : ∀ j k, j < (s.ctx c).ntile.toNat → k < (s.ctx c).ntile.toNat →
      Tab.find (s.ctx c).backs j = Tab.find (s.ctx c).backs k → j = k) :
    ((s.restored c).ctx c).resid = .resident ∧
      ∀ k, k < (s.ctx c).ntile.toNat → ((s.restored c).tile c k).stores = (s.tile c k).stores := by
  have same := s.berths_rehitched c
  have berth := Dev.berth_of_berths same c
  have ntile : ((s.rehitched c).ctx c).ntile = (s.ctx c).ntile := congrArg Berth.ntile berth
  have backs : ((s.rehitched c).ctx c).backs = (s.ctx c).backs := congrArg Berth.backs berth
  have away : ((s.rehitched c).ctx c).away = true := by rw [Ctx.away_of_berth berth, Ctx.away, restoring]; rfl
  have ctx (spans : List (Nat × Nat)) : ((s.rehitched c).present c spans).ctx c = { (s.rehitched c).ctx c with
      resid := .resident, saved := [], area := [], savedAt := none, savedSpans := spans } := by
    rw [Dev.present, Dev.ctx_modCtx, if_pos rfl]
  refine ⟨?_, fun k inside => ?_⟩
  · refine (congrArg Berth.resid (Dev.berth_putTiles _ c)).trans ?_
    exact congrArg Ctx.resid (ctx _)
  · have put : (s.restored c).tile c k = Tab.get {} ((s.rehitched c).ctx c).saved k := by
      refine Dev.tile_putTiles _ ?_ ?_ ?_ inside
      · rw [ctx]; rfl
      · rw [ctx]; exact backs ▸ backed
      · rw [ctx]; exact backs ▸ apart
    rw [put, ← Dev.tile_of_away away (by rw [ntile]; exact inside)]
    exact Dev.tile_of_berths same c k

theorem Dev.restoreEnd_of_free
    (uncached : s.mem.cached (linesOf ((s.ctx c).pool (s.ctx c).usable) (s.ctx c).area.length) = [])
    (intact : s.mem.poisoned (linesOf ((s.ctx c).pool (s.ctx c).usable) (s.ctx c).area.length) = false) :
    s.restoreEnd c = s.finishRestore c := by
  have free : s.linesFree (linesOf ((s.ctx c).pool (s.ctx c).usable) (s.ctx c).area.length) [] :=
    ⟨uncached, by simp, by simp [MemBlk.poisoned]⟩
  have go : ((s.ctx c).resid != .restoring) = false := by rw [restoring]; rfl
  unfold Dev.restoreEnd
  dsimp only
  rw [go, if_neg Bool.false_ne_true, s.withPool_of_free _ _ _ free, intact, if_neg Bool.false_ne_true]

end

/-- The waiters and operations of a context that is back go on, and no store of a tile changes. -/
theorem Dev.berths_finishRestore (s : Dev) (c : Nat) (inForce : s.loadImage c = s) :
    (s.finishRestore c).berths Tile.stores = (s.restored c).berths Tile.stores := by
  have ended (d : Dev) : d.hifEnd.berths Tile.stores = d.berths Tile.stores := rfl
  rw [Dev.finishRestore_eq, inForce, ended, Dev.berths_settle, Dev.berths_runJobs]

/-! ## O44 -/

theorem Dev.hif_hifEnd (s : Dev) : s.hifEnd.hif.pend = false ∧ s.hifEnd.hif.status = 0 := ⟨rfl, rfl⟩

section
variable {s t : Dev} {c : Nat} (saved : t = (s.packUp c).finishSave c ((s.packUp c).imageBytes c))
include saved

/-- A save that ends frees the tiles and is no longer in progress. -/
theorem Dev.away_of_saved : (t.ctx c).resid = .preempted ∧ (t.ctx c).backs = [] ∧ t.hif.pend = false ∧ t.hif.status = 0 := by
  have left := Dev.berth_of_berths ((s.packUp c).berths_finishSave (q := Tile.holdings) c ((s.packUp c).imageBytes c)) c
  rw [← saved, Dev.ctx_leaveTiles] at left
  refine ⟨congrArg Berth.resid left, congrArg Berth.backs left, ?_⟩
  rw [saved, Dev.finishSave_eq]
  exact Dev.hif_hifEnd _

/-- It keeps what the tiles hold. -/
theorem Dev.holdings_of_saved {k : Nat} (inside : k < (s.ctx c).ntile.toNat) :
    (t.tile c k).holdings = (s.tile c k).holdings := by
  have packed := s.berths_packUp c
  have ntile : ((s.packUp c).ctx c).ntile = (s.ctx c).ntile := congrArg Berth.ntile (Dev.berth_of_berths packed c)
  have left := (s.packUp c).berths_finishSave (q := Tile.holdings) c ((s.packUp c).imageBytes c)
  rw [saved, Dev.tile_of_berths left, Dev.tile_leaveTiles _ _ _ (by rw [ntile]; exact inside)]
  exact Dev.tile_of_berths packed c k

/-- It writes the save area alone (R216). -/
theorem Dev.pool_of_saved (canonical : s.mem.pool.wf = true) {y : Nat} (outside : y < (s.ctx c).pool (s.ctx c).usable ∨
      (s.ctx c).pool (s.ctx c).usable + saveArea (s.ctx c).ntile.toNat ≤ y) :
    Mem.read t.mem.pool y = Mem.read s.mem.pool y := by
  have berth := Dev.berth_of_berths (s.berths_packUp c) c
  have length := s.imageBytes_packUp_length_le c
  rw [saved, Dev.mem_finishSave, Dev.pool_writeHbm, Dev.mem_packUp, Ctx.usable_of_berth berth, Ctx.pool_of_berth berth]
  exact Mem.read_writeN_outside _ _ _ _ canonical (by omega)

end

/-- Settles O44: a pre-emption and a resumption begin by `Dev.hifStart_of_done`; a save ends by `Dev.saveEnd_of_settled`, with
what `Dev.away_of_saved`, `Dev.holdings_of_saved` and `Dev.pool_of_saved` say; a resumption leaves the tiles in their image
(`Dev.tile_resuming`); its end brings them back (`Dev.restored_frame`), and what goes on then changes no store
(`Dev.berths_finishRestore`). -/
theorem preemptionKeepsTiles : Obligations.PreemptionKeepsTiles := by
  refine ⟨fun c s opened => ⟨fun pending => ⟨?_, ?_⟩, fun idle resident => ?_, fun idle other => ?_⟩,
    fun c s saving => ⟨fun busy => ?_, fun settled uncached canonical => ?_⟩,
    fun c s opened idle saved room => ?_, fun c s restoring uncached intact kept backed apart => ?_⟩
  · rw [exec_preempt, s.onBar_of_open _ opened, Dev.preempt, Dev.hifStart_of_pending _ _ pending]
  · rw [exec_ctxResume, s.onBar_of_open _ opened, Dev.ctxResume, Dev.hifStart_of_pending _ _ pending]
  · rw [exec_preempt, s.onBar_of_open _ opened, Dev.preempt, Dev.hifStart_of_done _ idle (by rw [resident]; rfl)]
    rfl
  · have refused : (if (s.dev.ctx c.val).resid == .resident then Status.done else .busy) = .busy := by simp [other]
    rw [exec_preempt, s.onBar_of_open _ opened, Dev.preempt, refused, Dev.hifStart_of_refused _ idle (by decide)]
  · rw [exec_contextSaveEnd, Dev.saveEnd_of_unsettled busy]
  · rw [exec_contextSaveEnd, Dev.saveEnd_of_settled saving settled uncached]
    generalize saved : Dev.finishSave _ c.val _ = t
    obtain ⟨resid, backs, pend, status⟩ := Dev.away_of_saved saved.symm
    refine ⟨s.withDev t, rfl, resid, backs, pend, status, fun k inside => ?_,
      fun y outside => Dev.pool_of_saved saved.symm canonical outside, rfl⟩
    simpa only [Tile.holdings, Prod.mk.injEq] using Dev.holdings_of_saved saved.symm inside
  · have tiles (k : Nat) := Dev.tile_resuming saved (k := k)
    have resid : ((s.dev.resuming c.val).ctx c.val).resid = .restoring := by rw [Dev.resuming, Dev.ctx_modCtx, if_pos rfl]
    rw [exec_ctxResume, s.onBar_of_open _ opened, Dev.ctxResume_of_room saved idle room]
    generalize s.dev.resuming c.val = t at tiles resid ⊢
    exact ⟨_, rfl, resid, rfl, tiles, rfl⟩
  · have going := s.dev.berths_finishRestore c.val (Dev.loadImage_of_kept intact kept)
    obtain ⟨resident, tiles⟩ := Dev.restored_frame restoring backed apart
    have resid := (congrArg Berth.resid (Dev.berth_of_berths going c.val)).trans resident
    have stores (k : Nat) (inside : k < (s.dev.ctx c.val).ntile.toNat) :=
      (Dev.tile_of_berths going c.val k).trans (tiles k inside)
    have pend : (s.dev.finishRestore c.val).hif.pend = false := by rw [Dev.finishRestore_eq]; rfl
    rw [exec_contextRestoreEnd, Dev.restoreEnd_of_free restoring uncached intact]
    generalize s.dev.finishRestore c.val = t at resid stores pend ⊢
    refine ⟨s.withDev t, rfl, resid, pend, fun k inside => ?_, rfl⟩
    simpa only [Tile.stores, Prod.mk.injEq] using stores k inside

end Sys2Proof.Machine
end
